-- ==== Sys2Proof/Word.lean ====
section
/-! DEFINITION. The word types the spec's registers, commands and packets are made of. -/
namespace Sys2Proof

/-- The smallest addressable unit of every memory. -/
abbrev Byte := BitVec 8
/-- R7: a word is 32 bits. -/
abbrev Word := BitVec 32
/-- A 64-bit register, tick or feature value. -/
abbrev DWord := BitVec 64

end Sys2Proof
end

