-- ==== Sys2Proof/Syntax.lean ====
section
/-! DEFINITION. The commands of the block: one constructor of Instr for each row of spec/opcode_table.json, with the operands the row's rule names. The table gives no row any bits. -/
namespace Sys2Proof

/-- What the environment reports of the memory that a row reads or writes (Table 11.8, R213). An HBM address names its
channel by R232. -/
inductive MemFault where
  /-- no error -/
  | none
  /-- a correctable ECC error at an HBM address, corrected and written back -/
  | corrected (a : Nat)
  /-- an interface parity error at an HBM address whose retry succeeded -/
  | retried (a : Nat)
  /-- the fifth parity error of one read transfer -/
  | readFailed (a : Nat)
  /-- the fifth parity error of one write transfer of `n` bytes -/
  | writeFailed (a n : Nat)
  /-- an uncorrectable ECC error -/
  | uncorrectable (a : Nat)
  /-- a single-bit error in a crib, loft or the die network, corrected -/
  | sramCorrected
  /-- a double-bit error in a crib, at a byte of a physical core -/
  | cribDouble (shed core off : Nat)
  /-- a double-bit error in a loft -/
  | loftDouble (shed off : Nat)
  /-- a double-bit error on a die-network link -/
  | linkDouble (link : Nat)
  deriving DecidableEq, Repr

/-- A mailbox as one end names it (Table 3.1). -/
inductive Mbox where
  /-- host mailbox m of a PCIe function: 0 to 3 host to firmware, 4 to 7 firmware to host -/
  | host (fn m : Nat)
  /-- the mailbox of a shed -/
  | shed (s : Nat)
  /-- the sending side of remote mailbox m of a peer device -/
  | peer (dev m : Nat)
  /-- the receiving side of this device's remote mailbox m -/
  | remote (m : Nat)
  deriving DecidableEq, Repr

/-- A Furrow packet (Table 12.5) with its payload and the CRC word it carries. -/
structure Pkt where
  kind : Nat
  vc : Nat
  src : Nat
  dst : Nat
  paddock : Nat
  desc : Nat
  format : Nat
  tag : Nat
  length : Nat
  seq : Nat
  step : Nat
  offset : Nat
  crc : Nat
  payload : List Byte
  deriving DecidableEq, Repr

/-- R239: what the far end of a link sends in its identity exchange. -/
structure Neighbour where
  serial : Nat
  node : Nat
  port : Nat
  coord : Nat
  current : Nat
  oldest : Nat
  deriving DecidableEq, Repr

/-- R230, R231: the translation layer's figures of one Hayloft stack. -/
structure HayStack where
  reserve : Nat
  badBlocks : Nat
  eraseMean : Nat
  eraseMax : Nat
  relocating : Nat
  temp : Nat
  deriving DecidableEq, Repr

/-- The PLLs of Table 15.1. -/
inductive Pll where
  | die (n : Nat)
  | yard
  | network (n : Nat)
  | hbm (n : Nat)
  | hayloft
  | media
  | serdes (n : Nat)
  deriving DecidableEq, Repr

/-- Temperatures in 0.1 degrees C of the hottest field die, HBM stack and Hayloft stack (R359, R361). -/
structure Temps where
  die : Nat
  hbm : Nat
  hay : Nat
  deriving DecidableEq, Repr

/-- R333: what a PCIe link trained to: the speed as PCI Express numbers it, 1 (2.5 GT/s) to 6 (64 GT/s), and the lanes. -/
structure PcieLink where
  speed : Nat
  width : Nat
  deriving DecidableEq, Repr

/-- R346: TAP instructions; `debug` is any debug instruction. -/
inductive TapInstr where
  | bypass
  | idcode
  | sample
  | extest
  | highz
  | debug
  deriving DecidableEq, Repr

/-- The commands. `f` names a command in flight by its fetch number (R36); `fn` a PCIe function;
`dt` is the time in ns that passed before the event (log 4); `low` and `below` what the 48 V samples of
a warning gave, in mV and µs (R331); `far` that the receiver of a mailbox beyond this device, a host or a peer, is in a low-power state
(R56); `corrected` the codewords that each port has corrected since the last reading (R243, R260); `bad` an address that a read could
not deliver. -/
inductive Instr where
  /-- NOP: Administration command that does nothing and completes with counters of zero. (R45) -/
  | nop (f : Nat)
  /-- IDENTIFY: Writes a 4 KiB identity page (device, paddock, function, HBM channel map or spare map) to a host buffer. (R45) -/
  | identify (f : Nat)
  /-- FEATURE_GET: Returns the 64-bit value of a feature identifier. (R46) -/
  | featureGet (f : Nat)
  /-- FEATURE_SET: Sets a feature value after its range and state checks and returns the previous value. (R46) -/
  | featureSet (f : Nat)
  /-- PADDOCK_CREATE: Creates a paddock with its class, shed mask, dedicated HBM stacks and VC shares. (R281) -/
  | paddockCreate (f : Nat)
  /-- PADDOCK_DESTROY: Aborts a paddock's commands, stops its queues, frees its resources and clears its sheds. (R288) -/
  | paddockDestroy (f : Nat)
  /-- QUEUE_BIND: Binds a queue to a function, paddock, credit, rings, MSI-X vector and default timeout. (R25) -/
  | queueBind (f : Nat)
  /-- QUEUE_UNBIND: QUEUE_BIND with UNBIND set: stops fetching, aborts the queue's fetched commands, discards unfetched entries and unbinds the queue. (R26) -/
  | queueUnbind (f : Nat)
  /-- MAP_UPDATE: Installs a paddock's HBM translation root or host window table from a host table. (R369) -/
  | mapUpdate (f : Nat)
  /-- PLAN_LOAD: Reads, checks and copies a plan image into the plan store under a handle. (R63) -/
  | planLoad (f : Nat) (bad : Option Nat) (mf : MemFault)
  /-- PLAN_RUN: Checks, binds shapes for and runs a loaded plan as a sequence of steps on the paddock's sheds. (R68) -/
  | planRun (f : Nat)
  /-- PLAN_ABORT: Aborts running or waiting runs of a plan handle or of a tagged command. (R47) -/
  | planAbort (f : Nat)
  /-- PLAN_UNLOAD: Frees a plan handle and its room in the plan store once its in-flight runs complete. (R47) -/
  | planUnload (f : Nat)
  /-- COPY: Copies bytes between HBM, host memory and peer HBM over the Furrow fabric. (R45) -/
  | copy (f : Nat) (mf : MemFault)
  /-- FILL: Fills an HBM or host range with a 32-bit pattern. (R45) -/
  | fill (f : Nat) (mf : MemFault)
  /-- WINDOW_SET: Sets the streaming window depth of an installed plan. (R221) -/
  | windowSet (f : Nat)
  /-- PREFETCH_SCHEDULE: Gives a pinned stream of a plan a schedule of weight fetches. (R222) -/
  | prefetchSchedule (f : Nat)
  /-- CARRYOVER_SET: Enables or disables carry-over for a range of layers and names the carry-over cache. (R225) -/
  | carryoverSet (f : Nat)
  /-- HAYLOFT_WRITE: Writes 4 KiB blocks into the Hayloft from a maintenance paddock. (R229) -/
  | hayloftWrite (f : Nat) (mf : MemFault)
  /-- HAYLOFT_READ: Reads a range of the Hayloft logical space into HBM or host memory. (R227) -/
  | hayloftRead (f : Nat) (bad : Option Nat) (mf : MemFault)
  /-- HAYLOFT_TRIM: Trims a range of Hayloft blocks from a maintenance paddock. (R214) -/
  | hayloftTrim (f : Nat)
  /-- HAYLOFT_STATUS: Writes a 4 KiB Hayloft status page with per-stack records. (R231) -/
  | hayloftStatus (f : Nat)
  /-- SEQ_CREATE: Creates a sequence on a page-list header and initialises its records. (R150) -/
  | seqCreate (f : Nat)
  /-- SEQ_APPEND: Adds tokens to a sequence, taking pages and optionally copying rows from a source. (R151) -/
  | seqAppend (f : Nat) (mf : MemFault)
  /-- SEQ_VERIFY: Compares candidate branches, chooses the longest agreeing one and commits it. (R168) -/
  | seqVerify (f : Nat) (mf : MemFault)
  /-- SEQ_PAGES_EDIT: Applies a list of edits to a sequence's page list. (R163) -/
  | seqPagesEdit (f : Nat) (mf : MemFault)
  /-- SEQ_SWAP_OUT: Moves a sequence's count-1 pages to host swap slots. (R152) -/
  | seqSwapOut (f : Nat) (mf : MemFault)
  /-- SEQ_SWAP_IN: Moves a sequence's swapped pages back into the pool. (R152) -/
  | seqSwapIn (f : Nat) (mf : MemFault)
  /-- SEQ_DROP: Releases every reference, swap slot and private-copy page of a sequence and frees its handle. (R152) -/
  | seqDrop (f : Nat)
  /-- POOL_SET: Gives a paddock its page pool, host swap area and victim policy. (R148) -/
  | poolSet (f : Nat)
  /-- GROUP_DEFINE: Defines a collective group from a sub-block descriptor and axis mask. (R264) -/
  | groupDefine (f : Nat)
  /-- COLL_RUN: Runs a collective operation over a group on the two trees or a switch slot. (R265) -/
  | collRun (f : Nat) (mf : MemFault)
  /-- COLL_RUNV: Runs a variable-count all-gather, reduce-scatter or all-to-all over a group. (R270) -/
  | collRunv (f : Nat) (mf : MemFault)
  /-- GROUP_RELEASE: Frees a group handle after its collectives complete. (R264) -/
  | groupRelease (f : Nat)
  /-- ENC_OPEN: Opens an encoder stream with codec, profile, size, rate control and output ring. (R192) -/
  | encOpen (f : Nat)
  /-- ENC_PICTURE: Submits a numbered picture for encoding in its stream. (R195) -/
  | encPicture (f : Nat)
  /-- ENC_KEY: Marks the next picture not yet started as a key picture. (R200) -/
  | encKey (f : Nat)
  /-- DEC_OPEN: Opens a decoder stream with maxima and a picture buffer. (R205) -/
  | decOpen (f : Nat)
  /-- DEC_DATA: Decodes whole access or temporal units into output slots, discarding leading pictures. (R206) -/
  | decData (f : Nat)
  /-- MEDIA_CLOSE: Closes a media stream after its current picture, aborting its unstarted commands. (R210) -/
  | mediaClose (f : Nat)
  /-- ROUTE_LOAD: Loads a route table after queued packets drain and re-evaluates port identities. (R252) -/
  | routeLoad (f : Nat)
  /-- PORT_ENABLE: PORT_CONTROL action 0: enables a disabled port and starts training. (R237) -/
  | portEnable (f : Nat)
  /-- PORT_DISABLE: PORT_CONTROL action 1: stops a port, sets DISABLED and counts unanswered packets lost. (R238) -/
  | portDisable (f : Nat)
  /-- PORT_RETRAIN: PORT_CONTROL action 2: restarts training of a port that is not disabled. (R238) -/
  | portRetrain (f : Nat)
  /-- PORT_SET_REACH_CLASS: PORT_CONTROL action 3: sets the reach class of a disabled port. (R236) -/
  | portSetReachClass (f : Nat)
  /-- PORT_RELEASE_FENCE: PORT_CONTROL action 4: makes a port fenced only for node or port mismatch UP. (R242) -/
  | portReleaseFence (f : Nat)
  /-- GTC_READ: GTC_CONTROL action 0: returns the global tick counter. (R277) -/
  | gtcRead (f : Nat)
  /-- GTC_SET_ROOT: GTC_CONTROL action 1: names the root device of the global tick. (R277) -/
  | gtcSetRoot (f : Nat)
  /-- GTC_STEERING_ON: GTC_CONTROL action 2: enables steering from the parent port. (R277) -/
  | gtcSteeringOn (f : Nat)
  /-- GTC_STEERING_OFF: GTC_CONTROL action 3: stops steering; the counter runs FREE. (R277) -/
  | gtcSteeringOff (f : Nat)
  /-- GTC_PPS_SETUP: GTC_CONTROL action 4: configures pulse-per-second output and input. (R278) -/
  | gtcPpsSetup (f : Nat)
  /-- LATENCY_SET: Sets a paddock's tolerable wake latency and its sheds' power target. (R299) -/
  | latencySet (f : Nat)
  /-- POWER_CAP: Sets the module power ceiling. (R302) -/
  | powerCap (f : Nat)
  /-- FALLOW_POLICY: Enables or stops fallow checks and sets minimum idle and cap. (R316) -/
  | fallowPolicy (f : Nat)
  /-- TEST_RUN: Runs selected self-test slices back to back on the cores of named sheds. (R318) -/
  | testRun (f : Nat) (fails : List (Nat × Nat × Nat))
  /-- CORE_RETIRE: Retires a named physical core. (R314) -/
  | coreRetire (f : Nat)
  /-- LOG_READ: Writes records of a device log (port statistics, GTC, fallow, measurements) to a host buffer. (R260) -/
  | logRead (f : Nat) (corrected : List (Nat × Nat))
  /-- GUARD_POLICY: Sets the precision guard thresholds of a plan. (R120) -/
  | guardPolicy (f : Nat)
  /-- FALLBACK_BUDGET: Sets the number of layers the guard may promote per pass. (R124) -/
  | fallbackBudget (f : Nat)
  /-- DEVICE_RESET: Aborts every in-flight command, completes, then starts a warm or module reset. (R48) -/
  | deviceReset (f : Nat)
  /-- PADDOCK_RESET: Resets one paddock, aborting its commands and dropping its plans, sequences, groups and streams. (R323) -/
  | paddockReset (f : Nat)
  /-- TLOAD: Tile instruction that moves a source tile into the crib or loft, converting if needed. (R370) -/
  | tload (f : Nat) (k : Nat) (c : Nat) (mf : MemFault)
  /-- TSTORE: Tile instruction that moves a crib tile to loft, HBM, host or peer HBM. (R370) -/
  | tstore (f : Nat) (k : Nat) (c : Nat) (mf : MemFault)
  /-- TMM: Tile matrix multiply-accumulate into the core accumulator, optionally rounded out. (R368) -/
  | tmm (f : Nat) (k : Nat) (c : Nat) (mf : MemFault)
  /-- TCONV: Direct-path convolution or pooling tile on the matrix unit or special-function lanes. (R178) -/
  | tconv (f : Nat) (k : Nat) (c : Nat) (mf : MemFault)
  /-- TFFT: FFT unit forward transform, spectral product or inverse transform for frequency-path convolution. (R179) -/
  | tfft (f : Nat) (k : Nat) (mf : MemFault)
  /-- TSF: Evaluates a special function per element on the special-function lanes. (R133) -/
  | tsf (f : Nat) (k : Nat) (c : Nat) (mf : MemFault)
  /-- TNORM: Computes row statistics and applies layer norm or RMS norm. (R138) -/
  | tnorm (f : Nat) (k : Nat) (c : Nat) (mf : MemFault)
  /-- TSOFT: Soft-maximum group member that updates running max and sum and at LAST writes probabilities. (R141) -/
  | tsoft (f : Nat) (k : Nat) (c : Nat) (mf : MemFault)
  /-- TXCH: Copies headland samples of a core's tile into another core's extended tile. (R185) -/
  | txch (f : Nat) (k : Nat) (c : Nat) (mf : MemFault)
  /-- TBATCH: Runs the following template instruction once per pointer-list entry. (R84) -/
  | tbatch (f : Nat) (k : Nat) (mf : MemFault)
  /-- TSIG: After preceding instructions finish, makes writes visible and increments a local or remote counter. (R80) -/
  | tsig (f : Nat) (k : Nat) (c : Option Nat)
  /-- TWAIT: Holds issue of the shed's later instructions until a counter reaches a threshold. (R80) -/
  | twait (f : Nat) (k : Nat)
  /-- TWAIT_RELEASE: A waiting TWAIT's counter reaches its threshold and issue resumes. (R80) -/
  | twaitRelease (f : Nat) (k : Nat)
  /-- TCHAIN: Makes the next instructions of a core a chain that pass outputs through the crib. (R91) -/
  | tchain (f : Nat) (k : Nat) (c : Nat)
  /-- PLAN_STEP_END: A step ends when every plan shed passed its marker, its writes are visible and peers accepted its pages; the next step starts. (R68) -/
  | planStepEnd (f : Nat)
  /-- COMMAND_FETCH: The E9 fetches a submission entry when credit and device slots allow, serving held queues round-robin. (R29) -/
  | commandFetch (q : Nat) (err : Option Nat)
  /-- COMMAND_START: A fetched command whose fences and paddock run slot are clear starts to run. (R40) -/
  | commandStart (f : Nat)
  /-- COMMAND_TIMEOUT: A command's timeout, extended by link recovery, expires and the command stops at its next boundary with ST_TIMEOUT. (R43) -/
  | commandTimeout (f : Nat) (dt : Nat)
  /-- INTERRUPT_COALESCE_TIMEOUT: The coalescing time of a vector expires and the vector is raised. (R35) -/
  | interruptCoalesceTimeout (fn : Nat) (vec : Nat) (dt : Nat)
  /-- SQ_DB_WRITE: A submission doorbell write advances a queue's tail or is rejected as invalid. (R28) -/
  | sqDbWrite (fn : Nat) (q : Nat) (v : Word) (stores : List (Nat × List Byte))
  /-- CQ_HD_WRITE: A completion head write frees completion slots, letting held completions be written. (R34) -/
  | cqHdWrite (fn : Nat) (q : Nat) (v : Word)
  /-- ADMQ_ENABLE: Write of ADMQ_CFG ENABLE = 1 starts queue 0 from slot 0, or is held until READY. (R22) -/
  | admqEnable (v : Word)
  /-- ADMQ_DISABLE: Write of ADMQ_CFG ENABLE = 0 stops queue 0 fetching or cancels a held enable. (R22) -/
  | admqDisable (v : Word)
  /-- EVT_RING_ENABLE: Write of EVT_RING_BASE ENABLE = 1 starts the event ring from slot 0 and writes held records. (R58) -/
  | evtRingEnable (fn : Nat) (v : DWord)
  /-- EVT_RING_DISABLE: Write of EVT_RING_BASE ENABLE = 0 stops writing event records. (R58) -/
  | evtRingDisable (fn : Nat) (v : DWord)
  /-- EVT_HEAD_WRITE: Write of the event ring HEAD frees record slots or is rejected as invalid. (R58) -/
  | evtHeadWrite (fn : Nat) (v : Word)
  /-- EVT_CAUSE_CLEAR: W1C write to EVT_CAUSE clears OVERFLOW or EVENT bits. (R10) -/
  | evtCauseClear (fn : Nat) (v : Word)
  /-- EVT_LOST_READ: Read of EVT_LOST returns and clears the count of discarded records. (R10) -/
  | evtLostRead (fn : Nat)
  /-- MBOX_DATA_WRITE: Sender writes a mailbox data word, waking a sleeping receiving domain. (R56) -/
  | mboxDataWrite (mb : Mbox) (i : Nat) (v : Word) (far : Bool)
  /-- MBOX_GO: Sender writes TXCTL GO, making the message FULL for the receiver. (R52) -/
  | mboxGo (mb : Mbox) (far : Bool)
  /-- MBOX_ABORTED_CLEAR: Sender clears TXCTL ABORTED by W1C write. (R57) -/
  | mboxAbortedClear (mb : Mbox) (v : Word)
  /-- MBOX_RELEASE: Receiver's read of RXCTL returns FULL and releases the message. (R53) -/
  | mboxRelease (mb : Mbox)
  /-- MBOX_WAKE_DONE: The receiving domain of a mailbox runs and WAKE_PENDING clears. (R56) -/
  | mboxWakeDone (mb : Mbox)
  /-- SHED_MBOX_MESSAGE: Firmware or a shed controller sends a message through a shed mailbox. (R54) -/
  | shedMboxMessage (shed : Nat) (fromFirmware : Bool) (data : List Word)
  /-- STANDBY_REQUEST: Host message 0x0300 requests STANDBY; firmware accepts or refuses. (R301) -/
  | standbyRequest (fn : Nat) (m : Nat)
  /-- STANDBY_ENTER: After an accepted request the device powers down to STANDBY. (R301) -/
  | standbyEnter
  /-- STANDBY_WAKE: A host mailbox GO or board controller wake starts the return from STANDBY to READY. (R301) -/
  | standbyWake
  /-- QP_CREATE: Host message 0x0400 creates a RoCEv2 queue pair. (R339) -/
  | qpCreate (fn : Nat) (m : Nat)
  /-- QP_DESTROY: Host message 0x0402 destroys a RoCEv2 queue pair. (R341) -/
  | qpDestroy (fn : Nat) (m : Nat)
  /-- PORT_ADDR: Host message 0x0404 sets an Ethernet port's MAC, IP address and VLAN. (R339) -/
  | portAddr (fn : Nat) (m : Nat)
  /-- KEY_LOAD: Host message 0x0500 delivers one part of a wrapped key and unwraps it into a slot after part 2. (R347) -/
  | keyLoad (fn : Nat) (m : Nat)
  /-- KEY_CLEAR: Host message 0x0502 empties a Hayloft key slot not in use. (R347) -/
  | keyClear (fn : Nat) (m : Nat)
  /-- KEK_LOAD: Host message 0x0504 sets part of the key-encryption key under a PROVISION policy. (R348) -/
  | kekLoad (fn : Nat) (m : Nat)
  /-- BAR2_READ: Host read through the BAR2 window onto HBM. (R335) -/
  | bar2Read (off : Nat) (len : Nat) (bad : Bool)
  /-- BAR2_WRITE: Host write through the BAR2 window onto HBM, merged with fresh ECC. (R335) -/
  | bar2Write (off : Nat) (data : List Byte) (bad : Bool)
  /-- BAR2_WIN_WRITE: Write of BAR2_WIN setting the window base and, if the boot policy allows, ENABLE. (R335) -/
  | bar2WinWrite (fn : Nat) (v : DWord)
  /-- REGISTER_WRITE: Write to any other BAR0 register or reserved range, taking effect per its access type. (R21) -/
  | registerWrite (fn : Nat) (off : Nat) (width : Nat) (v : DWord)
  /-- NUMVFS_WRITE: Host writes NumVFs, enabling virtual functions or resetting removed ones. (R334) -/
  | numvfsWrite (n : Nat)
  /-- WRITE_PACKET: A received WRITE packet is checked and its bytes written to HBM, then answered. (R247) -/
  | writePacket (p : Nat) (pkt : Pkt)
  /-- READ_REQ_PACKET: A received READ_REQ packet is checked and answered with READ_DATA. (R247) -/
  | readReqPacket (p : Nat) (pkt : Pkt)
  /-- READ_DATA_PACKET: A received READ_DATA packet delivers requested bytes. (R247) -/
  | readDataPacket (p : Nat) (pkt : Pkt)
  /-- PAGE_PACKET: A received key-value PAGE packet is accepted into staging or refused as busy. (R160) -/
  | pagePacket (p : Nat) (pkt : Pkt)
  /-- SIGNAL_PACKET: A received remote SIGNAL is applied, held for the next step or discarded. (R81) -/
  | signalPacket (p : Nat) (pkt : Pkt)
  /-- COLLECTIVE_PACKET: A received UP, DOWN, DIRECT or COUNTS collective packet is accepted or answered BUSY. (R262) -/
  | collectivePacket (p : Nat) (pkt : Pkt)
  /-- COLL_FAIL_PACKET: A received FAIL packet is forwarded once and completes the member's collective with the carried status. (R262) -/
  | collFailPacket (p : Nat) (pkt : Pkt)
  /-- SLOT_REPLY: Switch's reply to a slot request grants or denies reduction slots. (R272) -/
  | slotReply (p : Nat) (pkt : Pkt)
  /-- SLOT_RESULT: Switch's slot result payload is written into the member's destination. (R272) -/
  | slotResult (p : Nat) (pkt : Pkt)
  /-- SLOT_ABORT: A slot abort from the switch makes the member rerun the reduction on the trees. (R272) -/
  | slotAbort (p : Nat) (pkt : Pkt)
  /-- SLOT_REPLY_TIMEOUT: No slot reply within 20 µs counts as a denial. (R272) -/
  | slotReplyTimeout (f : Nat) (dt : Nat)
  /-- SLOT_RESULT_GAP_TIMEOUT: 100 µs without a new slot result makes the member send SLOT_ABORT and fall back to trees. (R272) -/
  | slotResultGapTimeout (f : Nat) (dt : Nat)
  /-- MAILBOX_PACKET: A received remote MAILBOX packet is delivered or refused BUSY. (R55) -/
  | mailboxPacket (p : Nat) (pkt : Pkt)
  /-- RESPONSE_PACKET: A received RESPONSE marks a sent packet ACCEPTED, BUSY or RELEASED. (R246) -/
  | responsePacket (p : Nat) (pkt : Pkt)
  /-- PAGE_RESEND: A refused page is resent every 2 µs. (R160) -/
  | pageResend (dst : Nat) (seq : Nat) (dt : Nat)
  /-- COLL_RESEND: A collective packet answered BUSY is resent every 2 µs. (R262) -/
  | collResend (dst : Nat) (seq : Nat) (dt : Nat)
  /-- MBOX_REMOTE_RESEND: A refused remote mailbox packet is resent every 10 µs. (R55) -/
  | mboxRemoteResend (dev : Nat) (m : Nat) (dt : Nat)
  /-- MBOX_REMOTE_TIMEOUT: A remote mailbox not delivered 1 ms after GO is set ABORTED. (R55) -/
  | mboxRemoteTimeout (dev : Nat) (m : Nat) (dt : Nat)
  /-- PORT_TRAINING_START: The E9 starts training every port when it becomes ready after a reset. (R237) -/
  | portTrainingStart
  /-- PORT_TRAINING_DONE: Training finishes with identity exchange; the port becomes UP or FENCED. (R239) -/
  | portTrainingDone (p : Nat) (nb : Neighbour) (lanes : Nat)
  /-- PORT_TRAINING_TIMEOUT: Training does not finish within the class limit and the port becomes FAILED. (R238) -/
  | portTrainingTimeout (p : Nat) (dt : Nat)
  /-- PORT_AUTO_RETRAIN: A FAILED port is retrained automatically after 10 ms and then every 1 s. (R238) -/
  | portAutoRetrain (p : Nat) (dt : Nat)
  /-- LINK_REPLAY: An uncorrectable codeword or frame-check failure causes a replay from the first unacknowledged frame. (R243) -/
  | linkReplay (p : Nat) (dir : Bool) (dt : Nat)
  /-- REPLAY_STORM: A 17th replay within 40 µs names the worst lane and starts a lane swap or fails the port. (R244) -/
  | replayStorm (p : Nat) (dir : Bool) (lane : Option Nat)
  /-- LANE_ERROR_EXCESS: A lane carrying over half the corrected symbols above the error ratio over 1 ms starts a lane swap. (R244) -/
  | laneErrorExcess (p : Nat) (dir : Bool) (lane : Nat)
  /-- LANE_SWAP_DONE: A lane's traffic moves onto the spare and held traffic resumes. (R244) -/
  | laneSwapDone (p : Nat) (dir : Bool) (dt : Nat)
  /-- LANE_SWAP_HOLD_TIMEOUT: A lane swap hold reaches 200 µs and the port becomes FAILED. (R245) -/
  | laneSwapHoldTimeout (p : Nat) (dir : Bool) (dt : Nat)
  /-- LINK_SIGNAL_LOSS: Loss of signal or lock on receive makes the port FAILED and counts sent packets lost. (R245) -/
  | linkSignalLoss (p : Nat)
  /-- GTC_TIMESTAMP_EXCHANGE: Each microsecond a port exchanges timestamps and the counter steers from its parent. (R274) -/
  | gtcTimestampExchange (p : Nat) (t1 : Nat) (t2 : Nat) (t3 : Nat) (t4 : Nat)
  /-- GTC_LOCK: The offset stays within 5 ns for 1 ms and the counter becomes LOCKED. (R275) -/
  | gtcLock (dt : Nat)
  /-- GTC_UNLOCK: The offset exceeds 100 ns for 100 µs and the counter returns to ACQUIRING. (R275) -/
  | gtcUnlock (dt : Nat)
  /-- GTC_PPS_OUT_PULSE: GTC_PPS_OUT is driven high at each tick that is a multiple of 10^9. (R278) -/
  | gtcPpsOutPulse (dt : Nat)
  /-- GTC_PPS_IN_EDGE: A rising edge on GTC_PPS_IN is timestamped and the root steps or steers to it. (R278) -/
  | gtcPpsInEdge (dt : Nat) (high : Nat)
  /-- GTC_PPS_IN_LOSS: No input pulse for 1.1 s; the root holds its rate and posts EV_GTC_UNLOCKED. (R278) -/
  | gtcPpsInLoss (dt : Nat)
  /-- WEIGHT_FETCH_START: The main stream starts fetching the next non-resident layer into the window. (R220) -/
  | weightFetchStart (pk : Nat)
  /-- WEIGHT_FETCH_DONE: A layer copy becomes resident in the window and a stalled step may start. (R220) -/
  | weightFetchDone (pk : Nat) (layer : Nat) (bad : Option Nat)
  /-- PINNED_FETCH_DONE: A pinned schedule fetch finishes and its NEED_STEP may start. (R222) -/
  | pinnedFetchDone (f : Nat) (stream : Nat) (entry : Nat) (bad : Option Nat)
  /-- WEIGHT_LATE_LIMIT: A weight stall reaches LATE_LIMIT and the run completes with ST_WEIGHT_LATE. (R224) -/
  | weightLateLimit (f : Nat) (dt : Nat)
  /-- HAYLOFT_RELOCATION: The translation layer relocates blocks for wear, bad blocks or read disturb. (R230) -/
  | hayloftRelocation (stack : Nat) (after : HayStack)
  /-- HBM_SCRUB: Each HBM word is scrubbed once every 24 hours. (R232) -/
  | hbmScrub (a : Nat) (bad : Option Bool)
  /-- HBM_REFRESH_CHANGE: A stack crossing 95 °C or 93 °C doubles or restores its refresh rate. (R232) -/
  | hbmRefreshChange (stack : Nat) (temp : Nat)
  /-- HBM_THROTTLE_STEP: A stack above 100 °C lowers its field die's clock by 100 MHz every 1 ms. (R234) -/
  | hbmThrottleStep (stack : Nat) (temp : Nat) (dt : Nat)
  /-- HBM_THROTTLE_RECOVER: After 10 ms below 97 °C the die regains 100 MHz every 10 ms. (R234) -/
  | hbmThrottleRecover (stack : Nat) (temp : Nat) (dt : Nat)
  /-- HBM_ISSUE_PAUSE: A stack at 105 °C at 700 MHz pauses issue until it falls below 100 °C. (R234) -/
  | hbmIssuePause (stack : Nat) (temp : Nat)
  /-- MEDIA_PICTURE_START: At a picture boundary an engine takes the next ready picture of its streams. (R189) -/
  | mediaPictureStart (e : Nat) (mf : MemFault)
  /-- MEDIA_PICTURE_DONE: An engine finishes coding or decoding a picture and completes its command. (R199) -/
  | mediaPictureDone (e : Nat) (upto : Option Nat) (credits : Nat)
  /-- ENC_OUTPUT_RESUME: A picture stopped for ring space or Ethernet credit resumes once room appears. (R197) -/
  | encOutputResume (e : Nat) (credits : Nat)
  /-- RDMA_WRITE_IN: An incoming RDMA WRITE is checked against R_Key and map and written into HBM. (R340) -/
  | rdmaWriteIn (qp : Nat) (rkey : Nat) (a : Nat) (data : List Byte)
  /-- RDMA_READ_IN: An incoming RDMA READ is checked and answered with HBM data. (R340) -/
  | rdmaReadIn (qp : Nat) (rkey : Nat) (a : Nat) (len : Nat)
  /-- RDMA_SEND_IN: An incoming RoCEv2 SEND is answered with a NAK for an invalid request. (R338) -/
  | rdmaSendIn (qp : Nat)
  /-- CNP_IN: A congestion notification packet reduces the queue pair's rate under DCQCN. (R337) -/
  | cnpIn (qp : Nat)
  /-- PFC_FRAME_IN: A priority flow control frame pauses transmission on its priority. (R337) -/
  | pfcFrameIn (port : Nat) (prio : Nat) (quanta : Nat)
  /-- ETH_FRAME_DISCARD: A frame of any other protocol is discarded and counted. (R337) -/
  | ethFrameDiscard (port : Nat)
  /-- SHED_ENTER_GATE: A shed idle for 2 µs enters GATE. (R296) -/
  | shedEnterGate (shed : Nat) (dt : Nat)
  /-- SHED_ENTER_HOLD: A shed idle for 100 µs enters HOLD. (R296) -/
  | shedEnterHold (shed : Nat) (dt : Nat)
  /-- SHED_SAVE_START: A shed idle for 2 ms starts copying its contents to the save area. (R297) -/
  | shedSaveStart (shed : Nat) (dt : Nat)
  /-- SHED_SAVE_DONE: The save copy finishes and the shed is in SAVE. (R297) -/
  | shedSaveDone (shed : Nat)
  /-- SHED_ENTER_OFF: A shed idle for 20 ms enters OFF and loses its contents. (R296) -/
  | shedEnterOff (shed : Nat) (dt : Nat)
  /-- SHED_WAKE_DONE: A woken shed can issue its first instruction. (R297) -/
  | shedWakeDone (shed : Nat)
  /-- PLL_LOCK: A started PLL locks within 12 µs. (R291) -/
  | pllLock (pll : Pll)
  /-- DEVICE_REST_ENTER: The device enters REST after its conditions have held for 50 ms. (R300) -/
  | deviceRestEnter (dt : Nat)
  /-- POWER_CAP_LOWER: With the 10 ms mean above the ceiling, one die is lowered one point every 1 ms. (R302) -/
  | powerCapLower (mean : Nat) (dt : Nat)
  /-- POWER_CAP_RAISE: With the mean 5 % below the ceiling for 10 ms, one die is raised one point every 10 ms. (R302) -/
  | powerCapRaise (mean : Nat) (dt : Nat)
  /-- PADDOCK_SWITCH: The E9 switches the IN member of a rotation set out for a member with demand. (R285) -/
  | paddockSwitch (mask : Nat)
  /-- PADDOCK_TURN_EXPIRY: An ordinary IN member reaches 10 ms while another ordinary member has demand. (R285) -/
  | paddockTurnExpiry (mask : Nat) (dt : Nat)
  /-- PADDOCK_SWITCH_DONE: Save and restore finish and the incoming paddock issues its first instruction. (R287) -/
  | paddockSwitchDone (mask : Nat)
  /-- FALLOW_SWEEP_START: Every 600 s a sweep of a physical core starts and its slices fall due. (R306) -/
  | fallowSweepStart (shed : Nat) (core : Nat) (dt : Nat)
  /-- FALLOW_SLICE_START: A due slice starts at the core's first opportunity. (R306) -/
  | fallowSliceStart (shed : Nat) (core : Nat) (slice : Nat) (dt : Nat)
  /-- FALLOW_SLICE_VERDICT: A slice ends with PASS or FAIL, possibly retiring the core. (R310) -/
  | fallowSliceVerdict (shed : Nat) (core : Nat) (pass : Bool) (dt : Nat)
  /-- FALLOW_SLICE_YIELD: A slice yields within 2 µs of work, an access, a reset or a clock change. (R309) -/
  | fallowSliceYield (shed : Nat) (core : Nat) (dt : Nat)
  /-- FALLOW_SHED_WAKE: A sleeping shed with a slice due for 10 s is woken to run its due slices. (R307) -/
  | fallowShedWake (shed : Nat) (dt : Nat)
  /-- SHED_LEAVE_SERVICE: A shed below 64 good cores leaves service once its run in flight completes. (R315) -/
  | shedLeaveService (shed : Nat)
  /-- SHED_RESET: Firmware resets a shed whose controller makes no progress for 100 ms. (R324) -/
  | shedReset (shed : Nat)
  /-- SUPPLY_WARNING_ENTER: 48 V below 42.0 V or PWR_WARN# asserted puts every die at P8 and pauses issue. (R330) -/
  | supplyWarningEnter (mv : Nat)
  /-- SUPPLY_WARNING_EXIT: After 100 µs above 44.0 V with PWR_WARN# deasserted the dies resume at P7. (R331) -/
  | supplyWarningExit (mv : Nat) (low : Nat) (below : Nat) (dt : Nat)
  /-- SUPPLY_RECOVERY_STEP: After a warning the dies climb one operating point every 20 µs or less. (R331) -/
  | supplyRecoveryStep (die : Nat) (dt : Nat)
  /-- PWR_WARN_ASSERT: The board controller asserts PWR_WARN#, entering the supply warning. (R329) -/
  | pwrWarnAssert
  /-- PWR_WARN_DEASSERT: The board controller deasserts PWR_WARN#, removing the pin's cause. (R329) -/
  | pwrWarnDeassert
  /-- VIN_BELOW_38V: 48 V input below 38.0 V starts a module reset at once. (R329) -/
  | vinBelow38V (mv : Nat)
  /-- AUX_SUPPLY_LOSS: 12 V auxiliary below 10.8 V for 1 ms stops every domain. (R329) -/
  | auxSupplyLoss (mv : Nat) (dt : Nat)
  /-- REFCLK_LOSS: Reference clock absent for more than 10 µs stops every PLL and holds reset. (R292) -/
  | refclkLoss (dt : Nat)
  /-- REFCLK_RETURN: Reference present for 1 ms after a loss performs a module reset. (R292) -/
  | refclkReturn (dt : Nat)
  /-- PERST_ASSERT: PERST# asserted causes a module reset. (R319) -/
  | perstAssert
  /-- PERST_DEASSERT: PERST# deasserted lets the cold start proceed. (R321) -/
  | perstDeassert
  /-- PF_FLR: Function-level reset of the physical function causes a warm reset. (R334) -/
  | pfFlr
  /-- PCIE_HOT_RESET: PCIe hot reset causes a warm reset; `link`: what the link then trains to. (R319, R333) -/
  | pcieHotReset (link : PcieLink)
  /-- PCIE_LINK_DOWN: PCIe link-down causes a warm reset; `link`: what the link then trains to. (R319, R333) -/
  | pcieLinkDown (link : PcieLink)
  /-- VF_FLR: Function-level reset of a virtual function unbinds its queues and resets its registers and mailboxes. (R325) -/
  | vfFlr (fn : Nat)
  /-- COLD_START: Once supplies, reference and PERST# are ready the E9 boots to READY; `link`: what the PCIe link trains to. (R321, R333) -/
  | coldStart (dt : Nat) (link : PcieLink) (fails : List (Nat × Nat × Nat))
  /-- THERMAL_TRIP: A die, HBM or Hayloft stack at its trip temperature stops every domain. (R361) -/
  | thermalTrip (temps : Temps)
  /-- THERM_ALERT_EVAL: The alert cause is re-evaluated at most every 1 ms and THERM_ALERT# asserted. (R359) -/
  | thermAlertEval (temps : Temps)
  /-- I3C_ENTDAA: The board controller assigns the E9 a dynamic I3C address. (R342) -/
  | i3cEntdaa (addr : Nat)
  /-- I3C_ALERT_CAUSE_READ: Read of I3C register 0x0C returns and clears the alert cause. (R359) -/
  | i3cAlertCauseRead
  /-- I3C_STANDBY_WAKE: Write of 0x0001 to I3C register 0x0E starts the return from STANDBY. (R342) -/
  | i3cStandbyWake (v : Nat)
  /-- JTAG_TAP_INSTRUCTION: A TAP instruction runs, with debug instructions acting as BYPASS unless permitted. (R346) -/
  | jtagTapInstruction (i : TapInstr)
  /-- WARM_RESET_DONE: A warm reset finishes and READY returns to 1 within 2 s, or 3 s with a channel mapped out, letting a held ADMQ enable take effect and posting EV_RESET_DONE and EV_SETTINGS_DEFAULTED. (R319) -/
  | warmResetDone
  /-- VIN_RESTORE: The 48 V input returns while the device is in STANDBY or waking from it, and the return to READY proceeds from that moment. (R301) -/
  | vinRestore (mv : Nat)
  /-- HBM_ISSUE_RESUME: A stack that paused issue at 105 °C falls below 100 °C, and issue to the die's sheds resumes. (R234) -/
  | hbmIssueResume (stack : Nat) (temp : Nat)
  /-- THERMAL_TRIP_COOLED: During a thermal trip every die and stack falls below 85 °C, and a pending PERST# module reset may proceed. (R361) -/
  | thermalTripCooled (temps : Temps)
  /-- TRANSFER_DONE: A data-moving command such as a local COPY, FILL, HAYLOFT_READ, HAYLOFT_WRITE, PLAN_LOAD or SEQ_SWAP finishes its transfer, and its completion entry is written and its vector raised. (R35) -/
  | transferDone (f : Nat)
  /-- PCIE_COMPLETION_TIMEOUT: A read of host memory gets no completion within the PCIe completion timeout, and after a second timeout the command completes with ST_MEM_UNCORRECTABLE and EV_HOST_READ_ERROR is posted. (R336) -/
  | pcieCompletionTimeout (f : Nat) (a : Nat) (cls : Nat)  deriving DecidableEq, Repr

end Sys2Proof
end

