-- ==== Sys2Proof/Decode.lean ====
section
/-! DEFINITION. Commands spelled by table words. spec/opcode_table.json gives no row any bits, so no word spells a command (log 7). -/
namespace Sys2Proof

/-- The command that the `nbits` table bits of `w` spell: none, as the table gives no row bits. -/
def decodeTableWord (_nbits _w : Nat) : Option Instr := none

end Sys2Proof
end

