-- ==== Sys2Proof/Config.lean ====
section
/-! DEFINITION. What an implementation fixes and the spec leaves open: constants without a body, so that no proof can see a value of them (log 12, log 13, log 14). -/
namespace Sys2Proof

/-- R240, Table 12.4: CURRENT of feature 0x0200, set by the firmware image. -/
opaque Config.linkCurrent : Nat
/-- R112, Table 5.7: CURRENT of feature 0x0400, set by the firmware image. -/
opaque Config.reductionCurrent : Nat
/-- R112, Table 5.7: OLDEST of feature 0x0400, set by the firmware image. -/
opaque Config.reductionOldest : Nat
/-- R239: this module's 64-bit serial. -/
opaque Config.serial : DWord
/-- R346: Onran's manufacturer identity, bits [11:1] of IDCODE. -/
opaque Config.jtagMaker : Nat

/-- R130, R133: FP32 coefficient k (0 to 3) of segment `seg`, counted from the left, of TSF function `fn`; coefficient
0 is the value stored at the segment's left end. -/
opaque Config.sfCoef (fn seg k : Nat) : Word
/-- Table 7.3: the variance of a row without elements, by destination descriptor and the row's logical index. -/
opaque Config.emptyVar (desc idx : Nat) : Word
/-- R182, R183: a global average over no positions, by destination descriptor and logical index. -/
opaque Config.emptyMean (desc idx : Nat) : Word
/-- R181: the FFT unit's transform of complex FP32 points (real and imaginary parts in turn) over
2^nw x 2^nh x 2^nd points. -/
opaque Config.fft (inverse : Bool) (nw nh nd : Nat) (pts : List Word) : List Word

/-- R345: SHA-384. -/
opaque Config.sha384 (bs : List Byte) : BitVec 384
/-- R347: RFC 3394 unwrap of 72 bytes under the key-encryption key; none when its check fails. -/
opaque Config.keyUnwrap (kek : BitVec 256) (wrapped : List Byte) : Option (BitVec 512)

/-- R228: what byte i of a block reads as under a key other than the one it was written under. -/
opaque Config.crossKey (readKey writeKey : BitVec 512) (block i : Nat) (stored : Byte) : Byte

/-- R194: the cost of a vector (in eighths of a sample) for a block of a picture against a reference, at a search stage. -/
opaque Config.matchCost (stage : Nat) (cur ref : List (List Byte)) (x y size : Nat) (v : Int × Int) : Nat
/-- R194: the coding blocks of a row: x, y and size. -/
opaque Config.partition (fields : List Nat) (cur : List (List Byte)) (row qp : Nat) : List (Nat × Nat × Nat)
/-- R201: the QP that the encoder wants for the next row, from the bits left, the rows left and the rows before. -/
opaque Config.rowQp (fields : List Nat) (bitsLeft rowsLeft : Nat) (before : List (Nat × Nat)) : Nat
/-- R193: the bytes of a coded row: `mode` 1 has every block skipped, 2 has DC intra prediction without residual; `motion`
is the reference, place and final vector of each block. -/
opaque Config.rowBytes (fields : List Nat) (key : Bool) (cur : List (List Byte)) (refs : List (List (List Byte)))
  (motion : List (Nat × Nat × Nat × Nat × Int × Int)) (row qp mode : Nat) : List Byte
/-- R193: the reconstructed samples of a coded row. -/
opaque Config.rowRecon (fields : List Nat) (key : Bool) (cur : List (List Byte)) (refs : List (List (List Byte)))
  (motion : List (Nat × Nat × Nat × Nat × Int × Int)) (row qp mode : Nat) : List Byte
/-- R193: the bytes of a parameter set or header, by its kind, the stream's fields, level and tier, and the pictures
since the last key picture. -/
opaque Config.headerBytes (kind : Nat) (fields : List Nat) (level : Nat) (high : Bool) (sinceKey : Nat) : List Byte
/-- R201: the scale of a VBR picture, in units of 2^-16, when the mean search cost is 0. -/
opaque Config.vbrZeroMean (cost : Nat) : Nat

/-- R206: the access units or temporal units of a DEC_DATA's bytes. -/
opaque Config.unitsOf (codec : Nat) (data : List Byte) : List (List Byte)
/-- R206: the picture starts that firmware counts in a unit. -/
opaque Config.startsIn (codec : Nat) (unit : List Byte) : Nat
/-- R204, R209: what the headers in force for a unit say: well formed and within the supported features, width, height,
depth, chroma format, key picture, a unit that decoding can start from, and AV1 film grain. -/
opaque Config.headerOf (codec : Nat) (before : List (List Byte)) (unit : List Byte) : Bool × Nat × Nat × Nat × Nat × Bool × Bool × Bool
/-- R204, R207: picture k of a unit from the pictures before it, newest first: its samples; for each 16 x 16 block its
state (0 decoded, 1 lost, 2 predicted from an absent reference) and vector; and the reference nearest in output order. -/
opaque Config.codedPicture (codec : Nat) (before : List (List Byte)) (unit : List Byte) (k : Nat) (refs : List (List Nat)) :
  List Nat × List (Nat × Int × Int) × Option Nat
/-- R207: a motion-compensated sample of plane p at (x, y) from a reference's samples. -/
opaque Config.mcSample (codec : Nat) (ref : List Nat) (width height chroma p x y : Nat) (v : Int × Int) : Nat
/-- R204: AV1 film grain over a picture's samples. -/
opaque Config.filmGrain (unit : List Byte) (k : Nat) (samples : List Nat) : List Nat
/-- R206: the output order of the pictures of a DEC_DATA, as positions in decoding order. -/
opaque Config.outputOrder (codec : Nat) (before units : List (List Byte)) : List Nat

/-- IDENTIFY: byte i of a page, whose format the spec does not give. -/
opaque Config.identifyByte (page paddock fn : Nat) (chansOut failing : List Nat)
  (retired : List (Nat × Nat)) (i : Nat) : Byte
/-- HAYLOFT_STATUS: byte i of a stack's 64-byte record; the spec lists the fields, not their places. -/
opaque Config.hayStatusByte (fields : List Nat) (i : Nat) : Byte

/-- R97, R100: the code of element i of a block that reads as NaN, by the format's code and what is written. -/
opaque Config.nanCode (fmt : Nat) (vals : List (Nat × Nat × Nat)) (i : Nat) : Nat
/-- Bits of the last byte that a peer write covers in part, by device and address (R113). -/
opaque Config.peerByte (dev addr : Nat) : Byte

/-- A value the spec leaves open after a command that goes on; drawn by State's counter. -/
opaque Config.freeByte (n : Nat) : Byte
/-- R337: the priority that a queue pair's DSCP maps to. -/
opaque Config.dscpPriority (dscp : Nat) : Nat
/-- R337: the rate that DCQCN leaves a queue pair after a congestion notification. -/
opaque Config.dcqcnRate (before : Nat) : Nat
/-- Which of several free things (pages, slots, handles) the E9 takes; drawn by State's counter. -/
opaque Config.pick (n : Nat) : Nat
/-- The control processor (k = 0) and the fault code (k = 1) of the firmware fault that command `flight` ended with (Table 3.11). -/
opaque Config.firmwareFault (flight k : Nat) : Nat
/-- R274, R278: the rate, in parts per 10^9, that steering chooses for an offset in ticks. -/
opaque Config.steerRate (theta : Int) : Int
/-- R279: the filtered offset after a new θ; the spec names a filter and does not give it. -/
opaque Config.thetaFilter (before theta : Int) : Int
/-- R118: the norm merge order of a reduction-algorithm version other than 1 and 2. -/
opaque Config.mergeOrder (version : Nat) (parts : List (Nat × Nat)) : Nat × Nat

/-- R267: what a 16-bit element of a failed collective's destination holds of an FP32 partial result. -/
opaque Config.partialCode (fmt val : Nat) : Nat
/-- R265: byte i of a reduce-scatter's destination outside the own share, of which the spec defines nothing. -/
opaque Config.undefinedShare (elems i : Nat) : Byte

/-- Table 13.4: a node's result under a reduction-algorithm version other than 1 and 2. -/
opaque Config.combineOrder (version left own right : Nat) : Nat

end Sys2Proof
end

