-- ==== Sys2Proof/Machine/Bits.lean ====
section
/-! DEFINITION. Bit fields, little-endian bytes, CRC-32C, keyed tables and byte memories: the plain data operations that the rest of the machine is written with. -/
namespace Sys2Proof.Machine

/-- R7: the field of `n` starting at bit `lo` and `len` bits wide. -/
def fld (n lo len : Nat) : Nat := (n >>> lo) % 2 ^ len

/-- Bit `i` of `n`. -/
def bitOf (n i : Nat) : Bool := (n >>> i) % 2 == 1

/-- `n` with its field of `len` bits at `lo` replaced by `v`. -/
def putFld (n lo len v : Nat) : Nat :=
  (n >>> (lo + len)) <<< (lo + len) + (v % 2 ^ len) <<< lo + n % 2 ^ lo

/-- The bits of `n` below `len`, read in two's complement. -/
def sext (n len : Nat) : Int :=
  let m := n % 2 ^ len
  if len = 0 then 0 else if m < 2 ^ (len - 1) then Int.ofNat m else Int.ofNat m - Int.ofNat (2 ^ len)

/-- An integer as `len` bits of two's complement. -/
def twos (i : Int) (len : Nat) : Nat := (i % Int.ofNat (2 ^ len)).toNat

def ceilDiv (a b : Nat) : Nat := (a + b - 1) / b
def roundUp (a b : Nat) : Nat := ceilDiv a b * b
def b2n (b : Bool) : Nat := if b then 1 else 0

/-- R8: `n` little-endian bytes of a number. -/
def bytesLE : Nat → Nat → List Byte
  | 0, _ => []
  | n + 1, v => BitVec.ofNat 8 v :: bytesLE n (v / 256)

/-- R8: the number that little-endian bytes hold. -/
def natLE : List Byte → Nat
  | [] => 0
  | b :: bs => b.toNat + 256 * natLE bs

/-- `n` bytes of `bs` from `off`; bytes past the end read 0. -/
def sliceB (bs : List Byte) (off n : Nat) : List Byte :=
  let t := (bs.drop off).take n
  t ++ List.replicate (n - t.length) 0

/-- The little-endian number of `n` bytes at `off`. -/
def leAt (bs : List Byte) (off n : Nat) : Nat := natLE (sliceB bs off n)

/-- The 32-bit word at byte `off`. -/
def w32 (bs : List Byte) (off : Nat) : Nat := leAt bs off 4

/-- Words as little-endian bytes. -/
def wordsLE (ws : List Nat) : List Byte := ws.flatMap (bytesLE 4)

/-- Insertion into a rising list. -/
def insertNat (a : Nat) : List Nat → List Nat
  | [] => [a]
  | b :: t => if a ≤ b then a :: b :: t else b :: insertNat a t
/-- A list of numbers in rising order. -/
def sortNat (l : List Nat) : List Nat := l.foldr insertNat []

/-- The first `n` naturals after `a`, in order. -/
def rangeFrom (a n : Nat) : List Nat := (List.range n).map (a + ·)

/-! ### CRC-32C (R62, R146, R246: Castagnoli, reflected) -/

/-- One bit of the reflected CRC-32C register (polynomial 0x82F63B78). -/
def crcBit (c : Nat) : Nat := if c % 2 = 1 then (c / 2) ^^^ 0x82F63B78 else c / 2

/-- One byte into the register. -/
def crcByte (c : Nat) (b : Byte) : Nat :=
  crcBit (crcBit (crcBit (crcBit (crcBit (crcBit (crcBit (crcBit (c ^^^ b.toNat))))))))

/-- CRC-32C of a run of bytes. -/
def crc32c (bs : List Byte) : Nat := (bs.foldl crcByte 0xFFFFFFFF) ^^^ 0xFFFFFFFF

/-! ### Keyed tables: plain data, keys strictly rising -/

/-- A table of records by number, as the spec numbers queues, ports, sheds, handles. -/
abbrev KV (α : Type) := List (Nat × α)

def KV.find {α : Type} : KV α → Nat → Option α
  | [], _ => none
  | (k, v) :: t, i => if k = i then some v else KV.find t i

def KV.getD {α : Type} (t : KV α) (i : Nat) (d : α) : α := (KV.find t i).getD d

def KV.has {α : Type} (t : KV α) (i : Nat) : Bool := (KV.find t i).isSome

/-- Sets entry `i`, keeping the keys rising. -/
def KV.put {α : Type} : KV α → Nat → α → KV α
  | [], i, a => [(i, a)]
  | (k, v) :: t, i, a =>
    if i < k then (i, a) :: (k, v) :: t
    else if i = k then (i, a) :: t
    else (k, v) :: KV.put t i a

/-- Changes entry `i` where it is present; the number of entries stays. -/
def KV.upd {α : Type} : KV α → Nat → (α → α) → KV α
  | [], _, _ => []
  | (k, v) :: t, i, f => if k = i then (k, f v) :: t else (k, v) :: KV.upd t i f

def KV.del {α : Type} (t : KV α) (i : Nat) : KV α := t.filter (fun e => e.1 != i)

def KV.keys {α : Type} (t : KV α) : List Nat := t.map (·.1)
def KV.vals {α : Type} (t : KV α) : List α := t.map (·.2)

/-- The records kept are those whose number and value pass `p`. -/
def KV.keep {α : Type} (t : KV α) (p : Nat → α → Bool) : KV α := t.filter (fun e => p e.1 e.2)

/-- Every record changed by `f`. -/
def KV.mapV {α : Type} (t : KV α) (f : Nat → α → α) : KV α := t.map (fun e => (e.1, f e.1 e.2))

/-- Keys are strictly rising. -/
def KV.sorted {α : Type} : KV α → Bool
  | [] => true
  | [_] => true
  | (a, _) :: (b, x) :: t => a < b && KV.sorted ((b, x) :: t)

/-! ### Byte memories: (address, byte) pairs in one canonical form -/

/-- A byte memory: addresses strictly rising, no entry 0, and an unlisted address reads 0
(`Memory.wf`). HBM reads 0 after a cold start (Table 17.2), cribs and lofts after a reset (R322),
unwritten Hayloft blocks by R227; for host memory the 0 is DESIGN CHOICE (log 3), unsafe. -/
abbrev Memory := List Host.Cell

/-- What an unlisted address reads as. -/
def Memory.blank : Byte := 0

def Memory.read : Memory → Nat → Byte
  | [], _ => Memory.blank
  | (k, v) :: t, a => if k = a then v else Memory.read t a

/-- Lists a byte, keeping the addresses rising. -/
def Memory.insert : Memory → Nat → Byte → Memory
  | [], a, b => [(a, b)]
  | (k, v) :: t, a, b =>
    if a < k then (a, b) :: (k, v) :: t
    else if a = k then (a, b) :: t
    else (k, v) :: Memory.insert t a b

/-- Writes one byte and keeps the canonical form: a blank byte is taken off the list. -/
def Memory.write (m : Memory) (a : Nat) (b : Byte) : Memory :=
  if b = Memory.blank then (if m.read a = Memory.blank then m else m.filter (fun c => c.1 != a)) else m.insert a b

/-- Writes bytes at rising addresses. -/
def Memory.writes (m : Memory) (a : Nat) : List Byte → Memory
  | [] => m
  | b :: bs => Memory.writes (m.write a b) (a + 1) bs

/-- Reads `n` bytes. -/
def Memory.reads (m : Memory) (a : Nat) : Nat → List Byte
  | 0 => []
  | n + 1 => m.read a :: Memory.reads m (a + 1) n

/-- Zeroes the `n` bytes from `a`. -/
def Memory.clear (m : Memory) (a n : Nat) : Memory :=
  m.filter (fun c => c.1 < a || a + n <= c.1)

/-- A list of byte writes, in order. -/
def Memory.writeAll (m : Memory) (ws : List Host.Cell) : Memory :=
  ws.foldl (fun m w => m.write w.1 w.2) m

/-- The little-endian number of `n` bytes at `a` (R8). -/
def Memory.readLE (m : Memory) (a n : Nat) : Nat := natLE (m.reads a n)

/-- Writes `v` as `n` little-endian bytes (R8). -/
def Memory.writeLE (m : Memory) (a n v : Nat) : Memory := m.writes a (bytesLE n v)

/-- The canonical form. -/
def Memory.wf : Memory → Bool
  | [] => true
  | [(_, v)] => v != Memory.blank
  | (a, v) :: (b, w) :: t => v != Memory.blank && a < b && Memory.wf ((b, w) :: t)

end Sys2Proof.Machine
end

