-- ==== Sys2Proof/Machine/State.lean ====
section
/-! DEFINITION. The E9's state as plain data, the reasons a row can stop, and the state after reset. -/
namespace Sys2Proof.Machine
open Sys2Proof

/-- Nothing in the spec makes the E9 stop without a report (R38, R39, R49 give every failure a
status, an event or an answer), so no meaning of this model raises a fault. -/
inductive Fault where
  /-- Raised by no meaning; kept so that the type has a member. Safe. -/
  | unreachable
  deriving DecidableEq, Repr

/-- Why a row has no next state. -/
inductive Refusal where
  /-- Raised by an arm of exec for a row without a meaning. Safe. -/
  | notModelled (mnemonic : String)
  /-- Raised by JTAG_TAP_INSTRUCTION for a debug instruction under a policy that permits it: R346
  does not say what the debug unit does. Safe. -/
  | debugUnit
  deriving DecidableEq, Repr

/-- Table 2.22. -/
inductive Status where
  | ok | empty | badOpcode | badParam | notInPaddock | shapeExceedsPlan | modeRefused
  | pageExhausted | staleTable | seqBusy | weightLate | hayloftReadFail | linkFailed | peerFenced
  | timeout | groupMismatch | mediaSyntax | mediaOvershoot | aborted | preempted
  | memUncorrectable | internal
  deriving DecidableEq, Repr

/-- Where a command stands between its fetch and its completion entry (R29, R38, R40, R43). -/
inductive Phase where
  /-- fetched and checked; waits on fences and on its turn -/
  | waiting
  /-- started: GTC_START is written -/
  | running
  /-- its transfer is under way; the verdict is held until TRANSFER_DONE -/
  | moving
  /-- finished; its entry waits for a completion slot (R33) -/
  | finished
  deriving DecidableEq, Repr

/-- A command in flight (Tables 2.12, 2.13). -/
structure Flight where
  queue : Nat
  slot : Nat
  words : List Word
  phase : Phase
  gtcStart : DWord
  startNow : Nat
  flags : Nat
  fenceBad : Bool
  recheck : Bool
  status : Status
  countA : Nat
  countB : Nat
  ext : Nat
  outNs : Nat
  outSince : Option Nat
  swappedIn : List Nat
  /-- the reduction-algorithm version in force at the fetch (R112) -/
  ver : Nat
  /-- layers at 8 bits of a PLAN_RUN that passed its checks, once it has its verdict (R126) -/
  wide : Option Nat
  /-- pictures that a DEC_DATA may output, as its check counted them (R206) -/
  allow : Nat
  deriving DecidableEq, Repr

inductive QState where
  | unbound | active | stopped
  deriving DecidableEq, Repr

/-- A submission and completion queue (R24 to R34). -/
structure Queue where
  fn : Nat
  paddock : Nat
  credit : Nat
  sqBase : Nat
  cqBase : Nat
  sqLog2 : Nat
  cqLog2 : Nat
  vector : Nat
  timeoutMs : Nat
  state : QState
  tail : Nat
  head : Nat
  cqTail : Nat
  cqHead : Nat
  phase : Bool
  waitCq : List Nat
  held : Bool
  discarded : Nat
  refusedAt : Option Nat
  deriving DecidableEq, Repr

/-- Queue registers at reset: STATE UNBOUND (Table 2.11). -/
def Queue.blank : Queue :=
  { fn := 0, paddock := 0xFFF, credit := 0, sqBase := 0, cqBase := 0, sqLog2 := 0, cqLog2 := 0, vector := 0,
    timeoutMs := 0, state := .unbound, tail := 0, head := 0, cqTail := 0, cqHead := 0, phase := true,
    waitCq := [], held := false, discarded := 0, refusedAt := none }

/-- The administration queue's registers (Tables 2.6 to 2.8, R22). -/
structure AdmReg where
  sqBase : Nat
  cqBase : Nat
  sqLog2 : Nat
  cqLog2 : Nat
  enable : Bool
  held : Bool
  deriving DecidableEq, Repr

/-- BAR2_WIN (Table 18.2). -/
structure Bar2 where
  enable : Bool
  baseGib : Nat
  deriving DecidableEq, Repr

/-- One mailbox (R50 to R57, Tables 3.2, 3.3). -/
structure MboxSt where
  data : List Word
  full : Bool
  aborted : Bool
  wake : Bool
  deriving DecidableEq, Repr

def MboxSt.blank : MboxSt := { data := List.replicate 12 0, full := false, aborted := false, wake := false }

/-- An event before it is given its phase (Table 3.10). -/
structure Event where
  code : Nat
  paddock : Nat
  source : Nat
  gtc : DWord
  detail : List Nat
  deriving DecidableEq, Repr

/-- The event ring of one function (R58, R60). -/
structure Ring where
  base : Nat
  enable : Bool
  log2 : Nat
  head : Nat
  tail : Nat
  phase : Bool
  lost : Nat
  overflow : Bool
  event : Bool
  held : List Event
  lostSince : Nat
  deriving DecidableEq, Repr

def Ring.blank : Ring :=
  { base := 0, enable := false, log2 := 0, head := 0, tail := 0, phase := true, lost := 0, overflow := false,
    event := false, held := [], lostSince := 0 }

/-- An MSI-X vector (Table 18.1). -/
structure Msix where
  addr : Nat
  data : Nat
  mask : Bool
  pend : Bool
  deriving DecidableEq, Repr

/-- Vectors start masked. PRESUMED (PCIe; log 6). -/
def Msix.blank : Msix := { addr := 0, data := 0, mask := true, pend := false }

/-- A PCIe function's own registers. -/
structure Fn where
  ring : Ring
  mbox : KV MboxSt
  msix : KV Msix
  coal : KV (Nat × Nat)
  keyAsm : KV (Nat × List Byte)
  deriving DecidableEq, Repr

def Fn.blank : Fn := { ring := Ring.blank, mbox := [], msix := [], coal := [], keyAsm := [] }

inductive PClass where
  | ordinary | reserved | maintenance
  deriving DecidableEq, Repr

/-- A paddock's page pool and swap area (R148, R149). -/
structure Pool where
  base : Nat
  pages : Nat
  swapBase : Nat
  swapSlots : Nat
  policy : Nat
  refs : KV Nat
  swapUsed : List Nat
  deriving DecidableEq, Repr

/-- A paddock (R280 to R287, R299, R369). -/
structure Paddock where
  cls : PClass
  shedMask : Nat
  dedFirst : Nat
  dedCount : Nat
  vcShares : Nat
  hbmMap : List (Nat × Nat)
  hbmGen : Nat
  hostMap : List (Nat × Nat)
  hostGen : Nat
  pool : Option Pool
  tolNs : Nat
  isIn : Bool
  inSince : Nat
  /-- its room in the context store: one 194 MiB slot for each shed of its mask, in rising order of the sheds; none until its set
  has a second member (R284) -/
  ctxSlots : List Nat
  deriving DecidableEq, Repr

/-- A switch of a rotation set (R285 to R287): decided, and `started` once the outgoing step has ended. -/
structure Switch where
  outgoing : Option Nat
  incoming : Nat
  since : Nat
  started : Bool
  deriving DecidableEq, Repr

/-- One layer of an installed layer table: guard record (Table 6.2) and stream entry (Table 11.4). -/
structure Layer where
  firstStep : Nat
  stepCount : Nat
  guarded : Bool
  normDesc : Nat
  widenFirst : Nat
  widenCount : Nat
  twinOffset : Nat
  state : Nat
  fresh : Bool
  clean : Nat
  cause : Nat
  severity : Nat
  norm : Nat
  hasNorm : Bool
  changed : Bool
  narrowBuf : Nat
  wideBuf : Nat
  residDesc : Nat
  carryDesc : Nat
  narrowSrc : Nat
  wideSrc : Nat
  narrowBlocks : Nat
  wideBlocks : Nat
  narrowAddr : Nat
  wideAddr : Nat
  deriving DecidableEq, Repr

/-- The private copy of a layer table (R216, R217). -/
structure LayerTable where
  addr : Nat
  group : Nat
  layers : List Layer
  windowBase : Nat
  windowMib : Nat
  lateLimit : Nat
  deriving DecidableEq, Repr

/-- A layer copy placed in the streaming window (R220). -/
structure WinSlot where
  layer : Nat
  wide : Bool
  addr : Nat
  size : Nat
  ready : Bool
  /-- a host copy's bytes as its fetch began (R215) -/
  seen : List Byte
  deriving DecidableEq, Repr

/-- A pinned schedule entry (Table 11.5). -/
structure PinEntry where
  issueStep : Nat
  needStep : Nat
  src : Nat
  source : Nat
  dest : Nat
  blocks : Nat
  deriving DecidableEq, Repr

/-- A pinned fetch under way: the run that started it, its stream and entry, and a host source's bytes as it began
(R215, R222). -/
structure PinFetch where
  run : Nat
  stream : Nat
  entry : Nat
  pin : PinEntry
  seen : List Byte
  deriving DecidableEq, Repr

/-- A carry-over cache entry (R225, R226). -/
structure CarryEntry where
  wide : Bool
  crc : Nat
  answers : Nat
  deriving DecidableEq, Repr

/-- A loaded plan (R63, R64, R120, R124, R129, R216 to R225). -/
structure Plan where
  paddock : Nat
  handle : Nat
  base : Nat
  len : Nat
  table : Option LayerTable
  depth : Nat
  pinned : KV (List PinEntry)
  pinnedNext : KV (List PinEntry)
  fetches : List PinFetch
  nSat : Nat
  nZero : Nat
  cleanLimit : Nat
  rho : Nat
  budgetW3 : Nat
  window : List WinSlot
  running : Nat
  failed : List Nat
  carryOn : List Nat
  /-- the carry-over cache's address once CARRYOVER_SET has named it -/
  carryAddr : Option Nat
  carry : KV CarryEntry
  deriving DecidableEq, Repr

/-- A tile instruction as issued: its words with the segment strides added (R75, R83), and the words of
its pointer-list entry when a TBATCH issued it (R84). -/
structure TI where
  i0 : Nat
  i1 : Nat
  i2 : Nat
  i3 : Nat
  ent : List Nat
  deriving DecidableEq, Repr

/-- One plan shed of a run (R65, R66, R78, R80). -/
structure ShedRun where
  phys : Nat
  cores : List Nat
  pc : Nat
  frames : List (Nat × Nat)
  markers : Nat
  waiting : Bool
  queues : KV (List TI)
  chain : KV Nat
  counters : KV Nat
  /-- a TBATCH under way: entries issued, and its entries (R84) -/
  batch : Option (Nat × List (List Nat))
  deriving DecidableEq, Repr

/-- Counts of a layer in this pass (R117, R118): by plan shed * 64 + logical core, the elements written
to NORM_DESC as (logical index, format, code, scale code or 256). -/
structure LayerCount where
  sat : Nat
  zero : Nat
  written : Nat
  norms : KV (List (Nat × Nat × Nat × Nat))
  deriving DecidableEq, Repr

/-- A PLAN_RUN in flight: what its checks read, and, once `started`, where it stands. -/
structure Run where
  started : Bool
  /-- the current step has begun to issue (R224) -/
  stepOn : Bool
  /-- argument slots as the checks read them (R216) -/
  slots : KV Nat
  plan : Nat
  paddock : Nat
  stepBase : Nat
  step : Nat
  steps : Nat
  bind : List Nat
  args : Nat
  modes : Nat
  seed : Nat
  tag : Nat
  seqs : List Nat
  sheds : KV ShedRun
  tiles : Nat
  wideLayers : Nat
  carried : List Nat
  /-- the timing bucket that the binding selects (R72) -/
  bucket : Option Nat
  /-- the carry-over cache's address as the current layer's first step found it (R225) -/
  layerCarry : Option Nat
  /-- the carry-over entry that answers the current layer: not valid again before the layer's last step (R225) -/
  layerEntry : Option CarryEntry
  counts : KV LayerCount
  stepCounts : KV (Nat × Nat × Nat)
  lists : KV Nat
  signals : List (Nat × Nat × Nat)
  pins : List (Nat × Nat)
  stall : Option Nat
  suspended : Bool
  preempt : Bool
  gathering : Bool
  gathered : KV (List Nat)
  /-- cores whose walk waits for a remote page, with the peers it can come from (R154, R256) -/
  pageWait : KV (List Nat)
  /-- ranges written in this step: (0 crib or loft, 1 HBM, 2 host; address; bytes) (R162) -/
  wrote : List (Nat × Nat × Nat)
  deriving DecidableEq, Repr

/-- A block product in an accumulator element: value m * 2^e, block exponent when it has one (R101). -/
structure Blk where
  m : Int
  e : Int
  bexp : Option Int
  deriving DecidableEq, Repr

/-- One element of the long accumulator (R102 to R106). In a run with EXACT the block results are
kept, and the window is placed when the element is rounded. -/
structure AccElem where
  acc : Int
  w : Option Int
  blocks : List Blk
  nan : Bool
  posInf : Bool
  negInf : Bool
  terms : Nat
  deriving DecidableEq, Repr

def AccElem.zero : AccElem :=
  { acc := 0, w := none, blocks := [], nan := false, posInf := false, negInf := false, terms := 0 }

/-- The open soft-maximum group of a core (R140, R141). -/
structure Soft where
  members : List TI
  lanes : KV (Nat × Nat)
  special : List Nat
  unmasked : List Nat
  deriving DecidableEq, Repr

/-- What the context store holds of a switched-out paddock in a form that the spec does not give (R284): accumulators and
soft-maximum groups by logical core. Its cribs and lofts are bytes of HBM there. -/
structure SavedPad where
  acc : KV (KV AccElem)
  soft : KV Soft
  absent : List (Nat × Nat × Nat)
  deriving DecidableEq, Repr

/-- A sequence (R146 to R153). -/
structure Seq where
  paddock : Nat
  handle : Nat
  layers : Nat
  groups : Nat
  list : Nat
  maxBlocks : Nat
  gen : Nat
  crc : Nat
  stale : Bool
  lastUse : DWord
  lastQueue : Nat
  held : List Nat
  slots : List Nat
  priv : List Nat
  /-- staging slots that hold a whole page: its step * 4096 + layer (R160) -/
  arrivals : KV Nat
  /-- staging slots being filled: (step * 4096 + layer, bytes arrived) -/
  parts : KV (Nat × Nat)
  victim : Bool
  deriving DecidableEq, Repr

/-- A collective group (R263, R264). -/
structure Group where
  paddock : Nat
  handle : Nat
  members : List Nat
  own : Nat
  switch : Nat
  digest : Nat
  inst : Nat
  deriving DecidableEq, Repr

/-- A collective in progress on this member (R261 to R273). -/
structure Coll where
  group : Nat
  inst : Nat
  op : Nat
  runv : Bool
  format : Nat
  elems : Nat
  src : Nat
  dst : Nat
  step : Nat
  slotWanted : Bool
  det : Bool
  counts : List Nat
  guardRun : Bool
  /-- headers received, by tree * 4096 + child member -/
  hdrs : KV (List Nat)
  /-- trees whose subtree header has been formed -/
  hdrSent : List Nat
  /-- trees whose root's decision has arrived with the first DOWN packet -/
  decided : List Nat
  /-- the decision of a header round (Table 13.5, W7) -/
  decision : Option Nat
  anyDet : Bool
  /-- up-phase data not yet combined: (tree * 4096 + child member, byte offset, bytes) -/
  ups : List (Nat × Nat × List Byte)
  /-- up-phase packets formed, per tree -/
  upDone : KV Nat
  /-- down-phase bytes received, per tree -/
  downDone : KV Nat
  /-- DIRECT bytes received, per member -/
  directs : KV Nat
  countsSeen : List Nat
  disagree : Nat
  slots : Nat
  onSlot : Bool
  slotAskedAt : Option Nat
  slotLast : Option Nat
  slotDone : Nat
  /-- what slot results overwrote in the destination, by its byte offset, newest first (R272) -/
  slotUndo : List (Nat × List Byte)
  /-- up-phase partial results that no result has replaced: first element and values (R267) -/
  partials : List (Nat × List Nat)
  /-- DIRECT data that came before the own decision: member, byte offset, bytes -/
  early : List (Nat × Nat × List Byte)
  fellBack : Bool
  forwarded : Bool
  deriving DecidableEq, Repr

/-- A decoded picture as it is output: samples of its planes in raster order, one error map byte a block (R205, R208). -/
structure DecPic where
  width : Nat
  height : Nat
  depth : Nat
  chroma : Nat
  key : Bool
  samples : List Nat
  emap : List Nat
  deriving DecidableEq, Repr

/-- A DEC_DATA in progress: the pictures still to output, how many have been, whether a bad header ends it (R209), and
the units, pictures and skip state it leaves. -/
structure DecJob where
  todo : List DecPic
  done : Nat
  stop : Bool
  units : List (List Byte)
  pics : List DecPic
  skip : Bool
  deriving DecidableEq, Repr

/-- A media stream (R189 to R210). -/
structure Stream where
  paddock : Nat
  enc : Bool
  /-- 0 to 3 encoder engines, 4 to 7 decoder engines -/
  engine : Nat
  /-- the words of its ENC_OPEN or DEC_OPEN -/
  words : List Nat
  /-- the number of the first picture whose coding has not started -/
  next : Nat
  coded : Nat
  keyNext : Bool
  /-- the references, nearest first: reconstructed rows of up to two pictures (R193) -/
  refs : List (List (List Byte))
  /-- pictures coded since the last key picture -/
  sinceKey : Nat
  costs : List Nat
  debtE : Nat
  debtK : Nat
  ringTail : Nat
  /-- access or temporal units decoded since DEC_OPEN -/
  units : List (List Byte)
  /-- decoded pictures, newest first -/
  pics : List DecPic
  /-- after ST_MEDIA_SYNTAX, until a unit to start from (R209) -/
  skip : Bool
  ordinal : Nat
  /-- the DEC_DATA in progress -/
  job : Option DecJob
  /-- commands whose pictures the engine may take -/
  ready : List Nat
  /-- the MEDIA_CLOSE that waits for the engine -/
  closing : Option Nat
  deriving DecidableEq, Repr

/-- What an engine works on (R189, R197). -/
structure Engine where
  stream : Nat
  flight : Nat
  picture : Nat
  key : Bool
  /-- units not yet complete, in order -/
  units : List (List Byte)
  /-- parts complete and not yet emitted: unit index, CONT, tick of completion, payload -/
  waiting : List (Nat × Bool × DWord × List Byte)
  slices : Nat
  bytesOut : Nat
  isOver : Bool
  stopped : Bool
  deriving DecidableEq, Repr

inductive PortState where
  | disabled | training | up | fenced | failed
  deriving DecidableEq, Repr

/-- A Furrow port (R235 to R245, Table 12.10). Pairs are (send direction, receive direction). -/
structure Port where
  state : PortState
  /-- disabled by PORT_CONTROL (R238) -/
  off : Bool
  cls : Nat
  spare : Option Nat × Option Nat
  goodLanes : Nat
  version : Nat
  released : Bool
  fenceCause : Nat
  nb : Option Neighbour
  corrected : Nat
  uncorrectable : Nat
  replays : Nat
  laneSwaps : Nat
  fenceDrops : Nat
  fenceVcDrops : Nat
  misaddressed : Nat
  crcDrops : Nat
  busySent : Nat
  busyReceived : Nat
  signalsDiscarded : Nat
  seqGaps : Nat
  trainings : Nat
  since : Nat
  retries : Nat
  failPosted : Bool
  replayTimes : List Nat × List Nat
  hold : Option (Nat × Nat) × Option (Nat × Nat)
  /-- a replay is outstanding until this instant (R243) -/
  replayUntil : Nat
  /-- the PORT_CONTROL that waits for the training to end (log 37) -/
  waiter : Option Nat
  deriving DecidableEq, Repr

/-- Ports are class B (R236) and carry nothing before READY starts their training (R237). -/
def Port.blank : Port :=
  { state := .disabled, off := false, cls := 0, spare := (none, none), goodLanes := 0, version := 0, released := false,
    fenceCause := 0, nb := none, corrected := 0, uncorrectable := 0, replays := 0, laneSwaps := 0,
    fenceDrops := 0, fenceVcDrops := 0, misaddressed := 0, crcDrops := 0, busySent := 0, busyReceived := 0,
    signalsDiscarded := 0, seqGaps := 0, trainings := 0, since := 0, retries := 0, failPosted := false,
    replayTimes := ([], []), hold := (none, none), replayUntil := 0, waiter := none }

/-- The route table (Tables 12.8, 12.9). -/
structure Route where
  self : Nat
  coord : Nat
  sets : List (List Byte)
  ingress : List Nat
  expectPort : List Nat
  expectNode : List Nat
  dests : KV (Nat × Nat)
  deriving DecidableEq, Repr

/-- A packet sent and not yet answered (R247, R256, R257). -/
structure Sent where
  port : Nat
  pkt : Pkt
  flight : Option Nat
  /-- the core whose TSTORE sent it: 1 + plan shed * 64 + logical core; 0 for every other packet (R80) -/
  unit : Nat
  at' : Nat
  busy : Bool
  /-- replayed, or held by a lane swap (R258) -/
  recovered : Bool
  deriving DecidableEq, Repr

/-- How a packet goes out: one that a response answers, one that none answers, or a response (Table 12.6). -/
inductive SendMode where
  | asked | quiet | answer
  deriving DecidableEq, Repr

/-- A packet that waits for its port: one in training, or one whose traffic a lane swap holds (R244, R254, R257). -/
structure Queued where
  pkt : Pkt
  mode : SendMode
  flight : Option Nat
  unit : Nat
  /-- a lane swap has held it -/
  held : Bool
  deriving DecidableEq, Repr

inductive GtcState where
  | free | root | acquiring | locked | holdover
  deriving DecidableEq, Repr

/-- The global tick counter (R274 to R279, R293). -/
structure Gtc where
  val : DWord
  state : GtcState
  root : Nat
  steering : Bool
  /-- the parent port, 31 for none -/
  parent : Nat
  acquired : Bool
  /-- the last θ, and its filtered value (R279) -/
  theta : Int
  filtered : Int
  ratePpb : Int
  frac : Nat
  inSince : Option Nat
  outSince : Option Nat
  outEn : Bool
  inEn : Bool
  inOffset : Int
  ppsHighUntil : Nat
  ppsSeen : Bool
  ppsLast : Nat
  ppsLost : Bool
  counting : Bool
  deriving DecidableEq, Repr

def Gtc.blank : Gtc :=
  { val := 0, state := .free, root := 0xFFFF, steering := true, parent := 31, acquired := false, theta := 0, filtered := 0, ratePpb := 0,
    frac := 0, inSince := none, outSince := none, outEn := false, inEn := false, inOffset := 0, ppsHighUntil := 0,
    ppsSeen := false, ppsLast := 0, ppsLost := false, counting := false }

/-- A field die's limiters (R295): the points named by HBM temperature, ceiling and supply. -/
structure Die where
  tempPt : Nat
  capPt : Nat
  supPt : Nat
  tempSince : Nat
  upSince : Nat
  /-- since when every stack of the die has been below 97 degrees C (R234) -/
  coolSince : Option Nat
  deriving DecidableEq, Repr

def Die.blank : Die := { tempPt := 0, capPt := 0, supPt := 0, tempSince := 0, upSince := 0, coolSince := none }

inductive ShedPower where
  | run | gate | hold | save | off
  deriving DecidableEq, Repr

/-- A shed (R296 to R298, R315, R324, R54). -/
structure Shed where
  power : ShedPower
  idleSince : Nat
  wakeTo : Option ShedPower
  saving : Option Nat
  /-- its crib and loft are in the save area (R298) -/
  saved : Bool
  /-- woken for its due slices alone (R307) -/
  fallowRun : Bool
  resets : List Nat
  leaving : Bool
  mbox : MboxSt
  fwSends : Bool
  deriving DecidableEq, Repr

/-- A shed that belongs to no paddock has OFF as its target (R296); firmware sends first (R54). -/
def Shed.blank : Shed :=
  { power := .off, idleSince := 0, wakeTo := none, saving := none, saved := false, fallowRun := false, resets := [],
    leaving := false, mbox := MboxSt.blank, fwSends := true }

/-- Supplies, pins and the trip (R329 to R331, R292, R361). -/
structure Supply where
  mv48 : Nat
  mvAux : Nat
  ref : Bool
  refSince : Nat
  perst : Bool
  warnPin : Bool
  warn : Bool
  lowest : Nat
  trip : Bool
  /-- every die and stack has fallen below 85 degrees C since the trip -/
  tripCool : Bool
  /-- PERST# has been asserted in the trip -/
  tripReset : Bool
  off : Bool
  deriving DecidableEq, Repr

inductive DevPower where
  | active | rest | standby
  deriving DecidableEq, Repr

/-- A reset under way (R319, R320, R326): kind 0 warm or 1 module, and its cause. -/
structure ResetRun where
  kind : Nat
  cause : Nat
  since : Nat
  deriving DecidableEq, Repr

/-- Boot and DEV_STATUS bits (Table 2.4, R344, R345). -/
structure Boot where
  ready : Bool
  fault : Bool
  resetActive : Bool
  policy : Nat
  meas : List (BitVec 384)
  measLog : List (Nat × Nat × Nat × BitVec 384)
  reset : Option ResetRun
  standbyAt : Option Nat
  standbyWake : Option Nat
  deriving DecidableEq, Repr

/-- One HBM stack (R232, R234). -/
structure Stack where
  temp : Nat
  double : Bool
  paused : Bool
  deriving DecidableEq, Repr

def Stack.blank : Stack := { temp := 0, double := false, paused := false }

/-- Error counts of an HBM channel (R233). -/
structure ChanErr where
  failed : List Nat
  words : List (Nat × Nat)
  corrected : List Nat
  failing : Bool
  deriving DecidableEq, Repr

def ChanErr.blank : ChanErr := { failed := [], words := [], corrected := [], failing := false }

/-- A physical core's fallow state (R304 to R310, Table 16.2). -/
structure CoreRec where
  sweepAt : Nat
  dueAt : List (Nat × Nat)
  running : Option (Nat × Nat)
  failedOnce : List Nat
  transients : List Nat
  done : List Nat
  lastPass : Nat
  swept : Nat
  stolen : List (Nat × Nat)
  lastBusy : Nat
  deriving DecidableEq, Repr

def CoreRec.blank : CoreRec :=
  { sweepAt := 0, dueAt := [], running := none, failedOnce := [], transients := [], done := [],
    lastPass := 0, swept := 0, stolen := [], lastBusy := 0 }

/-- FALLOW_POLICY in force (R316). -/
structure FallowPolicy where
  enable : Bool
  minIdle : Nat
  cap : Nat
  deriving DecidableEq, Repr

/-- An Ethernet port (R337, R339). -/
structure EthPort where
  mac : Nat
  ip : Nat
  vlan : Nat
  paused : KV Nat
  discarded : Nat
  deriving DecidableEq, Repr

def EthPort.blank : EthPort := { mac := 0, ip := 0, vlan := 0, paused := [], discarded := 0 }

/-- A RoCEv2 queue pair (R339 to R341, Table 18.3). -/
structure Qp where
  port : Nat
  mtu : Nat
  dscp : Nat
  paddock : Nat
  remoteQpn : Nat
  localPsn : Nat
  remotePsn : Nat
  ip : Nat
  mac : Nat
  rkey : Nat
  error : Bool
  rate : Nat
  /-- receive credit: SENDs that the peer can take (R198) -/
  credit : Nat
  deriving DecidableEq, Repr

/-- I3C registers (Table 18.4). -/
structure I3c where
  addr : Option Nat
  alert : Nat
  power : Nat
  temps : Temps
  trip : Bool
  deriving DecidableEq, Repr

/-- A remote mailbox message sent (R55). -/
structure TxMbox where
  mbox : MboxSt
  goAt : Nat
  refusedAt : Option Nat
  /-- the SEQ of the packet that was accepted, once one was -/
  delivered : Option Nat
  /-- the port that its packet last went out on -/
  port : Nat
  deriving DecidableEq, Repr

/-- A remote mailbox of this device (R55). -/
structure RxMbox where
  mbox : MboxSt
  src : Nat
  seq : Nat
  port : Nat
  deriving DecidableEq, Repr

/-- What an Ethernet port sends (R198, R338, R340, R341). -/
inductive EthOut where
  | send (port qp : Nat) (data : List Byte)
  | ack (qp : Nat)
  | readResp (qp : Nat) (data : List Byte)
  | nakInvalid (qp : Nat)
  | nakAccess (qp : Nat)
  | nakOperational (qp : Nat)
  deriving DecidableEq, Repr

/-- What the last row sent out or returned (log 5). -/
structure Out where
  value : Nat
  data : List Byte
  pkts : List (Nat × Pkt)
  eth : List EthOut
  irqs : List (Nat × Nat)
  wakePin : Bool
  ibi : Bool
  /-- identities sent at the end of a training, by port (R239) -/
  ids : List (Nat × Neighbour)
  deriving DecidableEq, Repr

def Out.blank : Out :=
  { value := 0, data := [], pkts := [], eth := [], irqs := [], wakePin := false, ibi := false, ids := [] }

/-- A retirement in the non-volatile area (R312, Table 16.2). -/
structure Retired where
  cause : Nat
  tick : DWord
  deriving DecidableEq, Repr

/-- A boot image slot as its signature check finds it (R343 to R345). -/
structure BootSlot where
  verifies : Bool
  svn : Nat
  policy : Nat
  parts : List (Nat × Nat × BitVec 384)
  deriving DecidableEq, Repr

/-- The non-volatile configuration area, fuses and boot flash (R291, R312, R315, R233, R343, R344, R348). -/
structure NonVol where
  retired : KV Retired
  shedsOut : List Nat
  chansOut : List Nat
  kek : Option (BitVec 256)
  kekLow : Option (BitVec 128)
  minSvn : Nat
  slotA : BootSlot
  slotB : BootSlot
  active : Bool
  deriving DecidableEq, Repr

/-- The Hayloft's logical space and its stacks (R227, R230, R231). -/
structure Hay where
  mem : Memory
  /-- the key that a written block was encrypted under (R228) -/
  keys : KV (BitVec 512)
  stackTab : KV HayStack
  failed : List Nat
  deriving DecidableEq, Repr

def HayStack.blank : HayStack :=
  { reserve := 1000, badBlocks := 0, eraseMean := 0, eraseMax := 0, relocating := 0, temp := 0 }

/-- Everything of the E9 that some reset returns to its default. -/
structure Dev where
  now : Nat
  free : Nat
  out : Out
  adm : AdmReg
  bar2 : Bar2
  numVfs : Nat
  /-- poisoned completions that AER has logged (R335, Table 18.1) -/
  aer : Nat
  queues : KV Queue
  lastServed : Nat
  flights : KV Flight
  nextFlight : Nat
  fns : KV Fn
  rxMbox : KV RxMbox
  txMbox : KV TxMbox
  pads : KV Paddock
  saved : KV SavedPad
  switches : KV Switch
  plans : KV Plan
  runs : KV Run
  acc : KV (KV AccElem)
  soft : KV Soft
  absent : List (Nat × Nat × Nat)
  seqs : KV Seq
  groups : KV Group
  colls : KV Coll
  streams : KV Stream
  engines : KV Engine
  features : KV Nat
  keys : KV (BitVec 512)
  hbm : Memory
  host : Memory
  sram : Memory
  stackTab : KV Stack
  chanErr : KV ChanErr
  /-- 32-byte words that a failed write poisoned (Table 11.8) -/
  poison : List Nat
  /-- the PCIe link as it trained (R333) -/
  link : Option PcieLink
  ports : KV Port
  route : Option Route
  routeGen : Nat
  sent : List Sent
  outq : List Queued
  sendSeq : KV Nat
  recvSeq : KV Nat
  gtc : Gtc
  dies : KV Die
  sheds : KV Shed
  supply : Supply
  pll : List Pll
  devPower : DevPower
  restSince : Nat
  cap : Nat
  capSince : Nat
  capLast : Nat
  fallow : FallowPolicy
  cores : KV CoreRec
  eth : KV EthPort
  qps : KV Qp
  i3c : I3c
  jtag : TapInstr
  boot : Boot
  deriving DecidableEq, Repr

/-- The E9 with the queue of commands that wait, first in, first out. -/
structure State where
  pending : List Instr
  nv : NonVol
  hay : Hay
  dev : Dev
  deriving DecidableEq, Repr

/-- Supplies as the module is reset with them: in regulation, PERST# asserted until the board
releases it (R356). DESIGN CHOICE (log 6). -/
def Supply.blank : Supply :=
  { mv48 := 48000, mvAux := 12000, ref := true, refSince := 0, perst := false, warnPin := false, warn := false,
    lowest := 48000, trip := false, tripCool := false, tripReset := false,
    off := false }

def Boot.blank : Boot :=
  { ready := false, fault := false, resetActive := false, policy := 0, meas := List.replicate 8 0, measLog := [],
    reset := some { kind := 1, cause := 4, since := 0 }, standbyAt := none,
    standbyWake := none }

/-- Every default of Tables 2.2 to 18.4 and 17.3; absent table entries stand for the blank records. -/
def Dev.reset : Dev :=
  { now := 0, free := 0, out := Out.blank,
    adm := { sqBase := 0, cqBase := 0, sqLog2 := 0, cqLog2 := 0, enable := false, held := false },
    bar2 := { enable := false, baseGib := 0 }, numVfs := 0, aer := 0, queues := [], lastServed := 63, flights := [],
    nextFlight := 0, fns := [], rxMbox := [], txMbox := [], pads := [], saved := [],
    switches := [], plans := [], runs := [], acc := [], soft := [], absent := [], seqs := [], groups := [],
    colls := [], streams := [], engines := [], features := [], keys := [], hbm := [], host := [], sram := [],
    stackTab := [], chanErr := [], poison := [], link := none, ports := [], route := none, routeGen := 0, sent := [], outq := [], sendSeq := [],
    recvSeq := [], gtc := Gtc.blank, dies := [], sheds := [], supply := Supply.blank, pll := [],
    devPower := .active, restSince := 0, cap := 0, capSince := 0, capLast := 0,
    fallow := { enable := true, minIdle := 50, cap := 100 }, cores := [], eth := [], qps := [],
    i3c := { addr := none, alert := 0, power := 0, temps := { die := 0, hbm := 0, hay := 0 }, trip := false },
    jtag := .idcode, boot := Boot.blank }

def NonVol.reset : NonVol :=
  { retired := [], shedsOut := [], chansOut := [], kek := none, kekLow := none, minSvn := 0,
    slotA := { verifies := true, svn := 0, policy := 0, parts := [] },
    slotB := { verifies := false, svn := 0, policy := 0, parts := [] }, active := false }

/-- The module as power-on reset leaves it, before its cold start (R319, R321): power-on module
reset under way, nothing bound, nothing in flight, no command waiting. -/
def State.reset : State :=
  { pending := [], nv := NonVol.reset, hay := { mem := [], keys := [], stackTab := [], failed := [] }, dev := Dev.reset }

end Sys2Proof.Machine
end

