-- ==== Sys2Proof/Machine/Flags.lean ====
section
/-! DEFINITION. Status codes (Table 2.22), completion flags (Table 2.23), event codes (Table 3.11) and tile status (Table 4.10). -/
namespace Sys2Proof.Machine
open Sys2Proof

/-- Table 2.22. -/
def Status.code : Status → Nat
  | .ok => 0x0000 | .empty => 0x0001 | .badOpcode => 0x0010 | .badParam => 0x0011 | .notInPaddock => 0x0012
  | .shapeExceedsPlan => 0x0013 | .modeRefused => 0x0014 | .pageExhausted => 0x0020 | .staleTable => 0x0021
  | .seqBusy => 0x0022 | .weightLate => 0x0030 | .hayloftReadFail => 0x0031 | .linkFailed => 0x0040
  | .peerFenced => 0x0041 | .timeout => 0x0042 | .groupMismatch => 0x0043 | .mediaSyntax => 0x0050
  | .mediaOvershoot => 0x0051 | .aborted => 0x0060 | .preempted => 0x0061 | .memUncorrectable => 0x0070
  | .internal => 0x00FF

/-- Every status of Table 2.22. -/
def Status.all : List Status :=
  [.ok, .empty, .badOpcode, .badParam, .notInPaddock, .shapeExceedsPlan, .modeRefused, .pageExhausted,
   .staleTable, .seqBusy, .weightLate, .hayloftReadFail, .linkFailed, .peerFenced, .timeout, .groupMismatch,
   .mediaSyntax, .mediaOvershoot, .aborted, .preempted, .memUncorrectable, .internal]

/-- The status that a FAIL packet carries (R262). -/
def Status.ofCode (n : Nat) : Status := (Status.all.find? (fun s => s.code == n)).getD .internal

/-- R41: the statuses FENCE_OK accepts. -/
def Status.good : Status → Bool
  | .ok => true
  | .empty => true
  | _ => false

/-- Table 2.23, bit numbers. -/
def fVdroop : Nat := 0
def fCarryover : Nat := 1
def fFallback : Nat := 2
def fSaturated : Nat := 3
def fDeferred : Nat := 4
def fSwapped : Nat := 5
def fConcealed : Nat := 6
def fDeterministic : Nat := 7
def fExact : Nat := 8
def fReductionFallback : Nat := 9
def fThrottled : Nat := 10
def fRecovered : Nat := 11

/-- FLAGS with bit `i` set. -/
def setFlag (flags i : Nat) : Nat := flags ||| (1 <<< i)
def clearFlag (flags i : Nat) : Nat := if bitOf flags i then flags - 2 ^ i else flags
def setFlagIf (c : Bool) (flags i : Nat) : Nat := if c then setFlag flags i else flags

/-- Table 3.11, event codes. -/
def evInternal : Nat := 0x0001
def evSettingsDefaulted : Nat := 0x0002
def evResetDone : Nat := 0x0003
def evEventsLost : Nat := 0x0004
def evDoorbellInvalid : Nat := 0x0101
def evQueueFetchError : Nat := 0x0102
def evHostReadError : Nat := 0x0103
def evCompletionsDiscarded : Nat := 0x0104
def evMboxAborted : Nat := 0x0201
def evHbmChannelOut : Nat := 0x0301
def evHayloftReserveLow : Nat := 0x0302
def evSeqSwapped : Nat := 0x0303
def evPortFenced : Nat := 0x0401
def evLaneSwap : Nat := 0x0402
def evLinkFailed : Nat := 0x0403
def evGtcUnlocked : Nat := 0x0404
def evVdroop : Nat := 0x0501
def evThrottle : Nat := 0x0502
def evCoreRetired : Nat := 0x0601
def evShedOut : Nat := 0x0602
def evGuardBacklog : Nat := 0x0701

/-- What an executed tile counts (Table 4.10): SATURATED, ZEROED, in-bounds elements written, and the
two flags; `clamped` when an element was clamped under SAT (R100, F_SATURATED). -/
structure TileStatus where
  sat : Nat
  zeroed : Nat
  written : Nat
  rowMasked : Bool
  empty : Bool
  clamped : Bool
  deriving DecidableEq, Repr

def TileStatus.zero : TileStatus :=
  { sat := 0, zeroed := 0, written := 0, rowMasked := false, empty := false, clamped := false }

def TileStatus.add (a b : TileStatus) : TileStatus :=
  { sat := a.sat + b.sat, zeroed := a.zeroed + b.zeroed, written := a.written + b.written,
    rowMasked := a.rowMasked || b.rowMasked, empty := a.empty || b.empty, clamped := a.clamped || b.clamped }

/-- Table 4.10: the 64-bit tile status word. -/
def TileStatus.word (t : TileStatus) : Nat :=
  (t.sat % 2 ^ 24) <<< 40 + (t.zeroed % 2 ^ 24) <<< 16 + b2n t.rowMasked * 2 + b2n t.empty

end Sys2Proof.Machine
end

