-- ==== Sys2Proof/Machine/Links.lean ====
section
/-! DEFINITION. What the Furrow ports and the route table make of a packet: the fence rule, the port choice, and the ports that a command depends on (R239, R243, R250, R253, R254, R256, R258). -/
namespace Sys2Proof.Machine
open Sys2Proof

def Dev.port (d : Dev) (p : Nat) : Port := KV.getD d.ports p Port.blank

/-- The device ID of the loaded route table (R239: 0xFFFF when none is loaded). -/
def Dev.selfId (d : Dev) : Nat := (d.route.map (·.self)).getD 0xFFFF

/-- R250: whether permit set `k` lets a paddock ID pass. -/
def Route.permits (r : Route) (k pad : Nat) : Bool :=
  pad == 0xFFF || (pad != 4095 && bitOf ((r.sets.getD k []).getD (pad / 8) 0).toNat (pad % 8))

/-- What becomes of a packet that is to be sent. -/
inductive Hop where
  | go (port : Nat)
  /-- no port of the mask can carry it and one trains; the packet waits -/
  | wait
  | fail (st : Status)
  deriving DecidableEq, Repr

def maskPorts (mask : Nat) : List Nat := (List.range 16).filter (bitOf mask)

/-- The ports that lead to a device by the route table. -/
def Dev.portsTo (d : Dev) (dst : Nat) : List Nat :=
  match d.route.bind (fun r => KV.find r.dests dst) with
  | some (mask, _) => maskPorts mask
  | none => []

/-- R253: the ports of a mask among which the choice is made: those that are UP; where none is, a VC2
packet of paddock 0xFFF may take a FENCED one (R254). -/
def Dev.carriers (d : Dev) (ps : List Nat) (vc pad : Nat) : List Nat :=
  let up := ps.filter (fun p => (d.port p).state == .up)
  if up.isEmpty && vc == 2 && pad == 0xFFF then ps.filter (fun p => (d.port p).state == .fenced) else up

/-- R253, R254: where a packet to `dst` goes. A pair (DST, VC) keeps its port while a packet of it awaits an answer. -/
def Dev.hop (d : Dev) (dst vc pad : Nat) : Hop :=
  match d.route with
  | none => .fail .peerFenced
  | some r =>
    match KV.find r.dests dst with
    | none => .fail .peerFenced
    | some (mask, set) =>
      if !r.permits set pad then .fail .peerFenced
      else
        let ps := maskPorts mask
        match d.carriers ps vc pad with
        | [] =>
          let live := ps.filter (fun p => (d.port p).state != .failed && (d.port p).state != .disabled)
          if live.isEmpty then .fail .linkFailed
          else if live.all (fun p => (d.port p).state == .fenced) then .fail .peerFenced
          else .wait
        | p0 :: t =>
          match d.sent.find? (fun x => x.pkt.dst == dst && x.pkt.vc == vc && (p0 :: t).contains x.port) with
          | some x => .go x.port
          | none => .go ((p0 :: t).getD ((dst * 4 + vc) % (t.length + 1)) p0)

/-! ### Recovery (R243, R256, R258) -/

/-- R243: a lane swap holds traffic of the port in some direction. -/
def Port.holding (x : Port) : Bool := x.hold.1.isSome || x.hold.2.isSome

/-- R243: the port is in recovery: a replay is outstanding, or a lane swap holds its traffic. -/
def Port.recovering (x : Port) (now : Nat) : Bool := x.holding || decide (now < x.replayUntil)

/-- How much of the next `dt` ns the port spends in recovery. -/
def Port.recoverNs (x : Port) (now dt : Nat) : Nat := if x.holding then dt else min dt (x.replayUntil - now)

/-- The devices that a command waits to hear from: members of its collective, peers it reads from, and the peers of a
sequence whose remote page it waits for. -/
def Dev.hearsFrom (d : Dev) (id : Nat) : List Nat :=
  ((KV.find d.colls id).bind (fun c => KV.find d.groups c.group)).elim [] (·.members) ++
    ((d.sent.filter (fun x => x.flight == some id && x.pkt.kind == 0x02)).map (·.pkt.dst)) ++
    (KV.find d.runs id).elim [] (fun r => r.pageWait.vals.flatten)

/-- R256: a command depends on a port. -/
def Dev.dependsOn (d : Dev) (id p : Nat) : Bool :=
  d.sent.any (fun x => x.flight == some id && x.port == p) ||
    d.outq.any (fun x => x.flight == some id && d.hop x.pkt.dst x.pkt.vc x.pkt.paddock == .go p) ||
    (d.hearsFrom id).any (fun m => (d.portsTo m).contains p) ||
    (match KV.find d.runs id with
      | none => false
      | some r => (d.port p).state == .up && r.sheds.vals.any (·.waiting))

/-- A port the command depends on is in recovery. -/
def Dev.inRecovery (d : Dev) (id : Nat) : Bool :=
  (List.range 16).any (fun p => (d.port p).recovering d.now && d.dependsOn id p)

/-- R258: how much of the next `dt` ns at least one port that the command depends on is in recovery. -/
def Dev.recoverNs (d : Dev) (id dt : Nat) : Nat :=
  ((List.range 16).filter (d.dependsOn id)).foldl (fun a p => max a ((d.port p).recoverNs d.now dt)) 0

/-- R258: extensions are capped at 400 µs. -/
def extCap : Nat := 400000

/-- R258: what the next `dt` ns add to the extension of each command that runs. -/
def Dev.extend (d : Dev) (dt : Nat) : KV Flight :=
  KV.mapV d.flights (fun id f =>
    if f.phase = .running ∨ f.phase = .moving then { f with ext := min extCap (f.ext + d.recoverNs id dt) } else f)

end Sys2Proof.Machine
end

