-- ==== Sys2Proof/Machine/Ops.lean ====
section
/-! DEFINITION. The named operations over the state that every family shares: time, interrupts, events, completions, teardown of queues, sheds and paddocks. -/
namespace Sys2Proof.Machine
open Sys2Proof

/-- The outcome of a row. -/
abbrev Res := Host.Outcome State Fault Refusal

/-- A row whose effect stays below the non-volatile area and the Hayloft. The outputs of the row
before are dropped first (log 5). -/
def onDev (s : State) (g : Dev → Dev) : Res :=
  .next { s with dev := g { s.dev with out := Out.blank } }

/-- A row that may also change the non-volatile area. -/
def onNv (s : State) (g : NonVol → Dev → NonVol × Dev) : Res :=
  let r := g s.nv { s.dev with out := Out.blank }
  .next { s with nv := r.1, dev := r.2 }

/-- A row that may also change the Hayloft. -/
def onHay (s : State) (g : Hay → Dev → Hay × Dev) : Res :=
  let r := g s.hay { s.dev with out := Out.blank }
  .next { s with hay := r.1, dev := r.2 }

/-- A row that reads the non-volatile area and the Hayloft and changes neither. -/
def onDevR (s : State) (g : NonVol → Hay → Dev → Dev) : Res :=
  .next { s with dev := g s.nv s.hay { s.dev with out := Out.blank } }

/-- A row that may change all but the queue. -/
def onAll (s : State) (g : NonVol → Hay → Dev → NonVol × Hay × Dev) : Res :=
  let r := g s.nv s.hay { s.dev with out := Out.blank }
  .next { s with nv := r.1, hay := r.2.1, dev := r.2.2 }

/-- One of several free things: the spec does not say which the E9 takes (log 28). -/
def pickOf (seed : Nat) : List Nat → Option Nat
  | [] => none
  | [a] => some a
  | a :: b :: t => some ((a :: b :: t).getD (Config.pick seed % (t.length + 2)) a)

/-! ### Time (R274, R293) -/

/-- R293: ticks that `ns` of crystal time have brought, 10^9 / 32,768 per whole crystal cycle. -/
def crystalTicks (ns : Nat) : Nat := (ns * 32768 / 1000000000) * 1000000000 / 32768

/-- What `dt` ns make of the global tick counter, once the reference PLL has locked: it counts at the
steered rate (R274), in STANDBY from the crystal (R293). -/
def Dev.tick (d : Dev) (dt : Nat) : Gtc :=
  let g := d.gtc
  if !g.counting then g
  else if d.devPower = .standby then
    let t0 := d.boot.standbyAt.getD d.now
    let n := crystalTicks (d.now + dt - t0) - crystalTicks (d.now - t0)
    { g with val := g.val + BitVec.ofNat 64 n }
  else
    let n := g.frac + dt * (1000000000 + g.ratePpb).toNat
    { g with val := g.val + BitVec.ofNat 64 (n / 1000000000), frac := n % 1000000000 }

/-- Time passes: the model's clock, the global tick counter, and the extensions of commands that depend
on a port in recovery (R258). -/
def Dev.advance (d : Dev) (dt : Nat) : Dev :=
  { d with now := d.now + dt, gtc := d.tick dt, flights := d.extend dt }

/-- True when `since` lies at least `ns` back. -/
def Dev.elapsed (d : Dev) (since ns : Nat) : Bool := since + ns <= d.now

/-! ### Features (Table 2.20) -/

/-- The default of a feature (Tables 2.20, 4.3, 5.7, 5.8, 10.4, 11.7, 12.4, 12.7, 14.2, 15.4, 15.5). -/
def featureDefault (id : Nat) : Nat :=
  if id = 0x0001 then 1
  else if id = 0x0200 then ((Config.linkCurrent - 2) % 65536) * 65536 + Config.linkCurrent % 65536
  else if id = 0x0201 then 0x70104040
  else if id = 0x0301 then 1
  else if id = 0x0400 then (Config.reductionOldest % 65536) * 65536 + Config.reductionCurrent % 65536
  else if id = 0x0401 then Config.reductionCurrent % 65536
  else 0

/-- R46: the identifiers that are assigned. -/
def featureAssigned (id : Nat) : Bool :=
  [0x0001, 0x0002, 0x0100, 0x0101, 0x0200, 0x0201, 0x0300, 0x0301, 0x0400, 0x0401].contains id ||
    (0x0120 ≤ id && id ≤ 0x013F) || (0x0500 ≤ id && id ≤ 0x0503)

def Dev.feature (d : Dev) (id : Nat) : Nat := KV.getD d.features id (featureDefault id)

/-! ### Interrupts (R35, R61) -/

def Dev.fn (d : Dev) (n : Nat) : Fn := KV.getD d.fns n Fn.blank
def Dev.setFn (d : Dev) (n : Nat) (f : Fn) : Dev := { d with fns := KV.put d.fns n f }

/-- Raises MSI-X vector `v` of function `n`: a message, or the pending bit while masked. R61: vector 0
of a virtual function is never raised. -/
def Dev.raise (d : Dev) (n v : Nat) : Dev :=
  if n ≠ 0 ∧ v = 0 then d
  else
    let f := d.fn n
    let m := KV.getD f.msix v Msix.blank
    if m.mask then d.setFn n { f with msix := KV.put f.msix v { m with pend := true } }
    else { d with out := { d.out with irqs := d.out.irqs ++ [(n, v)] } }

/-- R35: counts one completion for a vector and raises it when either coalescing limit is reached. -/
def Dev.coalesce (d : Dev) (n v : Nat) : Dev :=
  let f := d.fn n
  let c := KV.getD f.coal v (0, d.now)
  let first := if c.1 = 0 then d.now else c.2
  if d.feature 0x0001 ≤ c.1 + 1 ∨ d.feature 0x0002 = 0 then
    (d.setFn n { f with coal := KV.del f.coal v }).raise n v
  else d.setFn n { f with coal := KV.put f.coal v (c.1 + 1, first) }

/-! ### Events (R58 to R60) -/

/-- Table 3.10. -/
def Event.bytes (e : Event) (phase : Bool) : List Byte :=
  wordsLE [b2n phase * 2 ^ 31 + (e.paddock % 4096) * 65536 + e.code % 65536, e.source % 2 ^ 32] ++
    bytesLE 8 e.gtc.toNat ++
    wordsLE [e.detail.getD 0 0, e.detail.getD 1 0, e.detail.getD 2 0, e.detail.getD 3 0]

def Ring.size (r : Ring) : Nat := 2 ^ r.log2
/-- R24: a ring of 2^n slots holds at most 2^n - 1 entries. -/
def Ring.space (r : Ring) : Bool := (r.tail + 1) % r.size != r.head

/-- Writes one record at TAIL. -/
def Ring.emit (r : Ring) (h : Memory) (e : Event) : Ring × Memory :=
  let t := (r.tail + 1) % r.size
  ({ r with tail := t, phase := if t = 0 then !r.phase else r.phase, event := true },
    h.writes (r.base + 32 * r.tail) (e.bytes r.phase))

/-- R60: the held records, oldest first, while there is space; the count is of records written. -/
def Ring.drainHeld (r : Ring) (h : Memory) : List Event → Ring × Memory × Nat
  | [] => ({ r with held := [] }, h, 0)
  | e :: es =>
    if r.space then
      let w := r.emit h e
      let z := Ring.drainHeld w.1 w.2 es
      (z.1, z.2.1, z.2.2 + 1)
    else ({ r with held := e :: es }, h, 0)

/-- R60: when space returns: the held records, then EV_EVENTS_LOST. -/
def Ring.drain (r : Ring) (h : Memory) (gtc : DWord) : Ring × Memory × Nat :=
  if !r.enable then (r, h, 0)
  else
    let z := r.drainHeld h r.held
    if z.1.held.isEmpty && z.1.lostSince != 0 && z.1.space then
      let w := z.1.emit z.2.1
        { code := evEventsLost, paddock := 0xFFF, source := 0, gtc := gtc, detail := [z.1.lostSince] }
      ({ w.1 with lostSince := 0 }, w.2, z.2.2 + 1)
    else z

/-- R60: a record is written, held, or discarded and counted. -/
def Ring.post (r : Ring) (h : Memory) (e : Event) : Ring × Memory × Nat :=
  if r.enable && r.held.isEmpty && r.lostSince == 0 && r.space then
    let w := r.emit h e
    (w.1, w.2, 1)
  else if r.held.length < 64 then ({ r with held := r.held ++ [e] }, h, 0)
  else
    ({ r with lost := if r.lost < 0xFFFF then r.lost + 1 else 0xFFFF, overflow := true,
              lostSince := r.lostSince + 1 }, h, 0)

/-- Raises vector 1 once for each record written (R61). -/
def Dev.raiseN (d : Dev) (n : Nat) : Nat → Dev
  | 0 => d
  | k + 1 => (d.raise n 1).raiseN n k

/-- One event into one function's ring. -/
def Dev.postTo (d : Dev) (n : Nat) (e : Event) : Dev :=
  let f := d.fn n
  let z := f.ring.post d.host e
  ({ d with host := z.2.1 }.setFn n { f with ring := z.1 }).raiseN n z.2.2

/-- Writes what a function's ring holds while it has space. -/
def Dev.drainRing (d : Dev) (n : Nat) : Dev :=
  let f := d.fn n
  let z := f.ring.drain d.host d.gtc.val
  ({ d with host := z.2.1 }.setFn n { f with ring := z.1 }).raiseN n z.2.2

/-- An event as posted now. -/
def Dev.event (d : Dev) (code paddock source : Nat) (detail : List Nat) : Event :=
  { code := code, paddock := paddock, source := source, gtc := d.gtc.val, detail := detail }

/-- R59: an event of scope D goes to the physical function. -/
def Dev.postD (d : Dev) (code source : Nat) (detail : List Nat) : Dev :=
  d.postTo 0 (d.event code 0xFFF source detail)

/-- R59: the virtual functions with a queue bound to a paddock, each once, in rising order. -/
def Dev.vfsOf (d : Dev) (pad : Nat) : List Nat :=
  (List.range 64).filter (fun n => n != 0 &&
    d.queues.any (fun e => e.2.state != .unbound && e.2.paddock == pad && e.2.fn == n))

/-- R59: an event of scope P goes to the physical function and to every virtual function that has a
queue bound to the paddock. -/
def Dev.postP (d : Dev) (code pad source : Nat) (detail : List Nat) : Dev :=
  let e := d.event code pad source detail
  (d.vfsOf pad).foldl (fun d n => d.postTo n e) (d.postTo 0 e)

/-! ### Queues and completions (R24 to R35) -/

def Dev.queue (d : Dev) (q : Nat) : Queue := KV.getD d.queues q Queue.blank
def Dev.setQueue (d : Dev) (q : Nat) (x : Queue) : Dev := { d with queues := KV.put d.queues q x }
def Dev.setFlight (d : Dev) (f : Nat) (x : Flight) : Dev := { d with flights := KV.upd d.flights f (fun _ => x) }
def Dev.updFlight (d : Dev) (f : Nat) (g : Flight → Flight) : Dev := { d with flights := KV.upd d.flights f g }

/-- Entries between SQ_HEAD and the tail. -/
def Queue.unfetched (q : Queue) : Nat := (q.tail + 2 ^ q.sqLog2 - q.head) % 2 ^ q.sqLog2
/-- R33: a free completion slot. -/
def Queue.cqSpace (q : Queue) : Bool := (q.cqTail + 1) % 2 ^ q.cqLog2 != q.cqHead

/-- Commands of a queue in flight (INFLIGHT of Table 2.11). -/
def Dev.inflight (d : Dev) (q : Nat) : Nat := (d.flights.filter (fun e => e.2.queue == q)).length

/-- Word `i` of a command entry (Table 2.12). -/
def Flight.w (f : Flight) (i : Nat) : Nat := (f.words.getD i 0).toNat
def Flight.opcode (f : Flight) : Nat := fld (f.w 0) 0 8
def Flight.paddock (f : Flight) : Nat := fld (f.w 0) 16 12
def Flight.fence (f : Flight) : Bool := bitOf (f.w 0) 8
def Flight.fenceOk (f : Flight) : Bool := bitOf (f.w 0) 11
def Flight.noIrq (f : Flight) : Bool := bitOf (f.w 0) 12
def Flight.tag (f : Flight) : Nat := fld (f.w 1) 0 16
def Flight.priority (f : Flight) : Nat := fld (f.w 1) 16 2
/-- A 64-bit parameter: two words, low word first (Table 2.12). -/
def Flight.d (f : Flight) (i : Nat) : Nat := f.w i + 2 ^ 32 * f.w (i + 1)

/-- R43: the timeout in ns, raised to 1 ms. -/
def Flight.timeoutNs (f : Flight) (defMs : Nat) : Nat :=
  let v := fld (f.w 1) 18 12
  let t := match fld (f.w 1) 30 2 with
    | 0 => defMs * 1000000
    | 1 => v * 1000000
    | 2 => v * 100000000
    | _ => v * 10000000000
  max t 1000000

/-- The key of a handle within a paddock. -/
def padKey (pad handle : Nat) : Nat := pad * 65536 + handle
/-- The plan that a plan command names in W2[15:0]. -/
def Flight.planKey (f : Flight) : Nat := padKey f.paddock (fld (f.w 2) 0 16)

/-- R42: the sequence handles a command names. -/
def Flight.seqHandles (f : Flight) : List Nat :=
  if 0x40 ≤ f.opcode ∧ f.opcode ≤ 0x46 then [fld (f.w 2) 0 16]
  else if f.opcode = 0x11 then
    ([fld (f.w 12) 0 16, fld (f.w 12) 16 16, fld (f.w 13) 0 16, fld (f.w 13) 16 16].filter (· != 0xFFFF)).eraseDups
  else []
def Flight.seqKeys (f : Flight) : List Nat := f.seqHandles.map (padKey f.paddock)

/-- Table 2.13. -/
def Flight.completion (f : Flight) (phase : Bool) (gtcEnd : DWord) : List Byte :=
  wordsLE [f.status.code * 65536 + f.tag, b2n phase * 2 ^ 31 + (f.queue % 64) * 65536 + f.flags % 65536] ++
    bytesLE 8 f.gtcStart.toNat ++ bytesLE 8 gtcEnd.toNat ++ wordsLE [f.countA % 2 ^ 32, f.countB % 2 ^ 32]

/-- R41: a command that leaves flight with a status other than ST_OK or ST_EMPTY bars the later
FENCE_OK commands of its queue that wait for it. -/
def markFence (fl : KV Flight) (id q : Nat) (st : Status) : KV Flight :=
  if st.good then fl
  else KV.mapV fl (fun k x => if k > id && x.queue == q && x.fence && x.phase == .waiting
    then { x with fenceBad := true } else x)

/-- Sheds that a run frees become idle now (R296). -/
def Dev.idleSheds (d : Dev) (ss : List Nat) : Dev :=
  { d with sheds := ss.foldl (fun t s => KV.put t s { KV.getD t s Shed.blank with idleSince := d.now }) d.sheds }

/-- A media command leaves its stream's list; the oldest DEC_DATA of a stream takes its work with it. -/
def leaveStreams (t : KV Stream) (fl : KV Flight) (id : Nat) (f : Flight) : KV Stream :=
  let h := fld (f.w 2) 0 16
  if f.opcode = 0x61 ∨ f.opcode = 0x64 then
    let oldest := f.opcode == 0x64 && !fl.any (fun e => e.1 < id && e.2.phase != .finished && e.2.opcode == 0x64 && fld (e.2.w 2) 0 16 == h)
    KV.upd t h (fun q => { q with ready := q.ready.filter (· != id), job := if oldest then none else q.job })
  else t

/-- A command has its verdict: its run or collective ends, its engine is free, nothing more of it goes out
(R254), and its sent packets no longer belong to it. -/
def Dev.letGo (d : Dev) (id : Nat) (f : Flight) : Dev :=
  let ss := match KV.find d.runs id with
    | some r => r.sheds.vals.map (·.phys)
    | none => []
  let d := d.idleSheds ss
  { d with
    runs := KV.del d.runs id,
    colls := KV.del d.colls id,
    engines := d.engines.filter (fun e => e.2.flight != id),
    streams := KV.mapV (leaveStreams d.streams d.flights id f) (fun _ q => if q.closing = some id then { q with closing := none } else q),
    outq := d.outq.filter (fun x => x.flight != some id),
    sent := d.sent.map (fun x => if x.flight == some id then { x with flight := none } else x) }

/-- A command leaves flight, and its sequences note the use (R165). -/
def Dev.leave (d : Dev) (id : Nat) (f : Flight) : Dev :=
  let d := if f.phase = .finished then d else d.letGo id f
  { d with
    restSince := d.now,
    flights := markFence (KV.del d.flights id) id f.queue f.status,
    seqs := f.seqKeys.foldl (fun t k => KV.upd t k (fun q => { q with lastUse := d.gtc.val, lastQueue := f.queue })) d.seqs }

/-- R126: what the entry of a PLAN_RUN that passed its checks shows of the guard, as the entry is written. -/
def Dev.fallbackFlag (d : Dev) (f : Flight) : Flight :=
  match f.wide with
  | none => f
  | some n =>
    let backlog := ((KV.find d.plans f.planKey).bind (·.table)).elim false (fun t => t.layers.any (fun l => l.state == 1))
    { f with flags := setFlagIf (n != 0 || backlog) f.flags fFallback }

/-- R33, R35: writes a finished command's entry at CQ_TAIL and counts it for its vector. -/
def Dev.writeEntry (d : Dev) (id : Nat) (f : Flight) : Dev :=
  let f := d.fallbackFlag f
  let q := d.queue f.queue
  let t := (q.cqTail + 1) % 2 ^ q.cqLog2
  let d1 : Dev := { d with host := d.host.writes (q.cqBase + 32 * q.cqTail) (f.completion q.phase d.gtc.val) }
  let d2 := d1.setQueue f.queue { q with cqTail := t, phase := if t = 0 then !q.phase else q.phase }
  let d3 := d2.leave id f
  if f.noIrq then d3 else d3.coalesce q.fn q.vector

/-- GTC_START + T, later by the time that a suspended run's paddock spent OUT (R43, R286). -/
def Dev.dueAt (d : Dev) (f : Flight) : Nat := f.startNow + f.timeoutNs (d.queue f.queue).timeoutMs + f.outNs
/-- R258: F_DEFERRED on a command that ran past GTC_START + T with an extension. -/
def Dev.lateFlag (d : Dev) (f : Flight) : Flight :=
  { f with flags := setFlagIf ((f.phase == .running || f.phase == .moving) && decide (d.dueAt f < d.now) && f.ext != 0) f.flags fDeferred }

/-- R33: the command stays in flight under CQ_FULL while no slot is free. -/
def Dev.retire (d : Dev) (id : Nat) (f : Flight) : Dev :=
  let f := d.lateFlag f
  let q := d.queue f.queue
  if q.cqSpace && q.waitCq.isEmpty then d.writeEntry id f
  else ((d.letGo id f).setFlight id { f with phase := .finished }).setQueue f.queue { q with waitCq := q.waitCq ++ [id] }

/-- Command `f` of opcode `op`, while it runs; else the row has nothing to act on (log 2). -/
def Dev.onFlight (d : Dev) (f op : Nat) (g : Flight → Dev) : Dev :=
  match KV.find d.flights f with
  | some x => if x.phase = .running ∧ x.opcode = op then g x else d
  | none => d

/-- R39: flags that depend on the verdict: F_DETERMINISTIC is set only with ST_OK (R114). -/
def Flight.verdict (f : Flight) (st : Status) (a b : Nat) : Flight :=
  { f with status := st, countA := a % 2 ^ 32, countB := b % 2 ^ 32,
           flags := if st = .ok then f.flags else clearFlag f.flags fDeterministic }

/-- R126: a PLAN_RUN that passed its checks notes how many of its layers ran at 8 bits, whatever its status. -/
def Dev.runFlags (d : Dev) (id : Nat) (f : Flight) : Flight := { f with wide := (KV.find d.runs id).map (·.wideLayers) }

/-- Table 3.11, Table 2.22: a firmware fault that a command ends with posts EV_INTERNAL with the command's tag. The
spec lists no fault codes and does not say which control processor: both are free values. -/
def Dev.postInternal (d : Dev) (id : Nat) (st : Status) (tag : Nat) : Dev :=
  if st = .internal then
    d.postD evInternal (Config.firmwareFault id 0 % 4) [Config.firmwareFault id 1 % 2 ^ 32, tag]
  else d

/-- Ends a command with a status and counters: the completion is written, or waits for a slot. A
command that already has its verdict keeps it (R39). -/
def Dev.finish (d : Dev) (id : Nat) (st : Status) (a b : Nat) : Dev :=
  match KV.find d.flights id with
  | none => d
  | some f =>
    if f.phase = .finished then d
    else (d.postInternal id st f.tag).retire id (d.runFlags id (f.verdict st a b))

/-- A data-moving command reaches its verdict; TRANSFER_DONE writes its entry. -/
def Dev.settle (d : Dev) (id : Nat) (st : Status) (a b : Nat) : Dev :=
  d.updFlight id (fun f => { f.verdict st a b with phase := .moving })

/-- R34: with slots freed, held completions are written in order. -/
def Dev.flushCq (d : Dev) (q : Nat) : List Nat → Dev
  | [] => d
  | id :: t =>
    let x := d.queue q
    if x.cqSpace then
      let d' := d.setQueue q { x with waitCq := t }
      match KV.find d'.flights id with
      | some f => (d'.writeEntry id f).flushCq q t
      | none => d'.flushCq q t
    else d

/-- The fetch numbers of the commands in flight that `p` picks, oldest first. -/
def Dev.flightsWhere (d : Dev) (p : Nat → Flight → Bool) : List Nat := (KV.keep d.flights p).keys

/-! ### Paddocks, sheds and cores -/

def Dev.pad (d : Dev) (p : Nat) : Option Paddock := KV.find d.pads p
def Dev.shed (d : Dev) (s : Nat) : Shed := KV.getD d.sheds s Shed.blank
def Dev.setShed (d : Dev) (s : Nat) (x : Shed) : Dev := { d with sheds := KV.put d.sheds s x }

/-- The key of a physical core. -/
def coreKey (shed core : Nat) : Nat := shed * 72 + core
/-- R315: a shed serves until it has left service. -/
def NonVol.inService (nv : NonVol) (s : Nat) : Bool := !nv.shedsOut.contains s
def NonVol.isRetired (nv : NonVol) (s c : Nat) : Bool := KV.has nv.retired (coreKey s c)
/-- The physical cores of a shed that are not retired, in rising order. -/
def NonVol.good (nv : NonVol) (s : Nat) : List Nat := (List.range 72).filter (fun c => !nv.isRetired s c)
/-- R66, R313: logical core l runs on the (l + 1)-th good physical core. -/
def NonVol.logical (nv : NonVol) (s : Nat) : List Nat := (nv.good s).take 64
/-- R312 to R314: good cores above the 64th, and none in a shed that has left service. -/
def NonVol.spares (nv : NonVol) (s : Nat) : Nat := if nv.inService s then (nv.good s).length - 64 else 0

/-- The sheds of a mask. -/
def shedsOf (mask : Nat) : List Nat := (List.range 32).filter (bitOf mask)

/-- The members of the rotation set with a mask (R280). -/
def Dev.setOf (d : Dev) (mask : Nat) : List Nat := (KV.keep d.pads (fun _ p => p.shedMask == mask)).keys
/-- The member that is IN. -/
def Dev.inOf (d : Dev) (mask : Nat) : Option Nat :=
  (d.setOf mask).find? (fun p => ((d.pad p).map (·.isIn)).getD false)

/-- R31: a paddock that is switched out, or whose set is being switched. -/
def Dev.isOut (d : Dev) (p : Nat) : Bool :=
  match d.pad p with
  | none => false
  | some x => !x.isIn

/-- R285: a paddock has demand when a queue of it, STOPPED ones included, holds unfetched entries or it has a PLAN_RUN in flight. -/
def Dev.demand (d : Dev) (p : Nat) : Bool :=
  d.queues.any (fun e => e.2.state != .unbound && e.2.paddock == p && e.1 != 0 && e.2.unfetched != 0) ||
    d.flights.any (fun e => e.2.opcode == 0x11 && e.2.paddock == p)

/-- R296, Table 15.3: the state a tolerance selects. -/
def powerOfTol (saveArea : Bool) (ns : Nat) : ShedPower :=
  if ns < 800 then .run else if ns < 20000 then .gate else if ns < 350000 then .hold
  else if ns < 2000000 then (if saveArea then .save else .hold) else .off

/-- R298: whether feature 0x0300 defines a save area. -/
def Dev.hasSaveArea (d : Dev) : Bool := fld (d.feature 0x0300) 32 16 != 0

/-- R299: the smallest tolerance among the members of a rotation set. -/
def Dev.setTol (d : Dev) (mask : Nat) : Nat :=
  ((d.setOf mask).filterMap (fun p => (d.pad p).map (·.tolNs))).foldl min (2 ^ 64)

/-- R296: a shed's target. -/
def Dev.target (d : Dev) (nv : NonVol) (s : Nat) : ShedPower :=
  if !nv.inService s then .off
  else match d.pads.vals.find? (fun p => bitOf p.shedMask s) with
    | none => .off
    | some p => powerOfTol d.hasSaveArea (d.setTol p.shedMask)

def ShedPower.depth : ShedPower → Nat
  | .run => 0 | .gate => 1 | .hold => 2 | .save => 3 | .off => 4

/-- R297: a wake event: the shed leaves its state for `to`; a save in progress is abandoned. -/
def Shed.wake (x : Shed) (lvl : ShedPower) : Shed :=
  if x.power.depth ≤ lvl.depth then { x with saving := none }
  else { x with wakeTo := some (match x.wakeTo with
      | some t => if t.depth < lvl.depth then t else lvl
      | none => lvl), saving := none }

def Dev.wakeShed (d : Dev) (s : Nat) (lvl : ShedPower) : Dev := d.setShed s ((d.shed s).wake lvl)
def Dev.wakeSheds (d : Dev) (ss : List Nat) (lvl : ShedPower) : Dev := ss.foldl (fun d s => d.wakeShed s lvl) d

/-- R299: sheds deeper than their target are woken to it. -/
def Dev.fitTargets (d : Dev) (nv : NonVol) (ss : List Nat) : Dev :=
  ss.foldl (fun d s => if (d.target nv s).depth < (d.shed s).power.depth then d.wakeShed s (d.target nv s) else d) d

/-- R213: the tier address of a crib byte. -/
def cribAddr (shed core off : Nat) : Nat := 0xFF00000000000000 + shed * 2 ^ 32 + core * 2 ^ 24 + off
/-- R213: the tier address of a loft byte. -/
def loftAddr (shed off : Nat) : Nat := 0xFE00000000000000 + shed * 2 ^ 32 + off

/-- R213: the tier address of a die-network link. -/
def linkAddr (link : Nat) : Nat := 0xFD00000000000000 + link

/-- Whether a tier address lies in a shed's cribs or loft. -/
def inShed (shed a : Nat) : Bool :=
  (cribAddr shed 0 0 ≤ a && a < cribAddr (shed + 1) 0 0) || (loftAddr shed 0 ≤ a && a < loftAddr (shed + 1) 0)

/-- Clears the cribs, loft, accumulators and soft-maximum groups of sheds, and forgets what the save area holds of them. -/
def Dev.clearSheds (d : Dev) (ss : List Nat) : Dev :=
  { d with sram := d.sram.filter (fun c => !ss.any (fun s => inShed s c.1)),
           acc := KV.keep d.acc (fun k _ => !ss.contains (k / 72)),
           soft := KV.keep d.soft (fun k _ => !ss.contains (k / 72)),
           absent := d.absent.filter (fun a => !ss.contains (a.1 / 72)),
           sheds := KV.mapV d.sheds (fun k x => if ss.contains k then { x with saved := false } else x) }

/-! ### HBM layout (R232, R233) -/

def hbmTop : Nat := 768 * 10 ^ 9
def stackBytes : Nat := 32 * 10 ^ 9
/-- Good channels of a stack: those not mapped out. -/
def NonVol.goodChans (nv : NonVol) (stack : Nat) : List Nat :=
  (rangeFrom (32 * stack) 32).filter (fun c => !nv.chansOut.contains c)
/-- R232: an address in a hole, or past the last HBM address. -/
def NonVol.hole (nv : NonVol) (a : Nat) : Bool :=
  hbmTop ≤ a || (nv.goodChans (a / stackBytes)).length * 10 ^ 9 ≤ a % stackBytes
/-- A range reaches a hole: some stack it touches has one that it touches. -/
def NonVol.reachesHole (nv : NonVol) (base len : Nat) : Bool :=
  (List.range 24).any (fun s =>
    let lo := s * stackBytes + (nv.goodChans s).length * 10 ^ 9
    let hi := (s + 1) * stackBytes
    lo < hi && base < hi && lo < base + len)
/-- R232: the good channel that holds an address. -/
def NonVol.channelOf (nv : NonVol) (a : Nat) : Nat :=
  let g := nv.goodChans (a / stackBytes)
  g.getD ((a % stackBytes) / 512 % g.length) 0

/-- Every byte of the range lies in entries of a map (R369), entries in rising order. -/
def inMap : List (Nat × Nat) → Nat → Nat → Bool
  | _, _, 0 => true
  | [], _, _ => false
  | (b, l) :: t, a, n + 1 =>
    if b ≤ a && a < b + l then
      (if a + (n + 1) ≤ b + l then true else inMap t (b + l) (a + (n + 1) - (b + l)))
    else inMap t a (n + 1)

/-- A region feature of BASE and SIZE in MiB (Tables 4.3, 14.2, 15.4). -/
def regionBase (v : Nat) : Nat := fld v 0 32 * 2 ^ 20
def regionLen (v : Nat) : Nat := fld v 32 16 * 2 ^ 20
def overlaps (a n b m : Nat) : Bool := a < b + m && b < a + n && n != 0 && m != 0

/-- R64: a range that touches the plan store. -/
def Dev.inStore (d : Dev) (a n : Nat) : Bool :=
  overlaps a n (regionBase (d.feature 0x0100)) (regionLen (d.feature 0x0100))

/-! ### Shed contents in HBM (R284, R298) -/

/-- R284: 194 MiB hold a shed's contents: the cribs of the 64 logical cores (128 MiB), the loft (48 MiB), accumulators (16 MiB) and
controller state (2 MiB), in this order (DEDUCED, log 15). -/
def contextSlot : Nat := 194 * 2 ^ 20
/-- Bytes of a slot that are cribs and loft. -/
def contextCells : Nat := 176 * 2 ^ 20

/-- The offset in its slot of a crib or loft byte of a shed whose logical cores are `cores`; none for a core outside them. -/
def cellOffset (cores : List Nat) (a : Nat) : Option Nat :=
  if 0xFF00000000000000 ≤ a then
    (cores.findIdx? (· == fld a 24 8)).bind (fun k => if k < 64 ∧ fld a 21 3 = 0 then some (k * 2 ^ 21 + fld a 0 21) else none)
  else if fld a 0 32 < 48 * 2 ^ 20 then some (2 ^ 27 + fld a 0 32) else none
/-- The crib or loft byte at an offset of a slot. -/
def cellAddr (shed : Nat) (cores : List Nat) (off : Nat) : Option Nat :=
  if off < 2 ^ 27 then (cores[off / 2 ^ 21]?).map (fun c => cribAddr shed c (off % 2 ^ 21)) else some (loftAddr shed (off - 2 ^ 27))

/-- Bytes the spec leaves open: each is a free value of the counter. -/
def Dev.freeBytes (d : Dev) (n : Nat) : Dev × List Byte :=
  ({ d with free := d.free + n }, (rangeFrom d.free n).map Config.freeByte)

/-- A shed's crib and loft go to the slot at HBM address `base`; the form of its accumulators and controller state there is not
given: free bytes (log 15). -/
def Dev.storeShed (d : Dev) (base shed : Nat) (cores : List Nat) : Dev :=
  let cells := (d.sram.filter (fun c => inShed shed c.1)).filterMap (fun c => (cellOffset cores c.1).map (fun o => (base + o, c.2)))
  let z := d.freeBytes (contextSlot - contextCells)
  { z.1 with
    hbm := ((d.hbm.clear base contextCells).writeAll cells).writes (base + contextCells) z.2,
    poison := d.poison.filter (fun w => !(base ≤ w * 32 && w * 32 < base + contextSlot)) }

/-- A shed's crib and loft come back from the slot at `base`. -/
def Dev.loadShed (d : Dev) (base shed : Nat) (cores : List Nat) : Dev :=
  let cells := (d.hbm.filter (fun c => base ≤ c.1 && c.1 < base + contextCells)).filterMap (fun c => (cellAddr shed cores (c.1 - base)).map (fun a => (a, c.2)))
  { d with sram := Memory.writeAll (d.sram.filter (fun c => !inShed shed c.1)) cells }

/-- R298: shed s saves at BASE + 194 s MiB of feature 0x0300. -/
def Dev.saveBase (d : Dev) (shed : Nat) : Nat := regionBase (d.feature 0x0300) + contextSlot * shed
/-- R298: a shed's crib and loft leave it for the save area. -/
def Dev.saveShed (d : Dev) (nv : NonVol) (shed : Nat) : Dev :=
  let d := d.storeShed (d.saveBase shed) shed (nv.logical shed)
  { d with sram := d.sram.filter (fun c => !inShed shed c.1) }.setShed shed { d.shed shed with saved := true }
/-- R298: they come back, when they are there. -/
def Dev.unsaveShed (d : Dev) (nv : NonVol) (shed : Nat) : Dev :=
  if (d.shed shed).saved then (d.loadShed (d.saveBase shed) shed (nv.logical shed)).setShed shed { d.shed shed with saved := false } else d

/-- A range of HBM that a command of the paddock may name (R64, R369). -/
def Dev.hbmOk (d : Dev) (p : Paddock) (a n : Nat) : Bool := inMap p.hbmMap a n && !d.inStore a n

/-! ### Flags that conditions of the device set on running commands (R213, R295) -/

/-- Sets a flag on every running command that `p` picks. -/
def Dev.flagRunning (d : Dev) (flag : Nat) (p : Nat → Flight → Bool) : Dev :=
  { d with flights := KV.mapV d.flights (fun k f =>
      if (f.phase == .running || f.phase == .moving) && p k f then { f with flags := setFlag f.flags flag } else f) }

end Sys2Proof.Machine
end

