-- ==== Sys2Proof/Machine/Operands.lean ====
section
/-! DEFINITION. Operand forms: the command entry's opcodes, fields and reserved bits (Tables 2.12 to 2.21), the spaces an address can lie in, and the Furrow packet header (Table 12.5). -/
namespace Sys2Proof.Machine
open Sys2Proof

/-- The column "Issued" of Tables 2.15 to 2.21. -/
inductive Issue where
  | d | p0 | p | m | a
  deriving DecidableEq, Repr

def opcodesD : List Nat := [0x03, 0x70, 0x71, 0x72, 0x81, 0x90, 0x92, 0x93, 0xF0]
def opcodesP0 : List Nat := [0x04, 0x05, 0x06, 0x07, 0x47, 0xF1]
def opcodesM : List Nat := [0x30, 0x32, 0x91]
def opcodesA : List Nat := [0x00, 0x01, 0x02]
def opcodesP : List Nat :=
  [0x10, 0x11, 0x12, 0x13, 0x20, 0x21, 0x22, 0x23, 0x24, 0x31, 0x33] ++ [0x40, 0x41, 0x42, 0x43, 0x44, 0x45, 0x46] ++
    [0x50, 0x51, 0x52, 0x53] ++ [0x60, 0x61, 0x62, 0x63, 0x64, 0x65] ++ [0x80, 0xA0, 0xA1]

/-- Where an opcode may be issued; none for one that is not defined (R45). -/
def issueOf (op : Nat) : Option Issue :=
  if opcodesD.contains op then some .d
  else if opcodesP0.contains op then some .p0
  else if opcodesM.contains op then some .m
  else if opcodesA.contains op then some .a
  else if opcodesP.contains op then some .p
  else none

def all32 : Nat := 0xFFFFFFFF

/-- The parameter bits of each opcode, by word; every other bit of words 2 to 15 is reserved (R45). -/
def paramBits : Nat → List (Nat × Nat)
  | 0x01 => [(2, all32), (3, all32), (4, 0xFF)]
  | 0x02 => [(2, 0xFFFF)]
  | 0x03 => [(2, 0xFFFF), (4, all32), (5, all32)]
  | 0x04 => [(2, 0x3), (3, all32), (4, 0x03FF03FF), (5, all32)]
  | 0x06 => [(2, 0x3F013F), (3, 0x7FF), (4, all32), (5, all32), (6, all32), (7, all32), (8, 0x1F1F), (9, 0xFFFF07FF)]
  | 0x07 => [(2, 0xF), (4, all32), (5, all32), (6, all32)]
  | 0x10 => [(2, 0xFFFF), (3, 0x3), (4, all32), (5, all32), (6, all32), (7, all32)]
  | 0x11 => [(2, 0xFFFF), (3, 0x7F), (4, all32), (5, all32), (6, 0xFFFFFF), (7, all32), (8, all32), (9, 0xFFFF),
             (10, all32), (11, all32), (12, all32), (13, all32)]
  | 0x12 => [(2, 0x1FFFF), (3, 0xFFFF003F)]
  | 0x13 => [(2, 0xFFFF)]
  | 0x20 => [(2, all32), (3, all32), (4, all32), (5, all32), (6, all32), (7, all32), (8, 0xFF), (9, 0x37FF)]
  | 0x21 => [(2, all32), (3, all32), (4, all32), (5, all32), (6, all32), (7, 0xF)]
  | 0x22 => [(2, 0xFFFF), (3, 0xF)]
  | 0x23 => [(2, 0x3FFFF), (4, all32), (5, all32), (6, 0xFFFF)]
  | 0x24 => [(2, 0xFFFF), (3, all32), (4, 0x1), (5, all32), (6, all32)]
  | 0x30 => [(2, all32), (3, all32), (4, all32), (5, all32), (6, all32), (7, all32), (8, 0xF)]
  | 0x31 => [(2, all32), (3, all32), (4, all32), (5, all32), (6, all32), (7, all32), (8, 0xF)]
  | 0x32 => [(2, all32), (3, all32), (4, all32), (5, all32)]
  | 0x33 => [(2, all32), (3, all32)]
  | 0x40 => [(2, 0xFFFF), (3, 0xFFFFFF), (4, all32), (5, all32), (6, all32)]
  | 0x41 => [(2, 0xFFFF), (3, all32), (4, all32), (5, all32), (6, 0xFFFFFF)]
  | 0x42 => [(2, 0xFFFF), (3, 0xF), (4, all32), (5, all32), (6, 0xFFFFFF)]
  | 0x43 => [(2, 0xFFFF), (4, all32), (5, all32), (6, all32)]
  | 0x44 => [(2, 0xFFFF)]
  | 0x45 => [(2, 0xFFFF)]
  | 0x46 => [(2, 0xFFFF)]
  | 0x47 => [(4, all32), (5, all32), (6, all32), (7, all32), (8, all32), (9, all32), (10, all32), (11, all32), (12, 0xF)]
  | 0x50 => [(2, 0xFFFF), (3, 0xF), (4, all32), (5, all32)]
  | 0x51 => [(2, 0xFFFF), (3, 0x3FF0F), (4, all32), (5, all32), (6, all32), (7, all32), (8, all32), (9, all32), (10, 0xFFFFFF)]
  | 0x52 => [(2, 0xFFFF), (3, 0x3FF0F), (4, all32), (5, all32), (6, all32), (7, all32), (8, all32), (9, all32), (10, 0xFFFFFF),
             (11, all32), (12, all32)]
  | 0x53 => [(2, 0xFFFF)]
  | 0x60 => [(2, 0xF0103), (3, all32), (4, all32), (5, 0x3F3F07), (6, all32), (7, all32), (8, all32), (9, all32), (10, 0x1)]
  | 0x61 => [(2, 0xFFFF), (3, all32), (4, all32), (5, all32), (6, 0xFFFFFF)]
  | 0x62 => [(2, 0xFFFF)]
  | 0x63 => [(2, 0x103), (3, all32), (4, all32), (5, all32), (6, all32)]
  | 0x64 => [(2, 0xFFFF), (3, all32), (4, all32), (5, all32), (6, all32), (7, all32), (8, 0xFFFF)]
  | 0x65 => [(2, 0xFFFF)]
  | 0x70 => [(2, all32), (3, all32), (4, all32)]
  | 0x71 => [(2, 0x30F0F)]
  | 0x72 => [(2, 0xF), (4, all32), (5, all32)]
  | 0x80 => [(2, all32)]
  | 0x81 => [(2, 0xFFFF)]
  | 0x90 => [(2, 0x1), (3, all32), (4, 0xFFFF)]
  | 0x91 => [(2, 0xFF), (3, all32), (4, all32), (5, all32)]
  | 0x92 => [(2, 0x7F1F)]
  | 0x93 => [(2, all32), (3, all32), (4, all32), (5, 0xFF), (6, all32)]
  | 0xA0 => [(2, 0xFFFF), (3, 0xFFFFFF), (4, all32)]
  | 0xA1 => [(2, 0xFFFF), (3, 0xFFFF)]
  | 0xF0 => [(2, 0x3)]
  | _ => []

/-- The bits of word `i` that opcode `op` may set. -/
def allowedBits (op i : Nat) : Nat :=
  if i = 0 then 0x0FFF19FF
  else if i = 1 then all32
  else ((paramBits op).find? (fun e => e.1 == i)).elim 0 (·.2)

/-- R26: a QUEUE_BIND with UNBIND. -/
def Flight.isUnbind (f : Flight) : Bool := f.opcode == 0x06 && bitOf (f.w 2) 8

/-- R9, R45: every reserved bit of the entry is 0. An UNBIND ignores the other fields of its
parameter words W2[21:16] and W3 to W9 (R26). -/
def Flight.reservedOk (f : Flight) : Bool :=
  (List.range 16).all (fun i =>
    if f.isUnbind && 3 ≤ i && i ≤ 9 then true
    else (f.w i) &&& (allowedBits f.opcode i) == f.w i)

/-- The first status whose condition holds, in the order of R38. -/
def firstBad : List (Bool × Status) → Option Status
  | [] => none
  | (c, s) :: t => if c then some s else firstBad t

/-- Where a range lies. -/
inductive Space where
  | hbm | host
  deriving DecidableEq, Repr

/-- R369: a range named by a command lies within its paddock. -/
def Dev.rangeOk (d : Dev) (p : Paddock) (sp : Space) (a n : Nat) : Bool :=
  match sp with
  | .hbm => d.hbmOk p a n
  | .host => inMap p.hostMap a n

/-- Reads `n` bytes of HBM or host memory. -/
def Dev.readSpace (d : Dev) (sp : Space) (a n : Nat) : List Byte :=
  match sp with
  | .hbm => d.hbm.reads a n
  | .host => d.host.reads a n

def aligned (a n : Nat) : Bool := a % n == 0

/-! ### Packets (R246, Tables 12.5, 12.6) -/

/-- Header words H0 to H6. -/
def pktHeader (p : Pkt) : List Byte :=
  wordsLE [(p.kind % 256) <<< 24 + (p.vc % 4) <<< 22 + (p.src % 2048) <<< 11 + p.dst % 2048,
           (p.paddock % 4096) <<< 20 + (p.desc % 4096) <<< 8 + p.format % 256,
           (p.tag % 65536) <<< 16 + p.length % 8192, p.seq % 2 ^ 32, p.step % 2 ^ 24] ++ bytesLE 8 p.offset

/-- R246: CRC-32C over header bytes 0 to 27 and the payload. -/
def pktSum (p : Pkt) : Nat := crc32c (pktHeader p ++ p.payload)
def pktCrcOk (p : Pkt) : Bool := p.crc == pktSum p
def pktSeal (p : Pkt) : Pkt := { p with crc := pktSum p }

/-- KIND values (Table 12.6). -/
def kWrite : Nat := 0x01
def kReadReq : Nat := 0x02
def kReadData : Nat := 0x03
def kPage : Nat := 0x04
def kSignal : Nat := 0x05
def kCollective : Nat := 0x06
def kMailbox : Nat := 0x07
def kResponse : Nat := 0x08

end Sys2Proof.Machine
end

