-- ==== Sys2Proof/Machine/Send.lean ====
section
/-! DEFINITION. Sending on Furrow ports: packets and the queue of those that wait, answers, the trees of a group, and what a lost packet ends (R247 to R257, R262, R266). -/
namespace Sys2Proof.Machine
open Sys2Proof

def Dev.setPort (d : Dev) (p : Nat) (x : Port) : Dev := { d with ports := KV.put d.ports p x }
def Dev.updPort (d : Dev) (p : Nat) (g : Port → Port) : Dev := d.setPort p (g (d.port p))

/-- R246: the next number of the pair (DST, VC) is taken. -/
def Dev.number (d : Dev) (p : Pkt) : Dev × Pkt :=
  let k := p.dst * 4 + p.vc
  let n := KV.getD d.sendSeq k 0
  ({ d with sendSeq := KV.put d.sendSeq k ((n + 1) % 2 ^ 32) },
    pktSeal { p with src := d.selfId, seq := n, length := p.length })

/-- Puts a packet on a port. -/
def Dev.putOut (d : Dev) (port : Nat) (p : Pkt) : Dev :=
  { d with out := { d.out with pkts := d.out.pkts ++ [(port, p)] } }

/-- Notes the port of a remote mailbox's packet (R55). -/
def Dev.noteMailPort (d : Dev) (port : Nat) (p : Pkt) : Dev :=
  if p.kind = kMailbox then { d with txMbox := KV.upd d.txMbox (p.dst * 8 + p.desc % 8) (fun t => { t with port := port }) }
  else d

/-- A packet leaves on a port. One that a response answers is kept until then; one that none answers takes
a number too; a RESPONSE takes none (R246, Table 12.6). -/
def Dev.launch (d : Dev) (port : Nat) (q : Queued) : Dev :=
  match q.mode with
  | .asked =>
    let z := (d.noteMailPort port q.pkt).number q.pkt
    let e : Sent := { port := port, pkt := z.2, flight := q.flight, unit := q.unit, at' := d.now, busy := false, recovered := q.held }
    Dev.putOut { z.1 with sent := z.1.sent ++ [e] } port z.2
  | .quiet => let z := d.number q.pkt; z.1.putOut port z.2
  | .answer => d.putOut port q.pkt

/-- Packets of one pair (DST, VC) go in order on one port (R248); RESPONSE packets go ahead of every channel. -/
def Queued.before (x q : Queued) : Bool :=
  x.mode != .answer && q.mode != .answer && x.pkt.dst == q.pkt.dst && x.pkt.vc == q.pkt.vc

/-- What becomes of a packet that is to be sent: it leaves, it waits behind its pair, for a port in training
(R254) or for the end of a lane swap (R244), or it cannot be sent (R254). -/
def Dev.dispatch (d : Dev) (q : Queued) : Dev × Option Status :=
  match d.hop q.pkt.dst q.pkt.vc q.pkt.paddock with
  | .fail st => (d, some st)
  | .wait => ({ d with outq := d.outq ++ [q] }, none)
  | .go p =>
    if (d.port p).hold.1.isSome then ({ d with outq := d.outq ++ [{ q with held := true }] }, none)
    else if d.outq.any (fun x => x.before q) then ({ d with outq := d.outq ++ [q] }, none)
    else (d.launch p q, none)

/-- Sends a packet that a response answers, on behalf of a command and a core or of none. -/
def Dev.send (d : Dev) (fl : Option Nat) (unit : Nat) (p : Pkt) : Dev × Option Status :=
  d.dispatch { pkt := p, mode := .asked, flight := fl, unit := unit, held := false }

/-- Sends a packet that no response answers. -/
def Dev.sendQuiet (d : Dev) (fl : Option Nat) (p : Pkt) : Dev × Option Status :=
  d.dispatch { pkt := p, mode := .quiet, flight := fl, unit := 0, held := false }

/-- Sends the packets of a list in turn; the first that cannot be sent ends the sending (R254). -/
def Dev.sendAll (d : Dev) (fl : Option Nat) (unit : Nat) : List Pkt → Dev × Option Status
  | [] => (d, none)
  | p :: ps =>
    match d.send fl unit p with
    | (d, none) => d.sendAll fl unit ps
    | (d, some st) => (d, some st)

/-- A packet to a companion switch leaves on the port that leads there (R272) and is not answered. -/
def Dev.transmitQuiet (d : Dev) (port : Nat) (p : Pkt) : Dev :=
  d.launch port { pkt := p, mode := .quiet, flight := none, unit := 0, held := false }

/-- A command or its device has packets under way: sent and not answered, or queued (R256). -/
def Dev.owes (d : Dev) (id : Nat) : Bool :=
  d.sent.any (fun x => x.flight == some id) || d.outq.any (fun x => x.flight == some id)

/-- Table 12.6: a RESPONSE takes no SEQ number and carries no payload. -/
def responseTo (self : Nat) (p : Pkt) (code : Nat) : Pkt :=
  pktSeal { kind := kResponse, vc := p.vc, src := self, dst := p.src, paddock := p.paddock, desc := 0xFFF,
            format := p.kind, tag := p.tag, length := 0, seq := p.seq, step := 0, offset := code, crc := 0, payload := [] }

/-- Answers a packet: to the switch on the port the packet came in on, to a device by its route. An answer
that no port can carry yet waits (R247: every packet that passes is answered). -/
def Dev.respond (d : Dev) (inPort : Nat) (p : Pkt) (code : Nat) : Dev :=
  let r := responseTo d.selfId p code
  let d := if code = 1 then d.updPort inPort (fun x => { x with busySent := x.busySent + 1 }) else d
  if p.src = d.selfId then d.putOut inPort r
  else (d.dispatch { pkt := r, mode := .answer, flight := none, unit := 0, held := false }).1

/-! ### The trees (R266) -/

def trailingZeros : Nat → Nat → Nat
  | 0, _ => 0
  | fuel + 1, p => if p % 2 = 1 then 0 else trailingZeros fuel (p / 2) + 1

/-- R266's procedure, with fuel for its loop. -/
def treeParent (n : Nat) : Nat → Nat → Nat
  | 0, p => p
  | fuel + 1, p =>
    let h := trailingZeros 16 p
    let p' := if bitOf p (h + 1) then p - 2 ^ h else p + 2 ^ h
    if p' ≤ n then p' else treeParent n fuel p'

def treeRoot (n : Nat) : Nat := 2 ^ n.log2
/-- The position of member i in tree A (false) or B (true). -/
def posOf (tree : Bool) (n i : Nat) : Nat := if tree then n - i else i + 1
def memberAt (tree : Bool) (n p : Nat) : Nat := if tree then n - p else p - 1
/-- The parent member of member i; none for the root. -/
def parentOf (tree : Bool) (n i : Nat) : Option Nat :=
  let p := posOf tree n i
  if p = treeRoot n then none else some (memberAt tree n (treeParent n 16 p))
/-- The children of member i, lower position first (left child first). -/
def childrenOf (tree : Bool) (n i : Nat) : List Nat :=
  ((List.range (n + 1)).filter (fun p => p != 0 && p != treeRoot n && treeParent n 16 p == posOf tree n i)).map
    (memberAt tree n)
/-- Positions of the subtree below a node: the node with h trailing zeros covers p - 2^h + 1 to p + 2^h - 1. -/
def subtree (tree : Bool) (n i : Nat) : List Nat :=
  let p := posOf tree n i
  let w := 2 ^ trailingZeros 16 p
  ((rangeFrom (p - w + 1) (2 * w - 1)).filter (· ≤ n)).map (memberAt tree n)

/-- Every tree neighbour of member i, each once. -/
def treeNeighbours (n i : Nat) : List Nat :=
  let f := fun t => (match parentOf t n i with | some p => [p] | none => []) ++ childrenOf t n i
  (f false ++ f true).eraseDups

/-! ### Collective packets (Table 13.1) -/

def phUp : Nat := 0
def phDown : Nat := 1
def phDirect : Nat := 2
def phCounts : Nat := 3
def phFail : Nat := 4
def phSlotReq : Nat := 5
def phSlotReply : Nat := 6
def phSlotData : Nat := 7
def phSlotResult : Nat := 8
def phSlotAbort : Nat := 9

def collOffset (phase : Nat) (tree : Bool) (own off : Nat) : Nat :=
  phase * 2 ^ 60 + b2n tree * 2 ^ 59 + (own % 2048) * 2 ^ 48 + off % 2 ^ 48

/-- A collective packet from this member to device `dst`. -/
def collPkt (g : Group) (c : Coll) (dst phase : Nat) (tree : Bool) (off : Nat) (bs : List Byte) : Pkt :=
  { kind := kCollective, vc := 1, src := 0, dst := dst, paddock := g.paddock, desc := g.handle, format := c.format,
    tag := c.inst, length := bs.length, seq := 0, step := c.step, offset := collOffset phase tree g.own off, crc := 0,
    payload := bs }

/-- Writes HBM bytes; a word written whole is no longer poisoned. -/
def Dev.hbmWrite (d : Dev) (a : Nat) (bs : List Byte) : Dev :=
  { d with hbm := d.hbm.writes a bs,
           poison := d.poison.filter (fun w => !(a ≤ w * 32 && w * 32 + 32 ≤ a + bs.length)) }

/-- A partial result in an element's place: FP32 holds it, a narrower element as Config says (log 52). -/
def partialBytes (fmt v : Nat) : List Byte :=
  if fmt = 0x40 then bytesLE 4 v else bytesLE 2 (Config.partialCode fmt v % 65536)

/-- R262, R267: the partial results that stand in the destination of a member whose collective fails. R268: a
mismatch leaves the destination as it was. -/
def Dev.leavePartials (d : Dev) (c : Coll) (st : Status) : Dev :=
  if st = .groupMismatch then d
  else c.partials.foldl (fun d e => d.hbmWrite (c.dst + e.1 * (if c.format = 0x40 then 4 else 2)) (e.2.flatMap (partialBytes c.format))) d

/-- R262: FAIL to each tree neighbour that a port still UP reaches. -/
def Dev.sendFails (d : Dev) (g : Group) (c : Coll) (st : Status) : Dev :=
  (treeNeighbours g.members.length g.own).foldl (fun d m =>
    let dst := g.members.getD m 0
    match d.hop dst 1 g.paddock with
    | .go _ => (d.send none 0 (collPkt g c dst phFail false 0 (bytesLE 2 st.code))).1
    | _ => d) d

/-- R262: a member command that ends with a status other than ST_OK or ST_EMPTY sends FAIL, once. -/
def Dev.failColl (d : Dev) (id : Nat) (st : Status) : Dev :=
  match KV.find d.colls id with
  | none => d
  | some c =>
    if c.forwarded then d
    else match KV.find d.groups c.group with
      | none => d
      | some g => (Dev.sendFails { d with colls := KV.upd d.colls id (fun c => { c with forwarded := true }) } g c st).leavePartials c st

/-- R39: an uncorrectable read gives the failing address in the counters; a member's command sends FAIL first (R262). -/
def Dev.finishMem (d : Dev) (id addr : Nat) : Dev :=
  (d.failColl id .memUncorrectable).finish id .memUncorrectable (addr % 2 ^ 32) (addr / 2 ^ 32)

/-- The counters a command has reached: a run counts its tiles and its layers at 8 bits (Table 2.16). -/
def Dev.reached (d : Dev) (id : Nat) : Nat × Nat :=
  match KV.find d.runs id with
  | some r => (r.tiles, r.wideLayers)
  | none => match KV.find d.flights id with
    | some f => (f.countA, f.countB)
    | none => (0, 0)

/-- A command ends with a verdict other than success while it runs or moves data. -/
def Dev.failFlight (d : Dev) (id : Nat) (st : Status) : Dev :=
  match KV.find d.flights id with
  | none => d
  | some f =>
    if f.phase = .running ∨ f.phase = .moving then
      let c := d.reached id
      (d.failColl id st).finish id st c.1 c.2
    else d

/-! ### Aborts (R26) -/

/-- R26: an aborted command's entry is written when a slot is free, and discarded otherwise. -/
def Dev.abortOne (d : Dev) (id : Nat) : Dev :=
  match KV.find d.flights id with
  | none => d
  | some f =>
    let c := d.reached id
    let d := if f.phase = .finished then d else d.failColl id .aborted
    let q := d.queue f.queue
    let g := if f.phase = .finished then f else d.lateFlag (d.runFlags id (f.verdict .aborted c.1 c.2))
    if f.phase != .finished && q.cqSpace then d.writeEntry id g
    else (d.setQueue f.queue { q with discarded := q.discarded + 1 }).leave id g

/-- R26: takes every fetched command of queue `q` but `keep` out of flight, discards unfetched entries,
and posts the count of discarded completions. Answers the commands taken out and the completions
discarded. -/
def Dev.teardownQueue (d : Dev) (q keep : Nat) (st : QState) : Dev × Nat × Nat :=
  let ids := d.flightsWhere (fun k f => f.queue == q && k != keep)
  let d := ids.foldl Dev.abortOne d
  let x := d.queue q
  let d := if x.discarded = 0 then d
    else d.postP evCompletionsDiscarded x.paddock (q + x.fn * 256) [x.discarded]
  (d.setQueue q { x with state := st, tail := x.head, waitCq := [], held := false, discarded := 0 }, ids.length, x.discarded)

/-! ### Lost packets (R257) -/

/-- A packet of the remote mailbox m of device v. -/
def isMboxPkt (v m : Nat) (x : Pkt) : Bool := x.kind == kMailbox && x.dst == v && x.desc % 8 == m

/-- R55, R57: ABORTED is set in a remote mailbox's TXCTL and EV_MBOX_ABORTED posted; nothing of the message goes out any more. -/
def Dev.abortTx (d : Dev) (k : Nat) : Dev :=
  match KV.find d.txMbox k with
  | none => d
  | some t =>
    if !t.mbox.full then d
    else
      let code := fld ((t.mbox.data.getD 0 0).toNat) 0 16
      let t' : TxMbox := { t with mbox := { t.mbox with full := false, aborted := true } }
      Dev.postD { d with
        txMbox := KV.put d.txMbox k t', sent := d.sent.filter (fun x => !isMboxPkt (k / 8) (k % 8) x.pkt),
        outq := d.outq.filter (fun x => !isMboxPkt (k / 8) (k % 8) x.pkt) }
        evMboxAborted (2 + (k % 8) * 256 + (k / 8) * 65536) [code]

/-- Sets ABORTED for the remote messages that a peer has accepted and not released when the port they went out
on is lost: the link to the peer has failed (R55). -/
def Dev.loseDelivered (d : Dev) (port : Nat) : Dev :=
  ((KV.keep d.txMbox (fun _ t => t.mbox.full && t.delivered.isSome && t.port == port)).keys).foldl Dev.abortTx d

/-- A packet that cannot be sent ends its command, or its mailbox's message (R55, R254). -/
def Dev.dropped (d : Dev) (x : Queued) (st : Status) : Dev :=
  let d := if x.pkt.kind = kMailbox ∧ x.mode = .asked then d.abortTx (x.pkt.dst * 8 + x.pkt.desc % 8) else d
  match x.flight with
  | some id => d.failFlight id st
  | none => d

/-- A packet whose command is over is sent no more (R254). -/
def Dev.stale (d : Dev) (x : Queued) : Bool := x.flight.elim false (fun id => !KV.has d.flights id)

/-- R257: each queued packet looks for its port again, in order: it leaves, waits on, or fails when none remains. -/
def Dev.drainQueue (d : Dev) : Dev :=
  d.outq.foldl (fun d x =>
    if d.stale x then d
    else match d.dispatch x with
      | (d', none) => d'
      | (d', some st) => d'.dropped x st) { d with outq := [] }

/-- Takes the unanswered packets of a port that `p` picks as lost: their commands end with `st`, and
their mailboxes are aborted. -/
def Dev.lose (d : Dev) (port : Nat) (st : Status) (pick : Sent → Bool) : Dev :=
  let lost := d.sent.filter (fun x => x.port == port && pick x)
  let d := { d with sent := d.sent.filter (fun x => !(x.port == port && pick x)) }
  lost.foldl (fun d x =>
    let d := if x.pkt.kind = kMailbox then d.abortTx (x.pkt.dst * 8 + x.pkt.desc % 8) else d
    match x.flight with
    | some id => d.failFlight id st
    | none => d) d

/-- R257: a port becomes FAILED or DISABLED or starts retraining; packets queued for it move on. -/
def Dev.portLost (d : Dev) (port : Nat) : Dev :=
  ((d.lose port .linkFailed (fun _ => true)).loseDelivered port).drainQueue
/-- R257: a port becomes FENCED; what it still carries is not lost. -/
def Dev.portFenced (d : Dev) (port : Nat) : Dev :=
  (d.lose port .peerFenced (fun x => !(x.pkt.vc == 2 && x.pkt.paddock == 0xFFF))).drainQueue

end Sys2Proof.Machine
end

