-- ==== Sys2Proof/Machine/Mailbox.lean ====
section
/-! DEFINITION. Mailboxes: their words, wakes, requests to firmware and its replies (chapter 3, R50 to R57; R301, R339, R347, R348). -/
namespace Sys2Proof.Machine
open Sys2Proof

/-- The record a mailbox name stands for, as its sender sees it. -/
def Dev.mbox (d : Dev) : Mbox → MboxSt
  | .host n m => KV.getD (d.fn n).mbox m MboxSt.blank
  | .shed s => (d.shed s).mbox
  | .peer v m => ((KV.find d.txMbox (v * 8 + m)).map (·.mbox)).getD MboxSt.blank
  | .remote m => ((KV.find d.rxMbox m).map (·.mbox)).getD MboxSt.blank

def TxMbox.blank : TxMbox := { mbox := MboxSt.blank, goAt := 0, refusedAt := none, delivered := none, port := 16 }
def RxMbox.blank : RxMbox := { mbox := MboxSt.blank, src := 0, seq := 0, port := 0 }

def Dev.setMbox (d : Dev) (mb : Mbox) (x : MboxSt) : Dev :=
  match mb with
  | .host n m => d.setFn n { d.fn n with mbox := KV.put (d.fn n).mbox m x }
  | .shed s => d.setShed s { d.shed s with mbox := x }
  | .peer v m => { d with txMbox := KV.put d.txMbox (v * 8 + m) { KV.getD d.txMbox (v * 8 + m) TxMbox.blank with mbox := x } }
  | .remote m => { d with rxMbox := KV.put d.rxMbox m { KV.getD d.rxMbox m RxMbox.blank with mbox := x } }

/-- R56, Table 3.4: the receiving domain is not running. Whether a host or a peer's firmware sleeps is outside this
E9: the row says so (`far`, log 21). -/
def Dev.asleep (d : Dev) (far : Bool) : Mbox → Bool
  | .host _ m => if m < 4 then d.devPower != .active else far
  | .shed s => if (d.shed s).fwSends then (d.shed s).power != .run else d.devPower != .active
  | .peer _ _ => far
  | .remote _ => d.devPower != .active

/-- R301: the return from STANDBY starts. -/
def Dev.startReturn (d : Dev) : Dev :=
  if d.devPower = .standby ∧ d.boot.standbyWake = none then { d with boot := { d.boot with standbyWake := some d.now } } else d

/-- R56, Table 3.4: a write to a mailbox whose receiver sleeps sets WAKE_PENDING and wakes that domain: a shed from
its state (R297), in STANDBY the whole device, a host by WAKE#. -/
def Dev.wakeFor (d : Dev) (far : Bool) (mb : Mbox) : Dev :=
  if !d.asleep far mb then d
  else
    let d := d.setMbox mb { d.mbox mb with wake := true }
    match mb with
    | .shed s => if (d.shed s).fwSends then d.wakeShed s .run else d
    | .host _ m => if m < 4 then d.startReturn else { d with out := { d.out with wakePin := true } }
    | _ => d

/-- Vector 2 of the function whose host mailbox changed (R61). -/
def Dev.raiseMbox (d : Dev) : Mbox → Dev
  | .host n _ => d.raise n 2
  | _ => d

/-- The receiving side of a remote mailbox has no words a sender writes on this device. -/
def Mbox.sends : Mbox → Bool
  | .remote _ => false
  | _ => true

/-- R52, R57: the sender's write of DATA[i]. Ignored while FULL or ABORTED, and while the receiver is reset. -/
def Dev.mboxWrite (d : Dev) (mb : Mbox) (i : Nat) (v : Word) (far : Bool) : Dev :=
  let x := d.mbox mb
  if x.full || x.aborted || !Mbox.sends mb || 12 ≤ i || d.boot.reset.isSome then d
  else (d.setMbox mb { x with data := x.data.set i v }).wakeFor far mb

def execMboxDataWrite (mb : Mbox) (i : Nat) (v : Word) (far : Bool) (s : State) : Res := onDev s fun d => d.mboxWrite mb i v far

/-- R55: the packet of a remote mailbox goes out, or waits for its port; where no port can carry it the link has failed. -/
def Dev.sendMbox (d : Dev) (v m : Nat) : Dev :=
  let x := d.mbox (.peer v m)
  let p : Pkt := { kind := kMailbox, vc := 2, src := 0, dst := v, paddock := 0xFFF, desc := m, format := 0, tag := 0,
                   length := 48, seq := 0, step := 0, offset := 0, crc := 0,
                   payload := wordsLE ((List.range 12).map (fun i => (x.data.getD i 0).toNat)) }
  match d.send none 0 p with
  | (d, none) => d
  | (d, some _) => d.abortTx (v * 8 + m)

/-- R52, R55, R301: GO sets FULL; a remote message is sent, and firmware's messages raise vector 2. R57 makes the data
words ignore writes while the receiver is in reset and says nothing of GO: that a GO is then taken and sets FULL is this
model's choice (DESIGN CHOICE, log 64). -/
def Dev.mboxGo (d : Dev) (mb : Mbox) (far : Bool) : Dev :=
  let x := d.mbox mb
  if x.full || x.aborted || !Mbox.sends mb then d
  else
    let d := (d.setMbox mb { x with full := true }).wakeFor far mb
    match mb with
    | .host n m => if m < 4 then d.startReturn else d.raise n 2
    | .peer v m =>
      let t := KV.getD d.txMbox (v * 8 + m) TxMbox.blank
      Dev.sendMbox { d with txMbox := KV.put d.txMbox (v * 8 + m) { t with goAt := d.now, refusedAt := none, delivered := none } } v m
    | _ => d

def execMboxGo (mb : Mbox) (far : Bool) (s : State) : Res := onDev s fun d => d.mboxGo mb far

/-- Table 3.2: ABORTED is cleared by writing 1 to bit 2. -/
def execMboxAbortedClear (mb : Mbox) (v : Word) (s : State) : Res := onDev s fun d =>
  if bitOf v.toNat 2 && Mbox.sends mb then d.setMbox mb { d.mbox mb with aborted := false } else d

/-- Table 3.3. -/
def MboxSt.rxctl (x : MboxSt) : Nat := b2n x.wake * 8 + b2n x.full * 2
/-- Table 3.2. -/
def MboxSt.txctl (x : MboxSt) : Nat := b2n x.wake * 8 + b2n x.aborted * 4 + b2n x.full * 2

/-- R53, R54, R55, R61: the receiver's read of RXCTL returns FULL and releases the message: a shed's
roles swap, and a remote sender is told. -/
def Dev.mboxRelease (d : Dev) (mb : Mbox) : Dev :=
  let x := d.mbox mb
  let d := { d with out := { d.out with value := x.rxctl } }
  if !x.full then d
  else match mb with
    | .host n m =>
      let d := d.setMbox mb { x with full := false }
      if m < 4 then d.raise n 2 else d
    | .shed s => (d.setMbox mb { x with full := false }).setShed s
        { (d.setMbox mb { x with full := false }).shed s with fwSends := !(d.shed s).fwSends }
    | .peer _ _ => d
    | .remote m =>
      let r := KV.getD d.rxMbox m RxMbox.blank
      (d.setMbox mb { x with full := false }).respond r.port
        { kind := kMailbox, vc := 2, src := r.src, dst := d.selfId, paddock := 0xFFF, desc := m, format := 0, tag := 0,
          length := 48, seq := r.seq, step := 0, offset := 0, crc := 0, payload := [] } 2

def execMboxRelease (mb : Mbox) (s : State) : Res := onDev s fun d => d.mboxRelease mb

/-- R56: WAKE_PENDING clears when the receiving domain runs: firmware of a resting device runs after
the wake of its control processors, a shed once it is in RUN, a device in STANDBY once it is back. -/
def Dev.mboxAwake (d : Dev) (mb : Mbox) : Dev :=
  let runs := match mb with
    | .host _ m => 4 ≤ m || d.devPower != .standby
    | .shed s => if (d.shed s).fwSends then (d.shed s).power == .run else d.devPower != .standby
    | .peer _ _ => true
    | .remote _ => d.devPower != .standby
  if runs && (d.mbox mb).wake then d.setMbox mb { d.mbox mb with wake := false } else d

def execMboxWakeDone (mb : Mbox) (s : State) : Res := onDev s fun d => d.mboxAwake mb

/-- R54: a message through a shed mailbox by the end whose turn it is. -/
def Dev.shedMessage (d : Dev) (shed : Nat) (fw : Bool) (data : List Word) : Dev :=
  let x := d.shed shed
  if x.fwSends != fw || x.mbox.full || x.mbox.aborted then d
  else
    let words := (data ++ x.mbox.data.drop data.length).take 12
    (d.setMbox (.shed shed) { x.mbox with data := words, full := true }).wakeFor false (.shed shed)

def execShedMboxMessage (shed : Nat) (fromFirmware : Bool) (data : List Word) (s : State) : Res :=
  onDev s fun d => d.shedMessage shed fromFirmware data

/-- R57: the receiver's domain is reset while a message or a wake is pending. Where only a wake was pending, no message
is lost and R57 gives DETAIL0 no value: DATA0[15:0] as it stands is this model's choice (DESIGN CHOICE, log 64). -/
def Dev.mboxLose (d : Dev) (mb : Mbox) (source : Nat) : Dev :=
  let x := d.mbox mb
  if x.full || x.wake then
    ((d.setMbox mb { MboxSt.blank with aborted := true }).raiseMbox mb).postD evMboxAborted source
      [fld (x.data.getD 0 0).toNat 0 16]
  else d

/-! ### Requests to firmware and replies (R51, R339) -/

/-- Word `i` of a request. -/
def reqWord (r : List Word) (i : Nat) : Nat := (r.getD i 0).toNat

/-- The request with message code `code` that waits in host mailbox m of a function, when firmware can
take it: the paired mailbox m + 4 is free for the reply. -/
def Dev.request (d : Dev) (fn m code : Nat) : Option (List Word) :=
  let x := d.mbox (.host fn m)
  let y := d.mbox (.host fn (m + 4))
  if x.full && m < 4 && fld (reqWord x.data 0) 0 16 == code && !y.full && !y.aborted && d.devPower != .standby
    && d.boot.ready then some x.data else none

/-- R51: firmware reads the request, releases it and answers in mailbox m + 4 with the code plus 1. -/
def Dev.reply (d : Dev) (fn m code : Nat) (words : List Nat) : Dev :=
  let d := (d.mboxAwake (.host fn m)).mboxRelease (.host fn m)
  let y := d.mbox (.host fn (m + 4))
  let ws := ((code + 1 + words.length * 65536) :: words).map (BitVec.ofNat 32)
  (d.setMbox (.host fn (m + 4)) { y with data := (ws ++ y.data.drop ws.length).take 12, full := true }).raise fn 2

/-- R301: refusal while a paddock exists or a command is in flight; acceptance otherwise. -/
def Dev.standbyAnswer (d : Dev) : Nat := if !d.pads.isEmpty then 1 else if !d.flights.isEmpty then 2 else 0

/-- STANDBY_REQUEST: host mailbox 0 of the physical function (R301). -/
def Dev.standbyReq (d : Dev) (fn m : Nat) : Dev :=
  if fn ≠ 0 ∨ m ≠ 0 then d
  else match d.request 0 0 0x0300 with
    | none => d
    | some _ =>
      let a := d.standbyAnswer
      let d := d.reply 0 0 0x0300 [a]
      if a = 0 then { d with boot := { d.boot with standbyAt := some d.now } } else d

def execStandbyRequest (fn m : Nat) (s : State) : Res := onDev s fun d => d.standbyReq fn m

/-- The first handle from `h` upward, past 0xFF_FFFF at 1 again, that no queue pair has; `n` handles are tried. -/
def freeQp (t : KV Qp) : Nat → Nat → Nat
  | 0, h => h
  | n + 1, h => if KV.has t h then freeQp t n (if h = 0xFFFFFF then 1 else h + 1) else h
/-- R339: a handle, from 1 to 0xFF_FFFF, that no queue pair has. Which one is open (log 28). -/
def Dev.newQp (d : Dev) : Nat := freeQp d.qps d.qps.length (Config.pick d.free % 0xFFFFFF + 1)

/-- Table 18.3, QP_CREATE: a bad field, no room, or a new queue pair. -/
def Dev.qpCreate (d : Dev) (r : List Word) : Dev × List Nat :=
  let w := reqWord r
  let pad := fld (w 1) 16 12
  if fld (w 1) 4 2 = 3 ∨ !KV.has d.pads pad then (d, [1, 0])
  else if 1024 ≤ d.qps.length then (d, [2, 0])
  else
    let h := d.newQp
    let q : Qp := {
      port := fld (w 1) 0 1, mtu := 1024 * 2 ^ fld (w 1) 4 2, dscp := fld (w 1) 10 6, paddock := pad,
      remoteQpn := fld (w 2) 0 24, localPsn := fld (w 3) 0 24, remotePsn := fld (w 4) 0 24,
      ip := w 5 + w 6 * 2 ^ 32 + w 7 * 2 ^ 64 + w 8 * 2 ^ 96, mac := w 9 + (fld (w 10) 0 16) * 2 ^ 32, rkey := w 11,
      error := false, rate := 800, credit := 0 }
    ({ d with qps := KV.put d.qps h q, free := d.free + 1 }, [0, h])

def execQpCreate (fn m : Nat) (s : State) : Res := onDev s fun d =>
  match d.request fn m 0x0400 with
  | none => d
  | some r => let z := d.qpCreate r; z.1.reply fn m 0x0400 z.2

/-- R341: a handle that a feature of Table 10.4 names. -/
def Dev.qpNamed (d : Dev) (h : Nat) : Bool := h != 0 && (List.range 4).any (fun e => fld (d.feature (0x500 + e)) 0 24 == h)

def Dev.qpDestroy (d : Dev) (r : List Word) : Dev × List Nat :=
  let h := fld (reqWord r 1) 0 24
  if !KV.has d.qps h then (d, [1, 0])
  else if d.qpNamed h then (d, [3, 0])
  else ({ d with qps := KV.del d.qps h }, [0, 0])

def execQpDestroy (fn m : Nat) (s : State) : Res := onDev s fun d =>
  match d.request fn m 0x0402 with
  | none => d
  | some r => let z := d.qpDestroy r; z.1.reply fn m 0x0402 z.2

/-- Table 18.3, PORT_ADDR. -/
def Dev.portAddr (d : Dev) (r : List Word) : Dev × List Nat :=
  let w := reqWord r
  let p := fld (w 1) 0 1
  let x := KV.getD d.eth p EthPort.blank
  let y : EthPort := {
    x with mac := w 2 + (fld (w 3) 0 16) * 2 ^ 32, vlan := fld (w 1) 16 12,
           ip := w 4 + w 5 * 2 ^ 32 + w 6 * 2 ^ 64 + w 7 * 2 ^ 96 }
  ({ d with eth := KV.put d.eth p y }, [0, 0])

def execPortAddr (fn m : Nat) (s : State) : Res := onDev s fun d =>
  match d.request fn m 0x0404 with
  | none => d
  | some r => let z := d.portAddr r; z.1.reply fn m 0x0404 z.2

/-! ### Keys (R347, R348) -/

/-- Whether a Hayloft region of non-zero size names a key slot (Table 11.7). -/
def Dev.slotInUse (d : Dev) (k : Nat) : Bool :=
  (rangeFrom 0x120 32).any (fun i => fld (d.feature i) 0 14 != 0 && fld (d.feature i) 46 6 == k)

/-- Bytes of `n` message words from word `i`. -/
def reqBytes (r : List Word) (i n : Nat) : List Byte := wordsLE ((rangeFrom i n).map (reqWord r))

/-- R347: one part of a wrapped key. Parts accumulate per mailbox and come in order. -/
def Dev.keyLoad (d : Dev) (nv : NonVol) (fn m : Nat) (r : List Word) : Dev × List Nat :=
  let f := d.fn fn
  let slot := fld (reqWord r 1) 0 6
  let part := fld (reqWord r 1) 8 2
  let asm := KV.getD f.keyAsm m (slot, [])
  if part ≠ asm.2.length / 24 ∨ asm.1 ≠ slot then (d.setFn fn { f with keyAsm := KV.del f.keyAsm m }, [1])
  else
    let bs := asm.2 ++ reqBytes r 2 6
    if part < 2 then (d.setFn fn { f with keyAsm := KV.put f.keyAsm m (slot, bs) }, [4])
    else
      let d := d.setFn fn { f with keyAsm := KV.del f.keyAsm m }
      match nv.kek.bind (fun k => Config.keyUnwrap k bs) with
      | none => (d, [1])
      | some key => if d.slotInUse slot then (d, [3]) else ({ d with keys := KV.put d.keys slot key }, [0])

def execKeyLoad (fn m : Nat) (s : State) : Res := onDevR s fun nv _ d =>
  match d.request fn m 0x0500 with
  | none => d
  | some r => let z := d.keyLoad nv fn m r; z.1.reply fn m 0x0500 z.2

def Dev.keyClear (d : Dev) (r : List Word) : Dev × List Nat :=
  let slot := fld (reqWord r 1) 0 6
  if d.slotInUse slot then (d, [3]) else ({ d with keys := KV.del d.keys slot }, [0])

def execKeyClear (fn m : Nat) (s : State) : Res := onDev s fun d =>
  match d.request fn m 0x0502 with
  | none => d
  | some r => let z := d.keyClear r; z.1.reply fn m 0x0502 z.2

/-- R348: part 0 gives the low 128 bits and part 1 the high 128 bits, which complete the key (log 22). -/
def kekLoad (nv : NonVol) (r : List Word) : NonVol × List Nat :=
  let v := BitVec.ofNat 128 (natLE (reqBytes r 2 4))
  if fld (reqWord r 1) 0 1 = 0 then ({ nv with kekLow := some v }, [0])
  else match nv.kekLow with
    | none => (nv, [1])
    | some lo => ({ nv with kek := some (v ++ lo), kekLow := none }, [0])

def execKekLoad (fn m : Nat) (s : State) : Res := onNv s fun nv d =>
  match d.request fn m 0x0504 with
  | none => (nv, d)
  | some r =>
    if bitOf d.boot.policy 2 then let z := kekLoad nv r; (z.1, d.reply fn m 0x0504 z.2)
    else (nv, d.reply fn m 0x0504 [3])

end Sys2Proof.Machine
end

