-- ==== Sys2Proof/Machine/HostRegs.lean ====
section
/-! DEFINITION. BAR0, BAR2, doorbells, the administration queue's registers, event rings and function resets (R21 to R24, R28, R34, R35, R58 to R61, R325, R334, R335). -/
namespace Sys2Proof.Machine
open Sys2Proof

/-- The module answers on PCIe: supplied, out of the trip, reference present, PERST# released. -/
def Dev.barUp (d : Dev) : Bool := !d.supply.off && !d.supply.trip && d.supply.ref && d.supply.perst

/-- Table 17.2, R301: after a failed boot and in STANDBY the queues, maps and windows do not answer. -/
def Dev.fullUp (d : Dev) : Bool := d.barUp && !d.boot.fault && d.devPower != .standby

/-- R300: any such access ends REST. -/
def Dev.endRest (d : Dev) : Dev :=
  { d with devPower := if d.devPower = .rest then .active else d.devPower, restSince := d.now }

/-! ### Reads (Tables 2.2 to 2.11, 3.2 to 3.9, 18.2) -/

/-- Held causes of a queue: device, credit, paddock (R29, R31). -/
def Dev.holds (d : Dev) (q : Nat) : Bool × Bool × Bool :=
  let x := d.queue q
  if x.state = .active ∧ x.unfetched ≠ 0 then
    (4096 ≤ d.flights.length, x.credit ≤ d.inflight q, q != 0 && d.isOut x.paddock)
  else (false, false, false)

/-- Table 2.11. -/
def Dev.sqStat (d : Dev) (q : Nat) : Nat :=
  let x := d.queue q
  let h := d.holds q
  let st := match x.state with
    | .unbound => 0
    | .stopped => 3
    | .active => if h.1 || h.2.1 || h.2.2 then 2 else 1
  st * 2 ^ 62 + b2n h.1 * 2 ^ 61 + b2n h.2.1 * 2 ^ 60 + b2n h.2.2 * 2 ^ 59 + b2n (!x.waitCq.isEmpty) * 2 ^ 58 +
    (d.inflight q % 2048) * 2 ^ 32 + (x.cqTail % 65536) * 65536 + x.head % 65536

def DevPower.code : DevPower → Nat
  | .active => 0 | .rest => 1 | .standby => 2

/-- Table 2.4. -/
def Dev.status (d : Dev) (nv : NonVol) : Nat :=
  b2n d.boot.ready * 2 ^ 31 + b2n d.boot.fault * 2 ^ 30 + b2n (d.adm.enable && (d.queue 0).state == .active) * 2 ^ 29 +
    b2n d.boot.resetActive * 2 ^ 28 + d.devPower.code * 2 ^ 26 + (nv.shedsOut.length % 64) * 1024 + nv.chansOut.length % 1024

/-- R21: whether queue q's registers answer in function fn's BAR0. -/
def Dev.answers (d : Dev) (fn q : Nat) : Bool :=
  let x := d.queue q
  if q = 0 then fn == 0 else if x.state = .unbound then fn == 0 else x.fn == fn

/-- EVT_CAUSE[7:0]. -/
def Dev.mboxFull (d : Dev) (fn : Nat) : Nat :=
  (List.range 8).foldl (fun a m => a + b2n (d.mbox (.host fn m)).full * 2 ^ m) 0

/-- The 32-bit word that a read of BAR0 of a function returns, without the read's side effect. -/
def Dev.barWord (d : Dev) (nv : NonVol) (fn off : Nat) : Nat :=
  let half := fun v => if off % 8 = 0 then v % 2 ^ 32 else v / 2 ^ 32 % 2 ^ 32
  let f := d.fn fn
  if off = 0x0 then (if fn = 0 then 0x0E90EC15 else 0x0E91EC15)
  else if off = 0x4 then 0x00090100
  else if off = 0x8 then d.status nv
  else if off = 0xC then 0x20401000
  else if off < 0x1000 then
    if fn ≠ 0 then 0
    else if off = 0x20 ∨ off = 0x24 then half d.adm.sqBase
    else if off = 0x28 ∨ off = 0x2C then half d.adm.cqBase
    else if off = 0x30 then b2n d.adm.enable * 2 ^ 31 + d.adm.cqLog2 * 65536 + d.adm.sqLog2
    else if off = 0x40 ∨ off = 0x44 then half (b2n d.bar2.enable * 2 ^ 63 + d.bar2.baseGib)
    else 0
  else if 0x1800 ≤ off ∧ off < 0x1A00 then
    let q := (off - 0x1800) / 8
    if d.answers fn q then half (d.sqStat q) else 0
  else if 0x2000 ≤ off ∧ off < 0x2400 then
    let m := (off - 0x2000) / 128
    let o := (off - 0x2000) % 128
    let x := d.mbox (.host fn m)
    if o < 48 then (x.data.getD (o / 4) 0).toNat
    else if o = 48 then x.txctl
    else if o = 52 then (if m < 4 then 0 else x.rxctl)
    else 0
  else if off = 0x3000 then b2n f.ring.overflow * 2 ^ 31 + b2n f.ring.event * 2 ^ 30 + d.mboxFull fn
  else if off = 0x3008 ∨ off = 0x300C then half (f.ring.base + b2n f.ring.enable * 256 + f.ring.log2)
  else if off = 0x3010 then (f.ring.tail % 65536) * 65536 + f.ring.head % 65536
  else if off = 0x3014 then f.ring.lost
  else if 0x10000 ≤ off ∧ off < 0x18000 then
    let v := KV.getD f.msix ((off - 0x10000) / 16) Msix.blank
    let o := off % 16
    if o = 0 then v.addr % 2 ^ 32 else if o = 4 then v.addr / 2 ^ 32 % 2 ^ 32 else if o = 8 then v.data else b2n v.mask
  else if 0x18000 ≤ off ∧ off < 0x18100 then
    (List.range 32).foldl (fun a i => a + b2n (KV.getD f.msix ((off - 0x18000) * 8 + i) Msix.blank).pend * 2 ^ i) 0
  else 0

/-- What a read of BAR0 returns. While the module does not answer, the spec gives a read no value: all ones is this
model's choice (PRESUMED, PCI Express's value for an unanswered read; log 5). -/
def Dev.barRead (d : Dev) (nv : NonVol) (fn off : Nat) : Nat := if d.barUp then d.barWord nv fn off else all32

/-! ### Doorbells (R28, R34) -/

/-- EV_DOORBELL_INVALID (Table 3.11). -/
def Dev.badDoorbell (d : Dev) (fn q kind v idx : Nat) : Dev := d.postD evDoorbellInvalid (q + fn * 256 + kind * 2 ^ 14) [v, idx]

/-- R28: a tail is refused past the ring's end, or when it moves backward over unfetched entries. -/
def Queue.badTail (x : Queue) (t : Nat) : Bool :=
  let n := 2 ^ x.sqLog2
  x.state == .stopped || n ≤ t || (t + n - x.head) % n < (x.tail + n - x.head) % n

/-- R29, R30, R31: a queue that reads HELD takes part in the turns until it has no entry to fetch. -/
def Dev.markHeld (d : Dev) : Dev :=
  { d with queues := KV.mapV d.queues (fun q x =>
      let h := d.holds q
      if h.1 || h.2.1 || h.2.2 then { x with held := true } else x) }

def Dev.sqDoorbell (d : Dev) (fn q v : Nat) : Dev :=
  let x := d.queue q
  if !d.fullUp || !d.answers fn q then d
  else if x.state = .unbound ∨ x.badTail (fld v 0 16) then (d.endRest).badDoorbell fn q 0 v x.head
  else (d.endRest.setQueue q { x with tail := fld v 0 16 }).markHeld

/-- The stores the host made before its doorbell (R27, log 3), then the doorbell. -/
def execSqDbWrite (fn q : Nat) (v : Word) (stores : List (Nat × List Byte)) (s : State) : Res := onDev s fun d =>
  Dev.sqDoorbell { d with host := stores.foldl (fun m w => m.writes w.1 w.2) d.host } fn q v.toNat

/-- R34. -/
def Queue.badHead (x : Queue) (h : Nat) : Bool :=
  let n := 2 ^ x.cqLog2
  n ≤ h || (x.cqTail + n - x.cqHead) % n < (h + n - x.cqHead) % n

/-- R22: queue 0 drains: its ENABLE is cleared, and commands fetched before still run to completion into the ring,
so its head still moves (DEDUCED; log 36). -/
def Dev.drains (d : Dev) (q : Nat) : Bool := q == 0 && d.inflight 0 != 0

def Dev.cqDoorbell (d : Dev) (fn q v : Nat) : Dev :=
  let x := d.queue q
  if !d.fullUp || !d.answers fn q then d
  else if (x.state = .unbound ∧ !d.drains q) ∨ x.badHead (fld v 0 16) then (d.endRest).badDoorbell fn q 1 v x.cqTail
  else (d.endRest.setQueue q { x with cqHead := fld v 0 16 }).flushCq q x.waitCq

def execCqHdWrite (fn q : Nat) (v : Word) (s : State) : Res := onDev s fun d => d.cqDoorbell fn q v.toNat

/-! ### The administration queue (R22) -/

/-- R22: an enable takes effect: the rings start at slot 0, credit 64, default timeout 10,000 ms, vector 0. Completions
that waited for a slot of the old ring are written to the new one (R33). -/
def Dev.admqStart (d : Dev) : Dev :=
  let w := (d.queue 0).waitCq
  let q : Queue := { Queue.blank with
    sqBase := d.adm.sqBase, cqBase := d.adm.cqBase, sqLog2 := d.adm.sqLog2, cqLog2 := d.adm.cqLog2, credit := 64,
    timeoutMs := 10000, state := .active, waitCq := w }
  ({ d with adm := { d.adm with enable := true, held := false } }.setQueue 0 q).flushCq 0 w

def logOk (n : Nat) : Bool := 4 ≤ n && n ≤ 16

/-- Write of ADMQ_CFG with ENABLE = 1. -/
def Dev.admqEnable (d : Dev) (v : Nat) : Dev :=
  let sq := fld v 0 5
  let cq := fld v 16 5
  if !d.barUp || d.devPower == .standby || d.adm.enable || !logOk sq || !logOk cq then d
  else
    let d := { d.endRest with adm := { d.adm with sqLog2 := sq, cqLog2 := cq, held := true } }
    if d.boot.ready then d.admqStart else d

def execAdmqEnable (v : Word) (s : State) : Res := onDev s fun d => d.admqEnable v.toNat

/-- Write of ADMQ_CFG with ENABLE = 0: clears ENABLE, or cancels a held enable and sets the sizes. -/
def Dev.admqDisable (d : Dev) (v : Nat) : Dev :=
  if !d.barUp || d.devPower == .standby then d
  else if d.adm.enable then
    { d.endRest with adm := { d.adm with enable := false } }.setQueue 0 { d.queue 0 with state := .unbound }
  else { d.endRest with adm := { d.adm with sqLog2 := fld v 0 5, cqLog2 := fld v 16 5, held := false } }

def execAdmqDisable (v : Word) (s : State) : Res := onDev s fun d => d.admqDisable v.toNat

/-! ### Event rings (R58, R60, R10) -/

def Dev.updRing (d : Dev) (fn : Nat) (g : Ring → Ring) : Dev := d.setFn fn { d.fn fn with ring := g (d.fn fn).ring }
def ringBaseOf (v : Nat) : Nat := v / 4096 * 4096

def Dev.evtEnable (d : Dev) (fn v : Nat) : Dev :=
  if !d.barUp || (d.fn fn).ring.enable || !logOk (fld v 0 5) then d
  else (d.endRest.updRing fn (fun r => { r with
    base := ringBaseOf v, log2 := fld v 0 5, enable := true, head := 0, tail := 0, phase := true })).drainRing fn

def execEvtRingEnable (fn : Nat) (v : DWord) (s : State) : Res := onDev s fun d => d.evtEnable fn v.toNat

def Dev.evtDisable (d : Dev) (fn v : Nat) : Dev :=
  if !d.barUp then d
  else if (d.fn fn).ring.enable then d.endRest.updRing fn (fun r => { r with enable := false })
  else d.endRest.updRing fn (fun r => { r with base := ringBaseOf v, log2 := fld v 0 5 })

def execEvtRingDisable (fn : Nat) (v : DWord) (s : State) : Res := onDev s fun d => d.evtDisable fn v.toNat

/-- R58: a head past the ring's end or past records not yet written. -/
def Ring.badHead (r : Ring) (h : Nat) : Bool :=
  r.size ≤ h || (r.tail + r.size - r.head) % r.size < (h + r.size - r.head) % r.size

def Dev.evtHead (d : Dev) (fn v : Nat) : Dev :=
  let r := (d.fn fn).ring
  if !d.barUp || !r.enable then d
  else if r.badHead (fld v 0 16) then d.endRest.badDoorbell fn 0 2 v r.tail
  else (d.endRest.updRing fn (fun r => { r with head := fld v 0 16 })).drainRing fn

def execEvtHeadWrite (fn : Nat) (v : Word) (s : State) : Res := onDev s fun d => d.evtHead fn v.toNat

/-- Table 3.6: OVERFLOW and EVENT are W1C. -/
def execEvtCauseClear (fn : Nat) (v : Word) (s : State) : Res := onDev s fun d =>
  if !d.barUp then d
  else d.endRest.updRing fn (fun r => { r with
    overflow := r.overflow && !bitOf v.toNat 31, event := r.event && !bitOf v.toNat 30 })

/-- Table 3.9: LOST is RC. -/
def execEvtLostRead (fn : Nat) (s : State) : Res := onDev s fun d =>
  if !d.barUp then d
  else Dev.updRing { d with out := { d.out with value := (d.fn fn).ring.lost } } fn (fun r => { r with lost := 0 })

/-- R35: the coalescing time runs from the first completion not yet signalled. -/
def execInterruptCoalesceTimeout (fn vec dt : Nat) (s : State) : Res := onDev s fun d =>
  let d := d.advance dt
  match KV.find (d.fn fn).coal vec with
  | none => d
  | some c =>
    if c.1 ≠ 0 ∧ d.elapsed c.2 (d.feature 0x0002 * 1000) then
      (d.setFn fn { d.fn fn with coal := KV.del (d.fn fn).coal vec }).raise fn vec
    else d

/-! ### BAR2 (R335) -/

/-- Write of BAR2_WIN: a 1 in ENABLE is ignored unless the boot policy sets DEBUG_APERTURE; a base above
715 is ignored (log 23). -/
def Dev.bar2Win (d : Dev) (fn v : Nat) : Dev :=
  if !d.barUp || d.devPower == .standby || fn != 0 then d
  else
    let en := if bitOf v 63 then (if bitOf d.boot.policy 0 then true else d.bar2.enable) else false
    let b := fld v 0 10
    { d.endRest with bar2 := { enable := en, baseGib := if b ≤ 715 then b else d.bar2.baseGib } }

def execBar2WinWrite (fn : Nat) (v : DWord) (s : State) : Res := onDev s fun d => d.bar2Win fn v.toNat

def bar2Size : Nat := 64 * 2 ^ 30
/-- The HBM address of an offset of the window. -/
def Dev.bar2Addr (d : Dev) (off : Nat) : Nat := d.bar2.baseGib * 2 ^ 30 + off
/-- One byte through the window; zero outside it. -/
def Dev.bar2Byte (d : Dev) (nv : NonVol) (off : Nat) : Byte :=
  if d.bar2.enable && off < bar2Size && !nv.hole (d.bar2Addr off) then d.hbm.read (d.bar2Addr off) else 0

def execBar2Read (off len : Nat) (bad : Bool) (s : State) : Res := onDevR s fun nv _ d =>
  if !d.fullUp then d
  else
    let d := d.endRest
    if bad && d.bar2.enable then { d with out := { d.out with data := List.replicate len 0xFF }, aer := d.aer + 1 }
    else { d with out := { d.out with data := (rangeFrom off len).map (d.bar2Byte nv) } }

/-- Writes outside the window, in a hole or while it is closed are ignored. -/
def Dev.bar2Store (d : Dev) (nv : NonVol) (off : Nat) : List Byte → Dev
  | [] => d
  | b :: bs =>
    let d := if d.bar2.enable && off < bar2Size && !nv.hole (d.bar2Addr off) then { d with hbm := d.hbm.write (d.bar2Addr off) b } else d
    d.bar2Store nv (off + 1) bs

def execBar2Write (off : Nat) (data : List Byte) (bad : Bool) (s : State) : Res := onDevR s fun nv _ d =>
  if !d.fullUp then d
  else
    let d := d.endRest
    if bad && d.bar2.enable then { d with out := { d.out with data := List.replicate data.length 0xFF }, aer := d.aer + 1 }
    else d.bar2Store nv off data

/-! ### Other registers -/

/-- One 32-bit word written to BAR0 outside the registers that have rows of their own. -/
def Dev.regWord (d : Dev) (fn off v : Nat) : Dev :=
  let half := fun old => putFld old (if off % 8 = 0 then 0 else 32) 32 v / 4096 * 4096
  if off = 0x20 ∨ off = 0x24 then
    if fn = 0 ∧ !d.adm.enable then { d with adm := { d.adm with sqBase := half d.adm.sqBase } } else d
  else if off = 0x28 ∨ off = 0x2C then
    if fn = 0 ∧ !d.adm.enable then { d with adm := { d.adm with cqBase := half d.adm.cqBase } } else d
  else if off = 0x300C then
    if !(d.fn fn).ring.enable then d.updRing fn (fun r => { r with base := half r.base }) else d
  else if 0x10000 ≤ off ∧ off < 0x18000 then
    let i := (off - 0x10000) / 16
    let f := d.fn fn
    let x := KV.getD f.msix i Msix.blank
    let o := off % 16
    if o = 0 then d.setFn fn { f with msix := KV.put f.msix i { x with addr := putFld x.addr 0 32 v } }
    else if o = 4 then d.setFn fn { f with msix := KV.put f.msix i { x with addr := putFld x.addr 32 32 v } }
    else if o = 8 then d.setFn fn { f with msix := KV.put f.msix i { x with data := v } }
    else
      let m := bitOf v 0
      let d := d.setFn fn { f with msix := KV.put f.msix i { x with mask := m, pend := x.pend && m } }
      if x.pend && !m then d.raise fn i else d
  else d

/-- A write of 4 or 8 bytes. Registers with a row of their own are not written here (log 2); a write to a host
mailbox's words or controls does not end REST (R51, R300). -/
def execRegisterWrite (fn off width : Nat) (v : DWord) (s : State) : Res := onDev s fun d =>
  if !d.barUp then d
  else if d.devPower = .standby ∧ !(0x3000 ≤ off ∧ off < 0x4000) then d
  else
    let d := if 0x2000 ≤ off ∧ off < 0x2400 then d else d.endRest
    let d := d.regWord fn off (v.toNat % 2 ^ 32)
    if width = 8 then d.regWord fn (off + 4) (v.toNat / 2 ^ 32) else d

/-! ### Function resets (R325, R334) -/

/-- R57: the host end of a function's mailboxes is reset: messages to the host are lost. -/
def Dev.hostEndReset (d : Dev) (fn : Nat) : Dev :=
  [4, 5, 6, 7].foldl (fun d m => d.mboxLose (.host fn m) (m * 256 + fn * 65536)) d

/-- Posts EV_SETTINGS_DEFAULTED and then EV_RESET_DONE (R328). -/
def Dev.postReset (d : Dev) (kind bitmap count cause fn : Nat) : Dev :=
  (d.postD evSettingsDefaulted kind [bitmap, fn]).postD evResetDone kind [count, cause, fn]

/-- R325: unbinds the function's queues, returns its BAR0 registers to their reset values, discards its
held records and resets the host end of its mailboxes. -/
def Dev.functionReset (d : Dev) (fn : Nat) : Dev :=
  let d := d.updRing fn (fun r => { r with held := [], lostSince := 0, enable := false })
  let qs := (KV.keep d.queues (fun q x => q != 0 && x.fn == fn && x.state != .unbound)).keys
  let z := qs.foldl (fun z q =>
    let t := z.1.teardownQueue q 0xFFFFFFFFFFFFFFFF .unbound
    ({ t.1 with queues := KV.put t.1.queues q Queue.blank }, z.2 + t.2.1)) (d, 0)
  let d := z.1.hostEndReset fn
  let f := d.fn fn
  let d := d.setFn fn { Fn.blank with mbox := f.mbox, keyAsm := f.keyAsm }
  d.postReset 5 0x0003 z.2 0 fn

/-- R334: a decrease removes functions, each by a function reset. -/
def execNumvfsWrite (n : Nat) (s : State) : Res := onDev s fun d =>
  if 63 < n ∨ !d.barUp then d
  else
    let gone := (rangeFrom 1 63).filter (fun k => n < k && k ≤ d.numVfs)
    gone.foldl Dev.functionReset { d with numVfs := n }

/-- R325: a function-level reset of a virtual function that is enabled. -/
def execVfFlr (fn : Nat) (s : State) : Res := onDev s fun d =>
  if fn = 0 ∨ d.numVfs < fn then d else d.functionReset fn

end Sys2Proof.Machine
end

