-- ==== Sys2Proof/Machine/Power.lean ====
section
/-! DEFINITION. Clocks, operating points, shed power states, REST, STANDBY, the power ceiling, thermal rules and supply warnings (chapter 15, R234, R301, R329 to R331, R359, R361). -/
namespace Sys2Proof.Machine
open Sys2Proof

/-! ### Operating points (R294, R295, Table 15.2) -/

def Dev.die (d : Dev) (n : Nat) : Die := KV.getD d.dies n Die.blank
def Dev.setDie (d : Dev) (n : Nat) (x : Die) : Dev := { d with dies := KV.put d.dies n x }
/-- Core clock of a point in MHz. -/
def pointMhz (p : Nat) : Nat := if p ≤ 7 then 1400 - 100 * p else 350
/-- The lowest of the three clocks that the limiters name. -/
def Die.point (x : Die) : Nat := max x.tempPt (max x.capPt x.supPt)
/-- The point that the temperature rule and the ceiling name together. -/
def Die.limit (x : Die) : Nat := max x.tempPt x.capPt

/-- R234: the field die that serves an HBM stack; each die has six. -/
def dieOfStack (s : Nat) : Nat := s / 6
/-- Table 0.2: eight sheds to a field die. -/
def dieOfShed (s : Nat) : Nat := s / 8
def shedsOfDie (n : Nat) : List Nat := rangeFrom (8 * n) 8

/-- R295: EV_THROTTLE for a change of the clock in force that a limiter made; `held` is DETAIL2. -/
def Dev.postThrottle (d : Dev) (die before cause : Nat) (held : Bool) : Dev :=
  let x := d.die die
  if x.point = before then d
  else
    let c := if x.capPt < x.tempPt then 0 else if x.tempPt < x.capPt then 1 else cause
    d.postD evThrottle die [pointMhz x.point, c, b2n held]

/-- R295: temperature or the ceiling lowers some die. -/
def Dev.throttled (d : Dev) : Bool := d.dies.any (fun e => e.2.limit != 0)
/-- R295: flags of the commands that run now. -/
def Dev.flagClocks (d : Dev) : Dev :=
  let d := if d.throttled then d.flagRunning fThrottled (fun _ _ => true) else d
  if d.supply.warn then d.flagRunning fVdroop (fun _ _ => true) else d

/-! ### Issue pauses (R234, R330) -/

def Dev.stack (d : Dev) (s : Nat) : Stack := KV.getD d.stackTab s Stack.blank
/-- A shed issues nothing during a supply warning or while a stack of its die is at its limit. -/
def Dev.issuePaused (d : Dev) (shed : Nat) : Bool :=
  d.supply.warn || (rangeFrom (6 * dieOfShed shed) 6).any (fun s => (d.stack s).paused)

/-! ### PLLs (R291, Table 15.1) -/

/-- A PLL that no state of Table 15.1 stops now. -/
def Dev.pllWanted (d : Dev) : Pll → Bool
  | .die n => d.devPower == .active && (shedsOfDie n).any (fun s =>
      let x := d.shed s
      x.fallowRun || x.wakeTo.isSome || (x.power != .save && x.power != .off))
  | .yard => d.devPower != .standby
  | .network _ => d.devPower == .active
  | .hbm _ => d.devPower == .active
  | .hayloft => d.devPower == .active
  | .media => d.devPower == .active && !d.streams.isEmpty
  | .serdes n => n == 18 || (d.devPower != .standby && (16 ≤ n || (d.port n).state != .disabled))

/-- Stops the PLLs that a state of Table 15.1 stops. -/
def Dev.dropPlls (d : Dev) : Dev := { d with pll := d.pll.filter d.pllWanted }

/-- Every PLL. -/
def allPlls : List Pll :=
  (List.range 4).map .die ++ [.yard] ++ (List.range 5).map .network ++ (List.range 24).map .hbm ++ [.hayloft, .media] ++
    (List.range 19).map .serdes

/-- R291: a started PLL locks. -/
def execPllLock (pll : Pll) (s : State) : Res := onDev s fun d =>
  if d.supply.ref && !d.supply.off && !d.supply.trip && d.pllWanted pll && !d.pll.contains pll then { d with pll := d.pll ++ [pll] } else d

/-! ### Shed power states (R296 to R298) -/

/-- R285, R287: the shed is being switched. -/
def Dev.switching (d : Dev) (shed : Nat) : Bool := d.switches.any (fun e => bitOf e.1 shed)
/-- Runs and tests that use a shed. -/
def Dev.busyShed (d : Dev) (shed : Nat) : Bool :=
  d.runs.any (fun e => !e.2.started && !e.2.suspended && (KV.find d.flights e.1).elim false (fun f => f.phase == .running) &&
    (d.pad e.2.paddock).elim false (fun p => bitOf p.shedMask shed)) ||
    d.runs.any (fun e => !e.2.suspended && e.2.sheds.vals.any (fun x => x.phys == shed)) ||
    d.flights.any (fun e => e.2.phase == .running && e.2.opcode == 0x91 && bitOf (e.2.w 3) shed)
/-- R296: idle. -/
def Dev.idle (d : Dev) (shed : Nat) : Bool := !d.busyShed shed && !(d.shed shed).mbox.full && !d.switching shed

/-- Whether a shed may go one state deeper: idle long enough and its target that deep. -/
def Dev.mayDeepen (d : Dev) (nv : NonVol) (shed ns : Nat) (lvl : ShedPower) : Bool :=
  let x := d.shed shed
  d.idle shed && x.wakeTo == none && !x.fallowRun && d.elapsed x.idleSince ns && lvl.depth ≤ (d.target nv shed).depth && x.power.depth < lvl.depth

def execShedEnterGate (shed dt : Nat) (s : State) : Res := onDevR s fun nv _ d =>
  let d := d.advance dt
  if d.mayDeepen nv shed 2000 .gate then d.setShed shed { d.shed shed with power := .gate } else d

def execShedEnterHold (shed dt : Nat) (s : State) : Res := onDevR s fun nv _ d =>
  let d := d.advance dt
  if d.mayDeepen nv shed 100000 .hold then d.setShed shed { d.shed shed with power := .hold } else d

/-- R297: the copy to the save area starts; it needs an area (R298). -/
def execShedSaveStart (shed dt : Nat) (s : State) : Res := onDevR s fun nv _ d =>
  let d := d.advance dt
  if d.mayDeepen nv shed 2000000 .save && d.hasSaveArea && (d.shed shed).power == .hold && (d.shed shed).saving == none then
    d.setShed shed { d.shed shed with saving := some d.now }
  else d

/-- R297: SAVE is entered once the copy has finished. Crib and loft then stand in the save area (R298). -/
def execShedSaveDone (shed : Nat) (s : State) : Res := onDevR s fun nv _ d =>
  if (d.shed shed).saving.isSome then
    let d := d.saveShed nv shed
    Dev.dropPlls { d.setShed shed { d.shed shed with power := .save, saving := none } with restSince := d.now }
  else d

/-- R296, R298: OFF loses the contents. -/
def execShedEnterOff (shed dt : Nat) (s : State) : Res := onDevR s fun nv _ d =>
  let d := d.advance dt
  if d.mayDeepen nv shed 20000000 .off then
    Dev.dropPlls { (d.setShed shed { d.shed shed with power := .off, saving := none }).clearSheds [shed] with restSince := d.now }
  else d

/-- R297, R56: a woken shed runs; its die's PLL has locked. From SAVE it takes its contents back, and from OFF it reads zero (R298). -/
def Dev.shedAwake (d : Dev) (nv : NonVol) (shed : Nat) : Dev :=
  let x := d.shed shed
  match x.wakeTo with
  | none => d
  | some t =>
    if d.pll.contains (.die (dieOfShed shed)) then
      let d := d.unsaveShed nv shed
      d.setShed shed { x with power := t, wakeTo := none, saved := false, idleSince := d.now,
                              mbox := if t = .run then { x.mbox with wake := false } else x.mbox }
    else d

def execShedWakeDone (shed : Nat) (s : State) : Res := onDevR s fun nv _ d => d.shedAwake nv shed

/-! ### LATENCY_SET, POWER_CAP (R299, R302) -/

def execLatencySet (f : Nat) (s : State) : Res := onDevR s fun nv _ d =>
  d.onFlight f 0x80 fun x =>
    match d.pad x.paddock with
    | none => d
    | some p =>
      let d := { d with pads := KV.put d.pads x.paddock { p with tolNs := x.w 2 * 1000 } }
      let t := powerOfTol d.hasSaveArea (d.setTol p.shedMask)
      (d.finish f .ok t.depth 0).fitTargets nv (shedsOf p.shedMask)

/-- R302: the ceiling in force. -/
def capOf (w : Nat) : Nat := if w = 0 then 0 else if w < 2500 then 2500 else if 5200 < w then 5200 else w

/-- Without a ceiling the limiter names no point. -/
def Dev.liftCap (d : Dev) : Dev :=
  [0, 1, 2, 3].foldl (fun d n =>
    let x := d.die n
    if x.capPt = 0 then d else (d.setDie n { x with capPt := 0 }).postThrottle n x.point 1 false) d

def execPowerCap (f : Nat) (s : State) : Res := onDev s fun d =>
  d.onFlight f 0x81 fun x =>
    let c := capOf (fld (x.w 2) 0 16)
    let d := Dev.finish { d with cap := c, capSince := d.now } f .ok c 0
    if c = 0 then d.liftCap else d

/-- R302: dies that serve a RESERVED shed. -/
def Dev.dieReserved (d : Dev) (n : Nat) : Bool :=
  d.pads.vals.any (fun p => p.cls == .reserved && (shedsOfDie n).any (bitOf p.shedMask))

/-- The die to lower next: a die without RESERVED sheds at the highest point, lowest number first; one
with RESERVED sheds only when every other is at P7. -/
def Dev.capVictim (d : Dev) : Option Nat :=
  let low := fun (ds : List Nat) => ds.foldl (fun a n =>
    match a with
    | none => some n
    | some m => if (d.die n).capPt < (d.die m).capPt then some n else some m) (none : Option Nat)
  let open7 := [0, 1, 2, 3].filter (fun n => (d.die n).capPt < 7)
  let plain := open7.filter (fun n => !d.dieReserved n)
  if plain.isEmpty then low open7 else low plain

/-- The reverse order: dies with RESERVED sheds first, then the lowest point, the highest number. -/
def Dev.capRaise (d : Dev) : Option Nat :=
  let high := fun (ds : List Nat) => ds.foldl (fun a n =>
    match a with
    | none => some n
    | some m => if (d.die n).capPt < (d.die m).capPt then some m else some n) (none : Option Nat)
  let down := [0, 1, 2, 3].filter (fun n => 0 < (d.die n).capPt)
  let res := down.filter d.dieReserved
  if res.isEmpty then high down else high res

/-- The mean of the last 10 ms as measured; capSince is when it was last less than 5 % below the ceiling (R302). -/
def Dev.setPower (d : Dev) (mean : Nat) : Dev :=
  { d with i3c := { d.i3c with power := mean % 65536 }, capSince := if d.cap * 95 < mean * 100 then d.now else d.capSince }

/-- R302: above the ceiling, one die by one point every 1 ms, down to P7. -/
def execPowerCapLower (mean dt : Nat) (s : State) : Res := onDev s fun d =>
  let d := (d.advance dt).setPower mean
  if d.cap ≠ 0 ∧ d.cap < mean ∧ d.elapsed d.capLast 1000000 then
    match d.capVictim with
    | none => d
    | some n =>
      let x := d.die n
      let d := { d.setDie n { x with capPt := x.capPt + 1 } with capLast := d.now }
      (d.postThrottle n x.point 1 ([0, 1, 2, 3].all (fun k => (d.die k).capPt == 7))).flagClocks
  else d

/-- R302: 5 % or more below the ceiling for 10 ms, one die by one point, then every 10 ms. -/
def execPowerCapRaise (mean dt : Nat) (s : State) : Res := onDev s fun d =>
  let d := (d.advance dt).setPower mean
  if d.cap ≠ 0 ∧ mean * 100 ≤ d.cap * 95 ∧ d.elapsed d.capSince 10000000 ∧ d.elapsed d.capLast 10000000 then
    match d.capRaise with
    | none => d
    | some n =>
      let x := d.die n
      ({ d.setDie n { x with capPt := x.capPt - 1 } with capLast := d.now }).postThrottle n x.point 1 false
  else d

/-! ### HBM temperature (R232, R234) -/

/-- A stack's temperature as reported; the die notes since when all its stacks are below 97 degrees C (R234). -/
def Dev.setTemp (d : Dev) (s temp : Nat) : Dev :=
  let d := { d with stackTab := KV.put d.stackTab s { d.stack s with temp := temp } }
  let n := dieOfStack s
  let x := d.die n
  let cool := (rangeFrom (6 * n) 6).all (fun k => (d.stack k).temp < 970)
  d.setDie n { x with coolSince := if cool then some (x.coolSince.getD d.now) else none }

/-- R232: refresh doubles above 95 degrees C and returns to normal below 93. -/
def execHbmRefreshChange (stack temp : Nat) (s : State) : Res := onDev s fun d =>
  let d := d.setTemp stack temp
  let x := d.stack stack
  if 950 < temp then { d with stackTab := KV.put d.stackTab stack { x with double := true } }
  else if temp < 930 then { d with stackTab := KV.put d.stackTab stack { x with double := false } }
  else d

/-- R234: above 100 degrees C, 100 MHz every 1 ms, down to 700 MHz. -/
def execHbmThrottleStep (stack temp dt : Nat) (s : State) : Res := onDev s fun d =>
  let d := (d.advance dt).setTemp stack temp
  let n := dieOfStack stack
  let x := d.die n
  if 1000 < temp ∧ x.tempPt < 7 ∧ (x.tempPt = 0 ∨ d.elapsed x.tempSince 1000000) then
    ((d.setDie n { x with tempPt := x.tempPt + 1, tempSince := d.now }).postThrottle n x.point 0 false).flagClocks
  else d

/-- R234: once every stack of the die has been below 97 degrees C for 10 ms, the die regains 100 MHz every 10 ms. -/
def execHbmThrottleRecover (stack temp dt : Nat) (s : State) : Res := onDev s fun d =>
  let d := (d.advance dt).setTemp stack temp
  let n := dieOfStack stack
  let x := d.die n
  if x.coolSince.elim false (fun t => d.elapsed t 10000000) ∧ 0 < x.tempPt ∧ d.elapsed x.tempSince 10000000 then
    (d.setDie n { x with tempPt := x.tempPt - 1, tempSince := d.now }).postThrottle n x.point 0 false
  else d

/-- R234: at 105 degrees C and 700 MHz the stack pauses issue to its die's sheds. -/
def execHbmIssuePause (stack temp : Nat) (s : State) : Res := onDev s fun d =>
  let d := d.setTemp stack temp
  if 1050 ≤ temp ∧ 7 ≤ (d.die (dieOfStack stack)).point then
    { d with stackTab := KV.put d.stackTab stack { d.stack stack with paused := true } }
  else d

def execHbmIssueResume (stack temp : Nat) (s : State) : Res := onDev s fun d =>
  let d := d.setTemp stack temp
  if temp < 1000 then { d with stackTab := KV.put d.stackTab stack { d.stack stack with paused := false } } else d

/-! ### Supply warnings (R329 to R331) -/

/-- R309: slices in progress yield without a verdict. -/
def CoreRec.giveWay (c : CoreRec) (now : Nat) : CoreRec :=
  match c.running with
  | none => c
  | some (_, t) => { c with running := none, stolen := (t, now - t) :: c.stolen }
def Dev.yieldAll (d : Dev) (p : Nat → Bool) : Dev :=
  { d with cores := KV.mapV d.cores (fun k c => if p k then c.giveWay d.now else c) }

/-- R330: every die at P8, issue, media engines and slices paused, F_VDROOP on what runs. -/
def Dev.enterWarning (d : Dev) : Dev :=
  if d.supply.warn then { d with supply := { d.supply with lowest := min d.supply.lowest d.supply.mv48 } }
  else
    let d := { d with supply := { d.supply with warn := true, lowest := d.supply.mv48 } }
    let d := [0, 1, 2, 3].foldl (fun d n => d.setDie n { d.die n with supPt := 8, upSince := d.now }) d
    (d.yieldAll (fun _ => true)).flagClocks

def execSupplyWarningEnter (mv : Nat) (s : State) : Res := onDev s fun d =>
  if mv < 42000 ∧ d.devPower ≠ .standby then Dev.enterWarning { d with supply := { d.supply with mv48 := mv } } else d

def execPwrWarnAssert (s : State) : Res := onDev s fun d =>
  Dev.enterWarning { d with supply := { d.supply with warnPin := true } }

def execPwrWarnDeassert (s : State) : Res := onDev s fun d => { d with supply := { d.supply with warnPin := false } }

/-- R331: 100 µs above 44.0 V with PWR_WARN# deasserted: P7, and EV_VDROOP with what was measured. -/
def execSupplyWarningExit (mv low below dt : Nat) (s : State) : Res := onDev s fun d =>
  let d := d.advance dt
  if d.supply.warn ∧ !d.supply.warnPin ∧ 44000 < mv ∧ 100000 ≤ dt then
    let d := { d with supply := { d.supply with warn := false, mv48 := mv, lowest := low } }
    let d := [0, 1, 2, 3].foldl (fun d n => d.setDie n { d.die n with supPt := 7, upSince := d.now }) d
    d.postD evVdroop 0 [low, below]
  else d

/-- R331: one point up, to the point that the other limiters allow. -/
def execSupplyRecoveryStep (die dt : Nat) (s : State) : Res := onDev s fun d =>
  let d := d.advance dt
  let x := d.die die
  if !d.supply.warn ∧ 0 < x.supPt then
    d.setDie die { x with supPt := if x.supPt - 1 ≤ x.limit then 0 else x.supPt - 1, upSince := d.now }
  else d

/-! ### REST and STANDBY (R300, R301) -/

/-- R300's conditions, as they stand now. -/
def Dev.mayRest (d : Dev) (hay : Hay) : Bool :=
  bitOf (d.feature 0x0301) 0 && (List.range 32).all (fun s => (d.shed s).power == .save || (d.shed s).power == .off) &&
    d.pads.vals.all (fun p => 15000000 ≤ p.tolNs) && d.flights.isEmpty &&
    d.queues.vals.all (fun q => q.state != .active || q.unfetched == 0) && d.engines.isEmpty &&
    hay.stackTab.vals.all (fun x => x.relocating == 0) && d.devPower == .active && d.boot.ready

/-- R300: the conditions have held for 50 ms since the last event that could break one. -/
def execDeviceRestEnter (dt : Nat) (s : State) : Res := onDevR s fun _ hay d =>
  let d := d.advance dt
  if d.mayRest hay && d.elapsed d.restSince 50000000 then Dev.dropPlls { d with devPower := .rest } else d

/-- R275: an exit from LOCKED posts EV_GTC_UNLOCKED. -/
def Dev.postUnlocked (d : Dev) (source : Nat) (theta : Int) : Dev := d.postD evGtcUnlocked source [twos theta 32]

/-- The classes of Table 17.3 that STANDBY returns to default or loses. -/
def Dev.standbyLosses (d : Dev) : Dev :=
  { d with
    queues := [], adm := Dev.reset.adm, bar2 := Dev.reset.bar2,
    features := KV.keep d.features (fun k _ => k == 0x0001 || k == 0x0002 || k == 0x0301),
    route := none, ports := [], sent := [], outq := [], sendSeq := [], recvSeq := [],
    gtc := { d.gtc with state := .free, root := 0xFFFF, steering := true, ratePpb := 0, outEn := false, inEn := false,
                        inOffset := 0, ppsSeen := false, ppsLost := false },
    fallow := Dev.reset.fallow, cores := [], keys := [], qps := [], eth := [], hbm := [], poison := [], sram := [], acc := [],
    soft := [], absent := [], saved := [], sheds := [], streams := [], engines := [] }

/-- R301: after an accepted request the device powers down. -/
def execStandbyEnter (s : State) : Res := onDev s fun d =>
  if d.boot.standbyAt.isSome ∧ d.devPower ≠ .standby then
    let d := if d.gtc.state = .locked then d.postUnlocked d.gtc.parent d.gtc.theta else d
    let d := d.standbyLosses
    Dev.dropPlls { d with devPower := .standby, boot := { d.boot with ready := false, standbyAt := some d.now, standbyWake := none } }
  else d

/-- R301: READY again; a held enable of queue 0 takes effect and the STANDBY column is reported. -/
def Dev.leaveStandby (d : Dev) : Dev :=
  let d := { d with devPower := .active, pll := allPlls, restSince := d.now,
                    boot := { d.boot with ready := true, standbyAt := none, standbyWake := none } }
  let d := if d.adm.held then d.admqStart else d
  (d.dropPlls).postD evSettingsDefaulted 0x10 [0xF781, 0]

/-- R321, R355: the 48 V input is present. -/
def Supply.has48 (x : Supply) : Bool := 44000 < x.mv48

def execStandbyWake (s : State) : Res := onDev s fun d =>
  if d.devPower = .standby ∧ d.boot.standbyWake.isSome ∧ d.supply.has48 then d.leaveStandby else d

/-- R301: with a wake requested, the return goes on once 48 V is back. -/
def execVinRestore (mv : Nat) (s : State) : Res := onDev s fun d =>
  if d.devPower = .standby then
    let d := { d with supply := { d.supply with mv48 := mv } }
    if d.boot.standbyWake.isSome ∧ d.supply.has48 then d.leaveStandby else d
  else d

/-! ### Alerts and management (R342, R346, R359) -/

/-- R359: the alert bits whose conditions hold. -/
def alertBits (t : Temps) (warn : Bool) : Nat := b2n (1000 < t.die) + b2n (1000 < t.hbm) * 2 + b2n warn * 4

/-- R359: the evaluation sets bits; THERM_ALERT# is asserted while the register is not 0, and its
assertion raises the in-band interrupt. -/
def execThermAlertEval (temps : Temps) (s : State) : Res := onDev s fun d =>
  let a := d.i3c.alert ||| alertBits temps d.supply.warn
  { d with i3c := { d.i3c with temps := temps, alert := a }, out := { d.out with ibi := d.i3c.alert == 0 && a != 0 } }

/-- R342: ENTDAA gives the dynamic address. -/
def execI3cEntdaa (addr : Nat) (s : State) : Res := onDev s fun d => { d with i3c := { d.i3c with addr := some addr } }

/-- Table 18.4: 0x0C is RC. -/
def execI3cAlertCauseRead (s : State) : Res := onDev s fun d =>
  { d with out := { d.out with value := d.i3c.alert }, i3c := { d.i3c with alert := 0 } }

/-- Table 18.4: 0x0001 to 0x0E starts the return from STANDBY; other values are ignored. -/
def execI3cStandbyWake (v : Nat) (s : State) : Res := onDev s fun d =>
  if v = 1 ∧ d.devPower = .standby ∧ d.boot.standbyWake = none then
    { d with boot := { d.boot with standbyWake := some d.now } }
  else d

/-- Table 18.4, the registers that have no side effect on a read. -/
def Dev.i3cRead (d : Dev) (off : Nat) : Nat :=
  match off with
  | 0x00 => 0x0E90
  | 0x02 => 0x0100
  | 0x04 => b2n d.boot.ready * 2 ^ 15 + b2n (d.boot.fault || d.supply.trip) * 2 ^ 14 + d.devPower.code * 2 ^ 12
  | 0x06 => d.i3c.power
  | 0x08 => d.i3c.temps.die
  | 0x0A => d.i3c.temps.hbm
  | 0x0C => d.i3c.alert
  | _ => 0

/-- THERM_ALERT# is asserted (R359, R361). -/
def Dev.alertPin (d : Dev) : Bool := d.i3c.alert != 0 || d.supply.trip

/-- R346: IDCODE. -/
def idcode : Nat := 0x1 * 2 ^ 28 + 0xE909 * 2 ^ 12 + (Config.jtagMaker % 2048) * 2 + 1

/-- R346: the TAP selects an instruction; a debug instruction without JTAG_DEBUG acts as BYPASS. What a
permitted debug instruction does, the spec does not say. -/
def execJtagTapInstruction (ti : TapInstr) (s : State) : Res :=
  match ti with
  | .debug => if bitOf s.dev.boot.policy 1 then .refused .debugUnit else onDev s fun d => { d with jtag := .bypass }
  | .idcode => onDev s fun d => { d with jtag := .idcode, out := { d.out with value := idcode } }
  | .bypass => onDev s fun d => { d with jtag := .bypass }
  | .sample => onDev s fun d => { d with jtag := .sample }
  | .extest => onDev s fun d => { d with jtag := .extest }
  | .highz => onDev s fun d => { d with jtag := .highz }

end Sys2Proof.Machine
end

