-- ==== Sys2Proof/Machine/Fallow.lean ====
section
/-! DEFINITION. Fallow checks, spares and retirement (chapter 16). -/
namespace Sys2Proof.Machine
open Sys2Proof

def Dev.core (d : Dev) (k : Nat) : CoreRec := KV.getD d.cores k CoreRec.blank
def Dev.setCore (d : Dev) (k : Nat) (c : CoreRec) : Dev := { d with cores := KV.put d.cores k c }

def day : Nat := 86400 * 1000000000

/-- R309: the core has work or an access: a slice in progress yields, and its idle time starts again. -/
def Dev.useCore (d : Dev) (k : Nat) : Dev :=
  let c := (d.core k).giveWay d.now
  d.setCore k { c with lastBusy := d.now }

/-! ### Retirement (R310, R312, R315) -/

/-- Table 16.2: the cause that a slice's failure gives. -/
def sliceCause (k : Nat) : Nat := if k < 4 then 1 else if k < 6 then 2 else if k = 6 then 3 else 4

/-- R312: retires a core: non-volatile, reported with the spares left; a shed below 64 good cores will
leave service (R315). -/
def retireCore (nv : NonVol) (d : Dev) (shed core cause : Nat) : NonVol × Dev :=
  if nv.isRetired shed core then (nv, d)
  else
    let nv := { nv with retired := KV.put nv.retired (coreKey shed core) { cause := cause, tick := d.gtc.val } }
    let d := d.postD evCoreRetired (shed + core * 256) [nv.spares shed]
    let c := d.core (coreKey shed core)
    let d := d.setCore (coreKey shed core) { c with running := none, dueAt := [], failedOnce := [] }
    (nv, if (nv.good shed).length < 64 then d.setShed shed { d.shed shed with leaving := true } else d)

/-- R310: a PASS, which counts an earlier failure of the slice as transient; the third transient within
24 h retires the core. -/
def slicePass (nv : NonVol) (d : Dev) (shed core k cause : Nat) : NonVol × Dev :=
  let key := coreKey shed core
  let c := d.core key
  let was := c.failedOnce.contains k
  let recent := c.transients.filter (fun t => d.now < t + day)
  let trans := if was then d.now :: recent else recent
  let done := if c.done.contains k then c.done else c.done ++ [k]
  let d := d.setCore key { c with
    running := none, dueAt := c.dueAt.filter (fun x => !(x.1 == k && x.2 ≤ d.now)), failedOnce := c.failedOnce.filter (· != k),
    transients := trans, done := done, lastPass := d.gtc.val.toNat, swept := if done.length = 8 then d.gtc.val.toNat else c.swept }
  if was && 3 ≤ trans.length then retireCore nv d shed core cause else (nv, d)

/-- R310: a first FAIL calls for recovery re-execution; a second FAIL retires the core. -/
def sliceFail (nv : NonVol) (d : Dev) (shed core k cause : Nat) : NonVol × Dev :=
  let key := coreKey shed core
  let c := d.core key
  if c.failedOnce.contains k then retireCore nv (d.setCore key { c with running := none }) shed core cause
  else (nv, d.setCore key { c with running := none, failedOnce := c.failedOnce ++ [k] })

/-! ### Slices in service (R306 to R310) -/

/-- A slice of a core is due now. -/
def CoreRec.isDue (c : CoreRec) (k now : Nat) : Bool := c.dueAt.any (fun x => x.1 == k && x.2 ≤ now)

/-- R308: time stolen in the last 10 ms. -/
def CoreRec.stolenNow (c : CoreRec) (now : Nat) : Nat :=
  (c.stolen.filter (fun x => now < x.1 + x.2 + 10000000)).foldl (fun a x => a + x.2) 0

/-- R306: every 600 s, slice k due 75 k s after the start. -/
def execFallowSweepStart (shed core dt : Nat) (s : State) : Res := onDevR s fun nv _ d =>
  let d := d.advance dt
  let c := d.core (coreKey shed core)
  if !nv.inService shed || nv.isRetired shed core || !d.elapsed c.sweepAt 600000000000 then d
  else
    let fresh := (List.range 8).map (fun k => (k, d.now + 75000000000 * k))
    let late := c.dueAt.filter (fun x => x.2 ≤ d.now)
    d.setCore (coreKey shed core) { c with
      sweepAt := d.now, done := [], dueAt := late ++ fresh.filter (fun x => !late.any (fun y => y.1 == x.1)) }

/-- Slices of 0 to 3 use the shed's one fallow buffer (R305). -/
def Dev.macBusy (d : Dev) (shed : Nat) : Bool :=
  (List.range 72).any (fun c => match (d.core (coreKey shed c)).running with
    | some (k, _) => k < 4
    | none => false)

/-- The queue of instructions of a physical core. -/
def Dev.coreQueued (d : Dev) (shed core : Nat) : Bool :=
  d.runs.vals.any (fun r => r.sheds.vals.any (fun x => x.phys == shed &&
    (List.range 64).any (fun l => x.cores.getD l 72 == core && !(KV.getD x.queues l []).isEmpty)))

/-- R306 to R310: the opportunity of a slice. A shed woken for its slices (R307) needs no idle time. -/
def Dev.mayRunSlice (d : Dev) (nv : NonVol) (shed core k : Nat) : Bool :=
  let c := d.core (coreKey shed core)
  let x := d.shed shed
  d.fallow.enable && nv.inService shed && !nv.isRetired shed core && c.running == none && k < 8 &&
    (c.isDue k d.now || c.failedOnce.contains k) && !d.coreQueued shed core && !d.supply.warn &&
    (d.die (dieOfShed shed)).point == 0 && c.stolenNow d.now + 20000 ≤ d.fallow.cap * 1000 &&
    !(k < 4 && d.macBusy shed) &&
    ((x.fallowRun && d.pll.contains (.die (dieOfShed shed))) || ((x.power == .run || x.power == .gate) && d.elapsed c.lastBusy (d.fallow.minIdle * 1000)))

def execFallowSliceStart (shed core slice dt : Nat) (s : State) : Res := onDevR s fun nv _ d =>
  let d := d.advance dt
  if d.mayRunSlice nv shed core slice then
    d.setCore (coreKey shed core) { d.core (coreKey shed core) with running := some (slice, d.now) }
  else d

/-- R307: a shed woken for its slices goes back once none of its cores has a slice due. -/
def Dev.fallowDone (d : Dev) (shed : Nat) : Dev :=
  let x := d.shed shed
  if x.fallowRun && (List.range 72).all (fun c =>
      let r := d.core (coreKey shed c)
      r.running == none && !r.dueAt.any (fun y => y.2 ≤ d.now)) then (d.setShed shed { x with fallowRun := false }).dropPlls
  else d

/-- R310: the verdict of the slice that runs on a core. -/
def execFallowSliceVerdict (shed core : Nat) (pass : Bool) (dt : Nat) (s : State) : Res := onNv s fun nv d =>
  let d := d.advance dt
  let c := d.core (coreKey shed core)
  match c.running with
  | none => (nv, d)
  | some (k, t) =>
    let d := d.setCore (coreKey shed core) { c with stolen := (t, d.now - t) :: c.stolen.filter (fun x => d.now < x.1 + x.2 + 10000000) }
    let z := if pass then slicePass nv d shed core k 5 else sliceFail nv d shed core k (sliceCause k)
    (z.1, z.2.fallowDone shed)

/-- R309: a yield leaves the slice due and without a verdict. -/
def execFallowSliceYield (shed core dt : Nat) (s : State) : Res := onDev s fun d =>
  let d := d.advance dt
  d.setCore (coreKey shed core) ((d.core (coreKey shed core)).giveWay d.now)

/-- R307: a sleeping shed with a slice due for 10 s is woken for its slices. -/
def execFallowShedWake (shed dt : Nat) (s : State) : Res := onDevR s fun nv _ d =>
  let d := d.advance dt
  let x := d.shed shed
  let due := (nv.good shed).any (fun c => (d.core (coreKey shed c)).dueAt.any (fun y => y.2 + 10000000000 ≤ d.now))
  if nv.inService shed && d.fallow.enable && (x.power == .hold || x.power == .save || x.power == .off) && due then
    d.setShed shed { x with fallowRun := true, saving := none }
  else d

/-- R315: the shed leaves service once no run is in flight on it. -/
def leaveService (nv : NonVol) (d : Dev) (shed : Nat) : NonVol × Dev :=
  if ((nv.good shed).length < 64 || (d.shed shed).leaving) && nv.inService shed && !d.busyShed shed then
    let d := (KV.keep d.pads (fun _ p => bitOf p.shedMask shed)).keys.foldl
      (fun d p => d.postP evShedOut p shed [(nv.good shed).length]) d
    ({ nv with shedsOut := shed :: nv.shedsOut }, d.setShed shed { d.shed shed with leaving := false })
  else (nv, d)

def execShedLeaveService (shed : Nat) (s : State) : Res := onNv s fun nv d => leaveService nv d shed

/-! ### Commands (R314, R316 to R318) -/

def execFallowPolicy (f : Nat) (s : State) : Res := onDev s fun d =>
  d.onFlight f 0x90 fun x =>
    let cap := if fld (x.w 4) 0 16 = 0 then 100 else fld (x.w 4) 0 16
    let p : FallowPolicy := { enable := bitOf (x.w 2) 0, minIdle := if x.w 3 = 0 then 50 else x.w 3, cap := cap }
    Dev.finish { d with fallow := p } f .ok cap 0

/-- R316: the ranges. -/
def checkFallowPolicy (x : Flight) : List (Bool × Status) :=
  [(x.w 3 != 0 && (x.w 3 < 50 || 1000000 < x.w 3), .badParam), (1000 < fld (x.w 4) 0 16, .badParam)]

def execCoreRetire (f : Nat) (s : State) : Res := onNv s fun nv d =>
  match KV.find d.flights f with
  | none => (nv, d)
  | some x =>
    if x.phase = .running ∧ x.opcode = 0x92 then
      let z := retireCore nv d (fld (x.w 2) 0 5) (fld (x.w 2) 8 7) 6
      (z.1, z.2.finish f .ok (z.1.spares (fld (x.w 2) 0 5)) 0)
    else (nv, d)

/-- R314. -/
def checkCoreRetire (x : Flight) : List (Bool × Status) := [(71 < fld (x.w 2) 8 7, .badParam)]

/-- Table 16.2. -/
def fallowRecord (nv : NonVol) (d : Dev) (i : Nat) : List Byte :=
  let shed := i / 72
  let core := i % 72
  let c := d.core i
  let log := (nv.logical shed).findIdx (· == core)
  let ret := KV.find nv.retired i
  let st := if ret.isSome then 2 else if !nv.inService shed then 3 else if log < 64 && log < (nv.logical shed).length then 0 else 1
  let logical := if st = 0 then log else 0x7F
  wordsLE [st * 2 ^ 30 + logical * 2 ^ 20 + (ret.elim 0 (·.cause)) * 65536 + shed * 256 + core,
           ((c.transients.filter (fun t => d.now < t + day)).length % 256) * 256 + c.done.length] ++
    bytesLE 8 c.lastPass ++ bytesLE 8 c.swept ++ bytesLE 8 (ret.elim 0 (·.tick.toNat))

/-- R318: the slices that W2[7:0] selects. -/
def testSlices : Nat → List Nat
  | 0x01 => [0, 1, 2, 3]
  | 0x02 => [4, 5]
  | 0x03 => [6]
  | 0x04 => [7]
  | 0x0F => List.range 8
  | _ => []

/-- The cores that a TEST_RUN tests: those in service in the sheds of its mask. -/
def testCores (nv : NonVol) (mask : Nat) : List (Nat × Nat) :=
  ((shedsOf mask).filter nv.inService).flatMap (fun s => (nv.good s).map (fun c => (s, c)))

/-- One slice with its recovery re-execution: `n` is how often it fails, one after the other. -/
def testSlice (nv : NonVol) (d : Dev) (shed core k n cause : Nat) : NonVol × Dev :=
  if n = 0 then slicePass nv d shed core k 5
  else
    let z := sliceFail nv d shed core k cause
    if n = 1 then slicePass z.1 z.2 shed core k 5 else sliceFail z.1 z.2 shed core k cause

/-- Runs slices over cores; `fails` lists the failures, one entry each. Answers the slices that failed. -/
def runSlices (slices : List Nat) (fails : List (Nat × Nat × Nat)) (cause : Nat → Nat) :
    List (Nat × Nat) → NonVol → Dev → NonVol × Dev × Nat
  | [], nv, d => (nv, d, 0)
  | (s, c) :: t, nv, d =>
    let z := slices.foldl (fun (z : NonVol × Dev × Nat) k =>
      let n := (fails.filter (fun x => x == (s, c, k))).length
      if z.1.isRetired s c then z
      else
        let y := testSlice z.1 z.2.1 s c k n (cause k)
        (y.1, y.2, z.2.2 + b2n (n != 0))) (nv, d, 0)
    let y := runSlices slices fails cause t z.1 z.2.1
    (y.1, y.2.1, z.2.2 + y.2.2)

/-- R318: runs the tests, writes one record per core, and counts. -/
def testRun (nv : NonVol) (d : Dev) (f : Nat) (x : Flight) (fails : List (Nat × Nat × Nat)) : NonVol × Dev :=
  let cores := testCores nv (x.w 3)
  let ks := testSlices (fld (x.w 2) 0 8)
  let z := runSlices ks fails (fun _ => 7) cores nv d
  let recs := cores.flatMap (fun e => fallowRecord z.1 z.2.1 (coreKey e.1 e.2))
  (z.1, (z.2.1.hbmWrite (x.d 4) recs).finish f .ok z.2.2 (cores.length * ks.length))

def execTestRun (f : Nat) (fails : List (Nat × Nat × Nat)) (s : State) : Res := onNv s fun nv d =>
  match KV.find d.flights f with
  | none => (nv, d)
  | some x => if x.phase = .running ∧ x.opcode = 0x91 then testRun nv d f x fails else (nv, d)

/-- R318: a shed outside the paddock; the result buffer lies in the paddock's HBM (log 25). -/
def checkTestRun (nv : NonVol) (d : Dev) (p : Paddock) (x : Flight) : List (Bool × Status) :=
  [((x.w 3) &&& p.shedMask != x.w 3, .notInPaddock),
   (!d.hbmOk p (x.d 4) (32 * (testCores nv (x.w 3)).length), .notInPaddock),
   ((testSlices (fld (x.w 2) 0 8)).isEmpty, .badParam)]

end Sys2Proof.Machine
end

