-- ==== Sys2Proof/Machine/Gtc.lean ====
section
/-! DEFINITION. The global tick counter (R274 to R279, Table 13.7). -/
namespace Sys2Proof.Machine
open Sys2Proof

/-- R274: the lowest-numbered UP port in the PORT_MASK of the root's route entry. -/
def Dev.parentPort (d : Dev) : Option Nat :=
  match d.route with
  | none => none
  | some r =>
    match KV.find r.dests d.gtc.root with
    | none => none
    | some (mask, _) => (maskPorts mask).find? (fun p => (d.port p).state == .up)

/-- Table 13.7: the state that root, steering and parent port call for. -/
def Dev.gtcWant (d : Dev) : GtcState :=
  let g := d.gtc
  if !g.steering || g.root == 0xFFFF then .free
  else if g.root = d.selfId then .root
  else match d.parentPort with
    | some _ => if g.state = .locked then .locked else .acquiring
    | none => .holdover

/-- The counter follows its root, its steering and its ports. -/
def Dev.gtcFollow (d : Dev) : Dev :=
  let g := d.gtc
  let w := d.gtcWant
  let d1 : Dev := { d with gtc := { g with
    state := w, parent := (d.parentPort).getD 31,
    ratePpb := if w = .free || (w = .root && !g.inEn) then 0 else g.ratePpb,
    inSince := if w = .acquiring then g.inSince else none,
    outSince := if w = .locked then g.outSince else none } }
  if g.state = .locked ∧ w ≠ .locked then d1.postUnlocked g.parent g.theta else d1

/-- R274: θ = ((t2 - t1) - (t4 - t3)) / 2. -/
def theta (t1 t2 t3 t4 : Nat) : Int :=
  ((Int.ofNat t2 - Int.ofNat t1) - (Int.ofNat t4 - Int.ofNat t3)) / 2

/-- R274: steering changes the rate by at most 200 ppm. -/
def clampRate (r : Int) : Int := max (-200000) (min 200000 r)

/-- R274, R275: what an offset does: a step to the parent's value at the first entry to ACQUIRING, a
forward step when the counter lags by more than 1 µs, a rate otherwise. -/
def Gtc.steer (g : Gtc) (th : Int) (now : Nat) : Gtc :=
  let big := 1000 < th || (!g.acquired && th < -1000)
  { g with
    theta := th, filtered := Config.thetaFilter g.filtered th, acquired := true,
    val := if big then g.val + BitVec.ofInt 64 th else g.val,
    ratePpb := if big then g.ratePpb else clampRate (Config.steerRate th),
    inSince := if th.natAbs ≤ 5 then (g.inSince.orElse fun _ => some now) else none,
    outSince := if 100 < th.natAbs then (g.outSince.orElse fun _ => some now) else none }

/-- R274: each UP or FENCED port exchanges timestamps; only the parent port steers. -/
def execGtcTimestampExchange (p t1 t2 t3 t4 : Nat) (s : State) : Res := onDev s fun d =>
  if d.parentPort = some p ∧ (d.gtc.state = .acquiring ∨ d.gtc.state = .locked) then
    { d with gtc := d.gtc.steer (theta t1 t2 t3 t4) d.now }
  else d

/-- R275: |θ| <= 5 ns for 1 ms. -/
def execGtcLock (dt : Nat) (s : State) : Res := onDev s fun d =>
  let d := d.advance dt
  match d.gtc.inSince with
  | none => d
  | some t =>
    if d.gtc.state = .acquiring ∧ d.elapsed t 1000000 then { d with gtc := { d.gtc with state := .locked, outSince := none } } else d

/-- R275: |θ| > 100 ns for 100 µs. -/
def execGtcUnlock (dt : Nat) (s : State) : Res := onDev s fun d =>
  let d := d.advance dt
  match d.gtc.outSince with
  | none => d
  | some t =>
    if d.gtc.state = .locked ∧ d.elapsed t 100000 then
      Dev.postUnlocked { d with gtc := { d.gtc with state := .acquiring, inSince := none } } d.gtc.parent d.gtc.theta
    else d

/-- R278: GTC_PPS_OUT goes high at a tick that is a multiple of 10^9. -/
def execGtcPpsOutPulse (dt : Nat) (s : State) : Res := onDev s fun d =>
  let d := d.advance dt
  if d.gtc.outEn ∧ d.gtc.val.toNat % 1000000000 = 0 then
    { d with gtc := { d.gtc with ppsHighUntil := d.now + 100000 } }
  else d

/-- The level of GTC_PPS_OUT. -/
def Dev.ppsOut (d : Dev) : Bool := d.now < d.gtc.ppsHighUntil

/-- The distance in ticks from the counter forward to the next value congruent to IN_OFFSET modulo 10^9. -/
def Gtc.toPulse (g : Gtc) : Nat := ((g.inOffset - Int.ofNat g.val.toNat) % 1000000000).toNat

/-- R278, R358: an edge high for 1 µs or more is timestamped; the first steps the root's counter forward,
later ones steer it. -/
def execGtcPpsInEdge (dt high : Nat) (s : State) : Res := onDev s fun d =>
  let d := d.advance dt
  let g := d.gtc
  if high < 1000 ∨ !g.inEn ∨ g.state ≠ .root then d
  else if g.ppsSeen then
    let e : Int := if g.toPulse < 500000000 then Int.ofNat g.toPulse else Int.ofNat g.toPulse - 1000000000
    { d with gtc := { g with theta := e, filtered := Config.thetaFilter g.filtered e, ratePpb := clampRate (Config.steerRate e), ppsLast := d.now, ppsLost := false } }
  else
    { d with gtc := { g with val := g.val + BitVec.ofNat 64 g.toPulse, theta := 0, filtered := 0, ppsSeen := true, ppsLast := d.now, ppsLost := false } }

/-- R278: no edge for 1.1 s. -/
def execGtcPpsInLoss (dt : Nat) (s : State) : Res := onDev s fun d =>
  let d := d.advance dt
  let g := d.gtc
  if g.inEn ∧ g.state = .root ∧ !g.ppsLost ∧ d.elapsed g.ppsLast 1100000000 then
    Dev.postUnlocked { d with gtc := { g with ppsLost := true } } 16 g.theta
  else d

/-! ### GTC_CONTROL (R277, Table 13.8) -/

/-- A GTC_CONTROL completes with the counter as its action takes effect. -/
def Dev.gtcDone (d : Dev) (f : Nat) : Dev := d.finish f .ok (d.gtc.val.toNat % 2 ^ 32) (d.gtc.val.toNat / 2 ^ 32)

/-- Action `a` of opcode 0x72. -/
def Dev.onGtc (d : Dev) (f a : Nat) (g : Flight → Dev) : Dev :=
  d.onFlight f 0x72 fun x => if fld (x.w 2) 0 4 = a then g x else d

def execGtcRead (f : Nat) (s : State) : Res := onDev s fun d => d.onGtc f 0 fun _ => d.gtcDone f

def execGtcSetRoot (f : Nat) (s : State) : Res := onDev s fun d => d.onGtc f 1 fun x =>
  Dev.gtcDone (Dev.gtcFollow { d with gtc := { d.gtc with root := fld (x.w 4) 0 16 } }) f

def execGtcSteeringOn (f : Nat) (s : State) : Res := onDev s fun d => d.onGtc f 2 fun _ =>
  Dev.gtcDone (Dev.gtcFollow { d with gtc := { d.gtc with steering := true } }) f

def execGtcSteeringOff (f : Nat) (s : State) : Res := onDev s fun d => d.onGtc f 3 fun _ =>
  Dev.gtcDone (Dev.gtcFollow { d with gtc := { d.gtc with steering := false } }) f

/-- IN_EN is permitted on the root only. A root without it runs at its nominal rate (Table 13.7). -/
def execGtcPpsSetup (f : Nat) (s : State) : Res := onDev s fun d => d.onGtc f 4 fun x =>
  let inEn := bitOf (x.w 4) 1
  if inEn && !(d.route.isSome && d.gtc.root == d.selfId) then d.finish f .badParam 0 0
  else
    Dev.gtcDone (Dev.gtcFollow { d with gtc := { d.gtc with
      outEn := bitOf (x.w 4) 0, inEn := inEn, inOffset := sext (x.w 5) 32, ppsSeen := false, ppsLast := d.now, ppsLost := false } }) f

/-- Table 13.8: the values each action takes. -/
def checkGtc (x : Flight) : List (Bool × Status) :=
  let a := fld (x.w 2) 0 4
  let v := x.d 4
  let off := sext (x.w 5) 32
  [(4 < a, .badParam), ((a == 0 || a == 2 || a == 3) && v != 0, .badParam),
   (a == 1 && !(v ≤ 0x7FF || v == 0xFFFF), .badParam),
   (a == 4 && (3 < x.w 4 || off < -500000000 || 499999999 < off), .badParam)]

def GtcState.code : GtcState → Nat
  | .free => 0 | .root => 1 | .acquiring => 2 | .locked => 3 | .holdover => 4

/-- R279. -/
def Dev.gtcRecord (d : Dev) : List Byte :=
  let g := d.gtc
  let par := if g.state = .root && g.inEn then 16 else match g.state with
    | .acquiring => g.parent
    | .locked => g.parent
    | _ => 31
  wordsLE [par * 256 + g.state.code, g.root % 65536, twos g.filtered 32, twos g.ratePpb 32, 0, 0, 0, 0]

end Sys2Proof.Machine
end

