-- ==== Sys2Proof/Machine/Ports.lean ====
section
/-! DEFINITION. Furrow ports: training, identity, fences, replay, lane swaps, PORT_CONTROL and ROUTE_LOAD (R236 to R245, R250 to R252, R256 to R258, R260). -/
namespace Sys2Proof.Machine
open Sys2Proof

/-- COUNT_A of Table 12.2. -/
def PortState.code : PortState → Nat
  | .disabled => 0 | .training => 1 | .up => 2 | .fenced => 3 | .failed => 4

/-- R237: lanes in use. -/
def Port.lanes (x : Port) : Nat := if x.state = .up ∨ x.state = .fenced then 8 else 0
def bump (n : Nat) : Nat := if n < 0xFFFFFFFF then n + 1 else n

/-- Table 12.1: the training limit of a reach class in ns. -/
def trainLimit (cls : Nat) : Nat := if cls = 0 then 30000000 else if cls = 1 then 60000000 else 250000000

/-- R238: EV_LINK_FAILED, once for each series of failures. -/
def Dev.postLinkFailed (d : Dev) (p cause : Nat) : Dev :=
  if (d.port p).failPosted then d
  else (d.updPort p (fun x => { x with failPosted := true })).postD evLinkFailed p [cause]

/-! ### Becoming FAILED, and training -/

/-- COUNT_A and COUNT_B of a PORT_CONTROL (R237, Table 12.2). -/
def Dev.portDone (d : Dev) (f p : Nat) (st : Status) : Dev := d.finish f st (d.port p).state.code (d.port p).lanes

/-- The PORT_CONTROL that waits for the port's training completes (DEDUCED from Table 2.22, log 37). -/
def Dev.portEnds (d : Dev) (p : Nat) (st : Status) : Dev :=
  match (d.port p).waiter with
  | none => d
  | some f => (d.updPort p (fun x => { x with waiter := none })).portDone f p st

/-- R238, R245, R257: a port becomes FAILED. -/
def Dev.failPort (d : Dev) (p cause : Nat) : Dev :=
  let d := d.updPort p (fun x => { x with state := .failed, since := d.now, hold := (none, none), replayUntil := 0, released := false })
  (((d.portLost p).postLinkFailed p cause).gtcFollow).portEnds p .linkFailed

/-- R238, R245: training starts; it clears the spare assignment, the version and RELEASED. -/
def Dev.startTraining (d : Dev) (p : Nat) : Dev :=
  d.updPort p (fun x => { x with
    state := .training, off := false, spare := (none, none), version := 0, released := false, since := d.now, hold := (none, none),
    replayUntil := 0, replayTimes := ([], []), trainings := bump x.trainings })

/-- R240: the common version, where there is one. -/
def commonVersion (nb : Neighbour) : Option Nat :=
  let c := min Config.linkCurrent nb.current
  if max (Config.linkCurrent - 2) nb.oldest ≤ c then some c else none

/-- R239, Table 12.10: FENCE_CAUSE as four bits: no table, node, port, version. -/
def Dev.fenceCauseOf (d : Dev) (p : Nat) (nb : Neighbour) : Nat :=
  let v := if (commonVersion nb).isNone then 8 else 0
  match d.route with
  | none => 1 + v
  | some r =>
    let n := r.expectNode.getD p 0xFFFF
    let q := r.expectPort.getD p 0xFF
    (if n = 0xFFFF ∨ n = nb.node then 0 else 2) + (if q = 0xFF ∨ q = nb.port then 0 else 4) + v

/-- EV_PORT_FENCED (R239). -/
def Dev.postFenced (d : Dev) (p : Nat) (nb : Neighbour) : Dev :=
  d.postD evPortFenced p [nb.serial % 2 ^ 32, nb.serial / 2 ^ 32 % 2 ^ 32, nb.port, nb.current]

/-- R239: what this end sends in the identity exchange of port p: its serial, node ID, port index, coordinates and versions. -/
def Dev.identity (d : Dev) (p : Nat) : Neighbour :=
  { serial := Config.serial.toNat, node := d.selfId, port := p, coord := d.route.elim 0 (·.coord),
    current := Config.linkCurrent, oldest := Config.linkCurrent - 2 }

/-- R239: the port takes the state that the comparison gives; packets that waited for it look again. -/
def Dev.judgePort (d : Dev) (p : Nat) (nb : Neighbour) : Dev :=
  let c := d.fenceCauseOf p nb
  let d1 := d.updPort p (fun x => { x with
    state := if c = 0 then .up else .fenced, nb := some nb, fenceCause := c, released := false,
    version := (commonVersion nb).getD 0 })
  if c = 0 then d1.drainQueue.gtcFollow else ((d1.portFenced p).postFenced p nb).gtcFollow

/-- Lanes that passed, of a mask of nine. -/
def popLanes (mask : Nat) : Nat := ((List.range 9).filter (bitOf mask)).length

/-- R239, R245: training ends with eight lanes or more; a lane that failed is carried by the spare. -/
def execPortTrainingDone (p : Nat) (nb : Neighbour) (lanes : Nat) (s : State) : Res := onDev s fun d =>
  if (d.port p).state ≠ .training ∨ popLanes lanes < 8 then d
  else
    let badLane := (List.range 8).find? (fun l => !bitOf lanes l)
    let d : Dev := { d with out := { d.out with ids := d.out.ids ++ [(p, d.identity p)] } }
    (d.updPort p (fun x => { x with
      goodLanes := popLanes lanes, spare := (badLane, badLane), retries := 0, failPosted := false, since := d.now })).judgePort p nb |>.portEnds p .ok

/-- R237: at READY every port but those that PORT_CONTROL disabled starts training. -/
def execPortTrainingStart (s : State) : Res := onDev s fun d =>
  if !d.boot.ready then d
  else (List.range 16).foldl (fun d p =>
    if (d.port p).state = .disabled ∧ !(d.port p).off then d.startTraining p else d) d

def execPortTrainingTimeout (p dt : Nat) (s : State) : Res := onDev s fun d =>
  let d := d.advance dt
  let x := d.port p
  if x.state = .training ∧ d.elapsed x.since (trainLimit x.cls) then d.failPort p 3 else d

/-- R238: after 10 ms, then every 1 s. -/
def execPortAutoRetrain (p dt : Nat) (s : State) : Res := onDev s fun d =>
  let d := d.advance dt
  let x := d.port p
  if x.state = .failed ∧ d.elapsed x.since (if x.retries = 0 then 10000000 else 1000000000) then
    (d.startTraining p).updPort p (fun x => { x with retries := x.retries + 1 })
  else d

/-! ### Replay and lane swaps (R243 to R245) -/

def sel {α : Type} (dir : Bool) (x : α × α) : α := if dir then x.2 else x.1
def put2 {α : Type} (dir : Bool) (x : α × α) (a : α) : α × α := if dir then (x.1, a) else (a, x.2)

def Port.live (x : Port) : Bool := x.state == .up || x.state == .fenced

/-- Replays of a direction within the last 40 µs. -/
def Port.recentReplays (x : Port) (dir : Bool) (now : Nat) : List Nat := (sel dir x.replayTimes).filter (fun t => now < t + 40000)

/-- R243: the longest replay: 2 µs, and on class O the round trip at full reach (Table 12.1). -/
def replayMax (cls : Nat) : Nat := if cls = 2 then 22000 else 2000

/-- R258: the unanswered packets of a port are marked: a recovery has replayed or held them. -/
def Dev.markRecovered (d : Dev) (p : Nat) : Dev :=
  { d with sent := d.sent.map (fun y => if y.port = p then { y with recovered := true } else y) }

/-- R243, R44: a replay. How long it takes within its bound is open: a free value (log 37). -/
def execLinkReplay (p : Nat) (dir : Bool) (dt : Nat) (s : State) : Res := onDev s fun d =>
  let d := d.advance dt
  let x := d.port p
  if !x.live then d
  else
    Dev.markRecovered ({ d with free := d.free + 1 }.updPort p (fun x => { x with
      replays := bump x.replays, uncorrectable := x.uncorrectable + 1,
      replayUntil := max x.replayUntil (d.now + Config.pick d.free % (replayMax x.cls + 1)),
      replayTimes := put2 dir x.replayTimes (d.now :: x.recentReplays dir d.now) })) p

/-- R244, R245: the named lane moves onto the spare, with the direction's traffic held; a lane that fails
while the spare is in use makes the port FAILED. -/
def Dev.swapLane (d : Dev) (p : Nat) (dir : Bool) (lane : Nat) : Dev :=
  let x := d.port p
  if (sel dir x.spare).isSome then d.failPort p 1
  else (d.updPort p (fun x => { x with hold := put2 dir x.hold (some (lane, d.now)) })).markRecovered p

/-- R244: a 17th replay within 40 µs. -/
def execReplayStorm (p : Nat) (dir : Bool) (lane : Option Nat) (s : State) : Res := onDev s fun d =>
  let x := d.port p
  if !x.live || (x.recentReplays dir d.now).length < 17 || (sel dir x.hold).isSome then d
  else match lane with
    | none => d.failPort p 0
    | some l => d.swapLane p dir l

def execLaneErrorExcess (p : Nat) (dir : Bool) (lane : Nat) (s : State) : Res := onDev s fun d =>
  let x := d.port p
  if !x.live || (sel dir x.hold).isSome then d else d.swapLane p dir lane

/-- R244: the swap is done within 200 µs; EV_LANE_SWAP gives the lane and the hold in µs. -/
def execLaneSwapDone (p : Nat) (dir : Bool) (dt : Nat) (s : State) : Res := onDev s fun d =>
  let d := d.advance dt
  match sel dir (d.port p).hold with
  | none => d
  | some (lane, t) =>
    if 200000 ≤ d.now - t then d
    else
      ((d.updPort p (fun x => { x with
        hold := put2 dir x.hold none, spare := put2 dir x.spare (some lane), laneSwaps := bump x.laneSwaps,
        replayTimes := put2 dir x.replayTimes [] })).drainQueue).postD evLaneSwap p [lane, (d.now - t) / 1000]

def execLaneSwapHoldTimeout (p : Nat) (dir : Bool) (dt : Nat) (s : State) : Res := onDev s fun d =>
  let d := d.advance dt
  match sel dir (d.port p).hold with
  | none => d
  | some (_, t) => if 200000 ≤ d.now - t then d.failPort p 0 else d

/-- R245: loss of signal or of lock on the receive side. -/
def execLinkSignalLoss (p : Nat) (s : State) : Res := onDev s fun d => if (d.port p).live then d.failPort p 2 else d

/-! ### PORT_CONTROL (R236 to R238, R242) -/

def Dev.onPort (d : Dev) (f a : Nat) (g : Nat → Flight → Dev) : Dev :=
  d.onFlight f 0x71 fun x => if fld (x.w 2) 8 4 = a then g (fld (x.w 2) 0 4) x else d

/-- A PORT_CONTROL starts the port's training and waits for its end: it completes with ST_OK when the port becomes UP
or FENCED, and with ST_LINK_FAILED when it becomes FAILED (DEDUCED from Table 2.22, log 37). -/
def Dev.trainFor (d : Dev) (f p : Nat) : Dev :=
  ((d.portEnds p .linkFailed).startTraining p).updPort p (fun x => { x with retries := 0, waiter := some f })
    |>.updFlight f (fun x => { x with phase := .moving })

def execPortEnable (f : Nat) (s : State) : Res := onDev s fun d => d.onPort f 0 fun p _ =>
  if (d.port p).state = .disabled then (d.trainFor f p).updPort p (fun x => { x with failPosted := false })
  else d.portDone f p .ok

/-- R238: stops the port; what was sent and not answered is lost. -/
def execPortDisable (f : Nat) (s : State) : Res := onDev s fun d => d.onPort f 1 fun p _ =>
  if (d.port p).state = .disabled then (d.updPort p (fun x => { x with off := true })).portDone f p .ok
  else
    let d := d.updPort p (fun x => { x with
      state := .disabled, off := true, hold := (none, none), replayUntil := 0, released := false })
    ((((d.portLost p).postLinkFailed p 4).portEnds p .linkFailed).gtcFollow.dropPlls).portDone f p .ok

def execPortRetrain (f : Nat) (s : State) : Res := onDev s fun d => d.onPort f 2 fun p _ =>
  if (d.port p).state = .disabled then d.finish f .badParam 0 0
  else (((d.trainFor f p).portLost p).postLinkFailed p 4).gtcFollow

def execPortSetReachClass (f : Nat) (s : State) : Res := onDev s fun d => d.onPort f 3 fun p x =>
  if (d.port p).state ≠ .disabled ∨ fld (x.w 2) 16 2 = 3 then d.finish f .badParam 0 0
  else (d.updPort p (fun y => { y with cls := fld (x.w 2) 16 2 })).portDone f p .ok

/-- R242: a port fenced only for its node or port becomes UP. -/
def execPortReleaseFence (f : Nat) (s : State) : Res := onDev s fun d => d.onPort f 4 fun p _ =>
  let x := d.port p
  if x.state ≠ .fenced then d.portDone f p .ok
  else if x.fenceCause % 2 = 1 ∨ 8 ≤ x.fenceCause then d.finish f .badParam 0 0
  else ((d.updPort p (fun x => { x with state := .up, released := true })).drainQueue.gtcFollow).portDone f p .ok

/-- Table 2.21: actions 0 to 4. -/
def checkPort (x : Flight) : List (Bool × Status) := [(4 < fld (x.w 2) 8 4, .badParam)]

/-! ### Route tables (R250 to R252, Tables 12.8, 12.9) -/

/-- Bytes of a route table with `sets` sets and `n` entries. -/
def routeBytes (sets n : Nat) : Nat := 256 + 512 * sets + 8 * n

/-- Reads a route table. -/
def readRoute (m : Memory) (a n : Nat) : Route :=
  let h := m.reads a 256
  let sets := fld (w32 h 12) 0 7
  let ent := (List.range n).map (fun i =>
    let o := a + 256 + 512 * sets + 8 * i
    (m.readLE o 4, m.readLE (o + 4) 4))
  { self := fld (w32 h 4) 0 11, coord := w32 h 8,
    sets := (List.range sets).map (fun k => m.reads (a + 256 + 512 * k) 512),
    ingress := (List.range 16).map (fun p => leAt h (16 + p) 1 % 64),
    expectPort := (List.range 16).map (fun p => fld (w32 h (32 + 8 * p)) 16 8),
    expectNode := (List.range 16).map (fun p => fld (w32 h (32 + 8 * p)) 0 16),
    dests := ent.foldl (fun t e => KV.put t (fld e.1 0 11) (fld e.1 16 16, fld e.2 0 6)) [] }

/-- R251: the table is refused. -/
def routeBad (nv : NonVol) (d : Dev) (a n : Nat) : Bool :=
  let h := d.hbm.reads a 256
  let sets := fld (w32 h 12) 0 7
  let ents := (List.range n).map (fun i =>
    let o := a + 256 + 512 * sets + 8 * i
    (d.hbm.readLE o 4, d.hbm.readLE (o + 4) 4))
  let self := fld (w32 h 4) 0 11
  !aligned a 256 || n == 0 || 2048 < n || w32 h 0 != 1 || 2048 ≤ w32 h 4 || 64 < w32 h 12 || sets == 0 ||
    (List.range 16).any (fun p => 64 ≤ leAt h (16 + p) 1) ||
    (List.range 16).any (fun p => 2 ^ 24 ≤ w32 h (32 + 8 * p) || w32 h (36 + 8 * p) != 0) ||
    (List.range 24).any (fun i => w32 h (160 + 4 * i) != 0) ||
    (List.range 16).any (fun p => sets ≤ leAt h (16 + p) 1 % 64) ||
    ents.any (fun e => fld e.1 11 5 != 0 || 64 ≤ e.2 || sets ≤ e.2 || fld e.1 16 16 == 0 || fld e.1 0 11 == self) ||
    (ents.map (fun e => fld e.1 0 11)).eraseDups.length != n ||
    hbmTop < a + routeBytes sets n || nv.reachesHole a (routeBytes sets n) ||
    (match d.route with
      | some r => r.self != self && !d.pads.isEmpty
      | none => false)

/-- R252: each trained port is compared with the new expectations. -/
def Dev.rejudge (d : Dev) (p : Nat) : Dev :=
  let x := d.port p
  match x.nb with
  | some nb => if x.live then (if d.fenceCauseOf p nb = 0 then
      (d.updPort p (fun x => { x with state := .up, fenceCause := 0, released := false })).drainQueue
    else d.judgePort p nb) else d
  | none => d

/-- R252: a valid table waits until every packet queued under the old one has left its port, and then replaces it
in one step. -/
def execRouteLoad (f : Nat) (s : State) : Res := onDevR s fun nv _ d => d.onFlight f 0x70 fun x =>
  if routeBad nv d (x.d 2) (x.w 4) then d.finish f .badParam 0 0
  else if !d.outq.isEmpty then d
  else
    let g := (d.routeGen + 1) % 2 ^ 32
    let d := { d with route := some (readRoute d.hbm (x.d 2) (x.w 4)), routeGen := g }
    (((List.range 16).foldl Dev.rejudge d).gtcFollow).finish f .ok g 0

/-! ### Port statistics (Table 12.10) -/

def portRecord (x : Port) : List Byte :=
  let lane := (match x.spare.1 with | some l => l | none => x.spare.2.getD 0)
  let used := x.spare.1.isSome || x.spare.2.isSome
  let nb := x.nb
  let sat := fun n => min n 0xFFFFFFFF
  wordsLE [x.state.code * 2 ^ 28 + x.cls * 2 ^ 26 + b2n used * 2 ^ 25 + lane * 2 ^ 21 + x.goodLanes * 65536 + x.version % 65536,
           b2n x.released * 2 ^ 28 + x.fenceCause * 2 ^ 24] ++
    bytesLE 8 (nb.elim 0 (·.serial)) ++
    wordsLE [(nb.elim 0 (·.port)) % 256 * 65536 + (nb.elim 0 (·.node)) % 65536] ++
    bytesLE 8 (min x.corrected 0xFFFFFFFFFFFFFFFF) ++ bytesLE 8 (min x.uncorrectable 0xFFFFFFFFFFFFFFFF) ++
    wordsLE [sat x.replays, sat x.laneSwaps, sat x.fenceDrops, sat x.fenceVcDrops, sat x.misaddressed, sat x.crcDrops,
             sat x.busySent, sat x.busyReceived, sat x.signalsDiscarded, sat x.seqGaps, sat x.trainings] ++
    List.replicate 48 0

end Sys2Proof.Machine
end

