-- ==== Sys2Proof/Machine/HbmErr.lean ====
section
/-! DEFINITION. HBM and SRAM errors as the environment reports them, and writes of HBM ranges (Table 11.8, R213, R232, R233). -/
namespace Sys2Proof.Machine
open Sys2Proof

def Dev.chan (d : Dev) (c : Nat) : ChanErr := KV.getD d.chanErr c ChanErr.blank

def minute : Nat := 60 * 1000000000

/-- R233: the counts that make a channel FAILING, over any 60 s. -/
def ChanErr.judge (c : ChanErr) (now : Nat) : ChanErr :=
  let near := fun t => decide (now < t + minute)
  let f := c.failed.filter near
  let w := c.words.filter (fun x => near x.1)
  let k := c.corrected.filter near
  { failed := f, words := w, corrected := k,
    failing := c.failing || 4 ≤ f.length || 2 ≤ (w.map (·.2)).eraseDups.length || 1000 ≤ k.length }

def Dev.setChan (d : Dev) (c : Nat) (x : ChanErr) : Dev := { d with chanErr := KV.put d.chanErr c (x.judge d.now) }

/-- R310: an uncorrectable crib error makes both crib march slices of the core due at once. Loft and die-network
reports retire nothing (R310). -/
def Dev.cribError (d : Dev) (shed core : Nat) : Dev :=
  let k := coreKey shed core
  let c := d.core k
  d.setCore k { c with dueAt := c.dueAt.filter (fun x => x.1 != 4 && x.1 != 5) ++ [(4, d.now), (5, d.now)] }

/-- Counts an error against the good channel that holds an HBM address (R232, R233). -/
def Dev.countErr (d : Dev) (nv : NonVol) (a : Nat) (g : ChanErr → ChanErr) : Dev :=
  d.setChan (nv.channelOf a) (g (d.chan (nv.channelOf a)))

/-- F_RECOVERED: a fault was recovered below the command (Table 2.23). -/
def Dev.recovered (d : Dev) (id : Nat) : Dev := d.updFlight id (fun f => { f with flags := setFlag f.flags fRecovered })

/-- The 32-byte words of a range. -/
def wordsOf (a n : Nat) : List Nat := rangeFrom (a / 32) ((a + n + 31) / 32 - a / 32)

/-- R213, R233, Table 11.8: what a reported error does to the counts and to the command's flags, and the address that
ends the command with ST_MEM_UNCORRECTABLE, if it does. -/
def Dev.memFault (d : Dev) (nv : NonVol) (id : Nat) : MemFault → Dev × Option Nat
  | .none => (d, none)
  | .corrected a => ((d.countErr nv a (fun x => { x with corrected := d.now :: x.corrected })).recovered id, none)
  | .retried _ => (d.recovered id, none)
  | .readFailed a => (d.countErr nv a (fun x => { x with failed := d.now :: x.failed }), some a)
  | .writeFailed a n =>
    let d := d.countErr nv a (fun x => { x with failed := d.now :: x.failed })
    ({ d with poison := d.poison ++ (wordsOf a n).filter (fun w => !d.poison.contains w) }, some a)
  | .uncorrectable a => (d.countErr nv a (fun x => { x with words := (d.now, a / 32) :: x.words }), some a)
  | .sramCorrected => (d.recovered id, none)
  | .cribDouble s c o => (d.cribError s c, some (cribAddr s c o))
  | .loftDouble s o => (d, some (loftAddr s o))
  | .linkDouble n => (d, some (linkAddr n))

/-- A command whose memory accesses meet an error: it goes on, or ends with the failing address and the partial
results of what it wrote before (Table 2.22). -/
def Dev.withFault (d : Dev) (nv : NonVol) (id : Nat) (mf : MemFault) (go : Dev → Dev) : Dev :=
  let z := d.memFault nv id mf
  match z.2 with
  | none => go z.1
  | some a => z.1.finishMem id a

/-- The first poisoned word of a range, as an address (Table 11.8). -/
def Dev.poisoned (d : Dev) (a n : Nat) : Option Nat :=
  (d.poison.find? (fun w => w * 32 < a + n && a < w * 32 + 32)).map (fun w => max a (w * 32))

/-- A command that reads HBM ranges: a reported error or a poisoned word ends it before it writes anything (log 65). -/
def Dev.withReads (d : Dev) (nv : NonVol) (id : Nat) (mf : MemFault) (rs : List (Nat × Nat)) (go : Dev → Dev) : Dev :=
  d.withFault nv id mf fun d => match rs.findSome? (fun r => d.poisoned r.1 r.2) with
    | some a => d.finishMem id a
    | none => go d

/-- Writes a range of either space. -/
def Dev.put (d : Dev) (sp : Space) (a : Nat) (bs : List Byte) : Dev :=
  match sp with
  | .hbm => d.hbmWrite a bs
  | .host => { d with host := d.host.writes a bs }

/-- R232: the scrub of a word: no error, one that it corrects (`some true`), or one that it cannot; an uncorrectable word counts against its channel. -/
def execHbmScrub (a : Nat) (bad : Option Bool) (s : State) : Res := onDevR s fun nv _ d =>
  if hbmTop ≤ a ∨ nv.hole a then d
  else match bad with
    | none => d
    | some true => d.countErr nv a (fun x => { x with corrected := d.now :: x.corrected })
    | some false => d.countErr nv a (fun x => { x with words := (d.now, a / 32) :: x.words })

end Sys2Proof.Machine
end

