-- ==== Sys2Proof/Machine/Admin.lean ====
section
/-! DEFINITION. Administration and memory commands: NOP, IDENTIFY, features, queue binding, maps, logs, COPY, FILL and the end of a transfer (R25, R26, R35, R45, R46, R336, R369; Tables 2.15, 2.17, 2.20). -/
namespace Sys2Proof.Machine
open Sys2Proof

/-- Completes with a 64-bit figure in the two counters. -/
def Dev.finish64 (d : Dev) (f : Nat) (st : Status) (v : Nat) : Dev := d.finish f st (v % 2 ^ 32) (v / 2 ^ 32 % 2 ^ 32)
def Dev.settle64 (d : Dev) (f : Nat) (st : Status) (v : Nat) : Dev := d.settle f st (v % 2 ^ 32) (v / 2 ^ 32 % 2 ^ 32)

def execNop (f : Nat) (s : State) : Res := onDev s fun d => d.onFlight f 0x00 fun _ => d.finish f .ok 0 0

/-! ### IDENTIFY -/

def checkIdentify (x : Flight) : List (Bool × Status) := [(!aligned (x.d 2) 4096, .badParam), (4 < fld (x.w 4) 0 8, .badParam)]

/-- The page's format is not in the spec: its bytes are free values of what it shows (log 14). -/
def identifyPage (nv : NonVol) (d : Dev) (x : Flight) : List Byte :=
  let fails := (KV.keep d.chanErr (fun _ c => c.failing)).keys
  (List.range 4096).map (fun i => Config.identifyByte (fld (x.w 4) 0 8) x.paddock (d.queue x.queue).fn nv.chansOut fails
    (nv.retired.map (fun e => (e.1, e.2.cause))) i)

def execIdentify (f : Nat) (s : State) : Res := onDevR s fun nv _ d => d.onFlight f 0x01 fun x =>
  Dev.finish { d with host := d.host.writes (x.d 2) (identifyPage nv d x) } f .ok 4096 0

/-! ### Features (Table 2.20) -/

def checkFeature (x : Flight) : List (Bool × Status) := [(!featureAssigned (fld (x.w 2) 0 16), .badParam)]

def execFeatureGet (f : Nat) (s : State) : Res := onDev s fun d => d.onFlight f 0x02 fun x =>
  d.finish64 f .ok (d.feature (fld (x.w 2) 0 16))

/-- Whether an installed layer table or a pinned schedule reads the Hayloft range (R228, R229). -/
def Dev.hayNamed (d : Dev) (a n : Nat) : Bool :=
  d.plans.vals.any (fun p =>
    (match p.table with
      | none => false
      | some t => t.layers.any (fun l =>
          (l.narrowSrc == 1 && overlaps a n l.narrowAddr (l.narrowBlocks * 4096)) ||
          (l.wideSrc == 1 && overlaps a n l.wideAddr (l.wideBlocks * 4096)))) ||
    (p.pinned ++ p.pinnedNext).any (fun e => e.2.any (fun x => x.source == 1 && overlaps a n x.src (x.blocks * 4096))))

def gib : Nat := 2 ^ 30
/-- A Hayloft region of Table 11.7: its first byte and its length. -/
def hayBase (v : Nat) : Nat := fld v 14 14 * gib
def hayLen (v : Nat) : Nat := fld v 0 14 * gib

/-- A region feature is refused (R228). -/
def Dev.regionBad (d : Dev) (id v : Nat) : Bool :=
  let old := d.feature id
  fld v 28 18 != 0 || 10058 < fld v 14 14 + fld v 0 14 ||
    (rangeFrom 0x120 32).any (fun i => i != id && overlaps (hayBase v) (hayLen v) (hayBase (d.feature i)) (hayLen (d.feature i))) ||
    (v != old && d.hayNamed (hayBase old) (hayLen old)) ||
    (fld v 0 14 != 0 && !KV.has d.keys (fld v 46 6))

/-- A region of 1 MiB units overlaps another such feature. -/
def Dev.hitsRegion (d : Dev) (id v : Nat) : Bool :=
  overlaps (regionBase v) (regionLen v) (regionBase (d.feature id)) (regionLen (d.feature id))

/-- The address range of a paddock's dedicated stacks (R282). -/
def Paddock.hitsDedicated (p : Paddock) (a n : Nat) : Bool :=
  overlaps a n (p.dedFirst / 32 * stackBytes) (p.dedCount / 32 * stackBytes)

/-- FEATURE_SET is refused with ST_BAD_PARAM (Tables 2.20, 4.3, 5.7, 5.8, 10.4, 11.7, 12.4, 12.7, 14.2, 15.4, 15.5). -/
def featureBad (nv : NonVol) (d : Dev) (id v : Nat) : Bool :=
  if id = 0x0001 then v == 0 || 64 < v
  else if id = 0x0002 then 1000 < v
  else if id = 0x0100 then 2 ^ 48 ≤ v || !d.plans.isEmpty || nv.reachesHole (regionBase v) (regionLen v)
  else if id = 0x0101 then 2 ^ 48 ≤ v || !d.pads.isEmpty || d.hitsRegion 0x0100 v || nv.reachesHole (regionBase v) (regionLen v)
  else if 0x0120 ≤ id ∧ id ≤ 0x013F then d.regionBad id v
  else if id = 0x0201 then 2 ^ 32 ≤ v || [0, 8, 16, 24].any (fun b => fld v b 8 == 0)
  else if id = 0x0300 then
    2 ^ 48 ≤ v || !(fld v 32 16 == 0 || fld v 32 16 == 6208) || d.hitsRegion 0x0100 v || d.hitsRegion 0x0101 v ||
      d.pads.vals.any (fun p => p.hitsDedicated (regionBase v) (regionLen v)) || nv.reachesHole (regionBase v) (regionLen v) ||
      (List.range 32).any (fun s => (d.shed s).power == .save)
  else if id = 0x0301 then 1 < v
  else if id = 0x0401 then v < fld (featureDefault 0x0400) 16 16 || fld (featureDefault 0x0400) 0 16 < v
  else if 0x0500 ≤ id ∧ id ≤ 0x0503 then 2 ^ 25 ≤ v
  else true

/-- R9, R38, R46: what a FEATURE_SET is refused for; what an earlier command may have changed since is judged again
as it runs (log 32). -/
def checkFeatureSet (nv : NonVol) (d : Dev) (x : Flight) : List (Bool × Status) :=
  checkFeature x ++ [(featureBad nv d (fld (x.w 2) 0 16) (x.d 4), .badParam)]

/-- R228: a change of KEY trims the region. -/
def Hay.trim (h : Hay) (a n : Nat) : Hay :=
  { h with mem := h.mem.clear a n, keys := h.keys.filter (fun e => !(a ≤ e.1 * 4096 && e.1 * 4096 < a + n)) }

def featureSet (nv : NonVol) (hay : Hay) (d : Dev) (f : Nat) (x : Flight) : Hay × Dev :=
  let id := fld (x.w 2) 0 16
  let v := x.d 4
  let old := d.feature id
  if featureBad nv d id v then (hay, d.finish f .badParam 0 0)
  else
    let d := Dev.finish64 { d with features := KV.put d.features id v } f .ok old
    if 0x0120 ≤ id ∧ id ≤ 0x013F ∧ fld v 46 6 ≠ fld old 46 6 then
      ((hay.trim (hayBase old) (hayLen old)).trim (hayBase v) (hayLen v), d)
    else (hay, d)

def execFeatureSet (f : Nat) (s : State) : Res := onAll s fun nv hay d =>
  match KV.find d.flights f with
  | none => (nv, hay, d)
  | some x =>
    if x.phase = .running ∧ x.opcode = 0x03 then let z := featureSet nv hay d f x; (nv, z.1, z.2) else (nv, hay, d)

/-! ### QUEUE_BIND (R25, R26) -/

def Flight.bindQueue (x : Flight) : Nat := fld (x.w 2) 0 6

/-- R25, R61, Table 2.15: the fields of a bind. -/
def checkBind (d : Dev) (x : Flight) : List (Bool × Status) :=
  if x.isUnbind then
    [(!(x.bindQueue != 0 && (d.queue x.bindQueue).state != .unbound && (d.queue x.bindQueue).paddock == x.paddock), .notInPaddock)]
  else
    let cr := fld (x.w 3) 0 11
    let sl := fld (x.w 8) 0 5
    let cl := fld (x.w 8) 8 5
    [(x.bindQueue == 0, .badParam), (cr == 0 || 1024 < cr, .badParam), (!logOk sl || !logOk cl, .badParam),
     (!aligned (x.d 4) 4096 || !aligned (x.d 6) 4096, .badParam), (2 ^ cl ≤ cr, .badParam), (fld (x.w 9) 0 11 < 3, .badParam)]

def execQueueBind (f : Nat) (s : State) : Res := onDev s fun d => d.onFlight f 0x06 fun x =>
  if x.isUnbind then d
  else if (d.queue x.bindQueue).state ≠ .unbound then d.finish f .badParam 0 0
  else
    let t := fld (x.w 9) 16 16
    let q : Queue := { Queue.blank with
      fn := fld (x.w 2) 16 6, paddock := x.paddock, credit := fld (x.w 3) 0 11, sqBase := x.d 4, cqBase := x.d 6,
      sqLog2 := fld (x.w 8) 0 5, cqLog2 := fld (x.w 8) 8 5, vector := fld (x.w 9) 0 11,
      timeoutMs := if t = 0 then 10000 else t, state := .active }
    (d.setQueue x.bindQueue q).finish f .ok 0 0

/-- R26: UNBIND. -/
def execQueueUnbind (f : Nat) (s : State) : Res := onDev s fun d => d.onFlight f 0x06 fun x =>
  if !x.isUnbind then d
  else if (d.queue x.bindQueue).state = .unbound then d.finish f .notInPaddock 0 0
  else
    let z := d.teardownQueue x.bindQueue f .unbound
    (z.1.setQueue x.bindQueue Queue.blank).finish f .ok z.2.1 z.2.2

/-! ### MAP_UPDATE (R369) -/

def checkMap (x : Flight) : List (Bool × Status) :=
  [(1 < fld (x.w 2) 0 4, .badParam), (4096 < x.w 6, .badParam), (!aligned (x.d 4) 4096, .badParam)]

/-- The entries of a map table (Table 2.24). -/
def readMap (m : Memory) (a : Nat) : Nat → List (Nat × Nat)
  | 0 => []
  | n + 1 => (m.readLE a 8, m.readLE (a + 8) 8) :: readMap m (a + 16) n

/-- Entries in increasing order, aligned, not empty, within 2^64 and without overlap. -/
def mapOk : List (Nat × Nat) → Bool
  | [] => true
  | [(b, l)] => aligned b 4096 && aligned l 4096 && l != 0 && b + l ≤ 2 ^ 64
  | (b, l) :: (b', l') :: t => aligned b 4096 && aligned l 4096 && l != 0 && b + l ≤ b' && b < b' && mapOk ((b', l') :: t)

def execMapUpdate (f : Nat) (s : State) : Res := onDevR s fun nv _ d => d.onFlight f 0x07 fun x =>
  match d.pad x.paddock with
  | none => d.finish f .notInPaddock 0 0
  | some p =>
    let es := readMap d.host (x.d 4) (x.w 6)
    if fld (x.w 2) 0 4 = 0 then
      let bad := !mapOk es || es.any (fun e => nv.reachesHole e.1 e.2 || hbmTop < e.1 + e.2 ||
        d.pads.any (fun q => q.1 != x.paddock && q.2.hitsDedicated e.1 e.2))
      if bad then d.finish f .badParam 0 0
      else
        let g := (p.hbmGen + 1) % 2 ^ 32
        Dev.finish { d with pads := KV.put d.pads x.paddock { p with hbmMap := es, hbmGen := g } } f .ok g 0
    else if !mapOk es then d.finish f .badParam 0 0
    else
      let g := (p.hostGen + 1) % 2 ^ 32
      Dev.finish { d with pads := KV.put d.pads x.paddock { p with hostMap := es, hostGen := g } } f .ok g 0

/-! ### LOG_READ (R260, R279, R317, R345) -/

/-- R345: a measurement record. -/
def measRecord (d : Dev) (i : Nat) : List Byte :=
  if i < 8 then bytesLE 48 (d.boot.meas.getD i 0).toNat ++ List.replicate 16 0
  else match d.boot.measLog.getD (i - 8) (0, 0, 0, 0) with
    | (reg, comp, ver, dig) => wordsLE [reg % 256 + (comp % 256) * 256, ver] ++ bytesLE 48 dig.toNat ++ List.replicate 8 0

/-- The records of a log and their size. -/
def logSize (d : Dev) (log : Nat) : Nat × Nat :=
  match log with
  | 1 => (16, 128)
  | 2 => (1, 32)
  | 3 => (2304, 32)
  | _ => (8 + d.boot.measLog.length, 64)

def logRecord (nv : NonVol) (d : Dev) (log i : Nat) : List Byte :=
  match log with
  | 1 => portRecord (d.port i)
  | 2 => d.gtcRecord
  | 3 => fallowRecord nv d i
  | _ => measRecord d i

def checkLog (d : Dev) (x : Flight) : List (Bool × Status) :=
  let log := fld (x.w 5) 0 8
  [(log == 0 || 4 < log, .badParam), ((logSize d log).1 ≤ x.w 6, .badParam)]

/-- R243, R260: the codewords that ports corrected since the last reading join their counts, which saturate. -/
def Dev.addCorrected (d : Dev) (corrected : List (Nat × Nat)) : Dev :=
  corrected.foldl (fun d e => d.updPort e.1 (fun x => { x with corrected := min (x.corrected + e.2) (2 ^ 64 - 1) })) d

def execLogRead (f : Nat) (corrected : List (Nat × Nat)) (s : State) : Res := onDevR s fun nv _ d => d.onFlight f 0x93 fun x =>
  let log := fld (x.w 5) 0 8
  let d := if log = 1 then d.addCorrected corrected else d
  let z := logSize d log
  let n := min (x.w 4 / z.2) (z.1 - x.w 6)
  let bs := (rangeFrom (x.w 6) n).flatMap (logRecord nv d log)
  Dev.finish { d with host := d.host.writes (x.d 2) bs } f .ok n (z.1 - x.w 6 - n)

/-! ### COPY and FILL (Table 2.17) -/

def spaceOf (n : Nat) : Space := if n = 1 then .host else .hbm

def checkCopy (d : Dev) (p : Paddock) (x : Flight) : List (Bool × Status) :=
  let ss := fld (x.w 8) 0 4
  let ds := fld (x.w 8) 4 4
  [(ss < 2 && !d.rangeOk p (spaceOf ss) (x.d 2) (x.d 6), .notInPaddock),
   (ds < 2 && !d.rangeOk p (spaceOf ds) (x.d 4) (x.d 6), .notInPaddock), (2 < ss || 2 < ds, .badParam)]

/-- The pieces of a transfer in packets of up to 4,096 bytes: offset and length (R246). -/
def pieces (n : Nat) : List (Nat × Nat) := (List.range (ceilDiv n 4096)).map (fun i => (i * 4096, min 4096 (n - i * 4096)))

/-- A WRITE of a COPY (Table 12.6). -/
def copyWrite (x : Flight) (addr : Nat) (bs : List Byte) : Pkt :=
  { kind := kWrite, vc := fld (x.w 9) 12 2, src := 0, dst := fld (x.w 9) 0 11, paddock := x.paddock, desc := 0xFFF, format := 0,
    tag := x.tag, length := bs.length, seq := 0, step := 0, offset := addr, crc := 0, payload := bs }

/-- A READ_REQ of a COPY: LENGTH is the bytes wanted. -/
def copyRead (x : Flight) (addr n : Nat) : Pkt :=
  { kind := kReadReq, vc := fld (x.w 9) 12 2, src := 0, dst := fld (x.w 9) 0 11, paddock := x.paddock, desc := 0xFFF, format := 0,
    tag := x.tag, length := n, seq := 0, step := 0, offset := addr, crc := 0, payload := [] }

/-- A local copy. Where the ranges overlap without being the same, the spec does not say what the
destination then holds: free values (log 27). -/
def Dev.copyLocal (d : Dev) (ss ds : Space) (a b n : Nat) : Dev :=
  if ss = ds ∧ a ≠ b ∧ overlaps a n b n then let z := d.freeBytes n; z.1.put ds b z.2
  else d.put ds b (d.readSpace ss a n)

/-- Sends the packets of a COPY toward a peer, or fails as R254 says. The flight waits for their answers. -/
def Dev.copyPeer (d : Dev) (f : Nat) (x : Flight) (n : Nat) : Dev :=
  let ss := fld (x.w 8) 0 4
  let ps := (pieces n).map (fun c => if ss = 2 then copyRead x (x.d 2 + c.1) c.2
    else copyWrite x (x.d 4 + c.1) (d.readSpace (spaceOf ss) (x.d 2 + c.1) c.2))
  match d.sendAll (some f) 0 ps with
  | (d, none) => d.settle f .ok 0 0
  | (d, some st) => d.finish f st 0 0

/-- How far into a range of n bytes an address lies; 0 outside it. -/
def offsetIn (a base n : Nat) : Nat := if base ≤ a ∧ a < base + n then a - base else 0

/-- COPY: the data moves; the entry is written when the transfer is done. An error of a read or a write leaves what
came before it (Tables 2.22, 11.8). -/
def Dev.copyRun (d : Dev) (nv : NonVol) (f : Nat) (x : Flight) (mf : MemFault) : Dev :=
  let n := x.d 6
  let ss := fld (x.w 8) 0 4
  let ds := fld (x.w 8) 4 4
  let z := if ss = 0 ∨ ds = 0 then d.memFault nv f mf else (d, none)
  let bad := z.2.orElse (fun _ => if ss = 0 then z.1.poisoned (x.d 2) n else none)
  if n = 0 then d.finish f .empty 0 0
  else match bad with
    | some a =>
      let k := if ss = 0 then offsetIn a (x.d 2) n else if ds = 0 then offsetIn a (x.d 4) n else 0
      let d := if ds < 2 then z.1.copyLocal (spaceOf ss) (spaceOf ds) (x.d 2) (x.d 4) k else z.1
      d.settle64 f .memUncorrectable a
    | none =>
      if ss = 2 ∨ ds = 2 then z.1.copyPeer f x n
      else (z.1.copyLocal (spaceOf ss) (spaceOf ds) (x.d 2) (x.d 4) n).settle64 f .ok n

def execCopy (f : Nat) (mf : MemFault) (s : State) : Res := onDevR s fun nv _ d => d.onFlight f 0x20 fun x => d.copyRun nv f x mf

def checkFill (d : Dev) (p : Paddock) (x : Flight) : List (Bool × Status) :=
  let sp := fld (x.w 7) 0 4
  [(sp < 2 && !d.rangeOk p (spaceOf sp) (x.d 2) (x.d 4), .notInPaddock), (1 < sp, .badParam)]

/-- Byte i of a pattern repeated from the destination. -/
def patternBytes (pat n : Nat) : List Byte := (List.range n).map (fun i => BitVec.ofNat 8 (pat >>> (8 * (i % 4))))

def execFill (f : Nat) (mf : MemFault) (s : State) : Res := onDevR s fun nv _ d => d.onFlight f 0x21 fun x =>
  if x.d 4 = 0 then d.finish f .empty 0 0
  else d.withFault nv f (if fld (x.w 7) 0 4 = 0 then mf else .none) fun d =>
    (d.put (spaceOf (fld (x.w 7) 0 4)) (x.d 2) (patternBytes (x.w 6) (x.d 4))).settle64 f .ok (x.d 4)

/-- A PORT_CONTROL still waits for its port (Table 2.22, log 37). -/
def Dev.waitsPort (d : Dev) (f : Nat) : Bool := d.ports.vals.any (fun x => x.waiter == some f)

/-- R35: the transfer of a data-moving command is done once every packet of it is answered: its entry is
written, or waits for a slot. -/
def execTransferDone (f : Nat) (s : State) : Res := onDev s fun d =>
  match KV.find d.flights f with
  | none => d
  | some x => if x.phase = .moving ∧ !d.owes f ∧ !d.waitsPort f then d.retire f x else d

/-! ### Reads of host memory (R336) -/

/-- Whether a command reads host memory as it runs. -/
def Flight.readsHost (x : Flight) : Bool :=
  let op := x.opcode
  op == 0x07 || op == 0x11 || op == 0x41 || op == 0x42 || op == 0x45 || (op == 0x10 && fld (x.w 3) 0 2 == 0) || (op == 0x20 && fld (x.w 8) 0 4 == 1) ||
    (op == 0x30 && fld (x.w 8) 0 4 == 1)

/-- R336: a poisoned or error completion, or the second timeout of a read of host memory. A PLAN_LOAD has
read its whole image by the time it moves data. -/
def execPcieCompletionTimeout (f a cls : Nat) (s : State) : Res := onDev s fun d =>
  match KV.find d.flights f with
  | none => d
  | some x =>
    if (x.phase = .running ∨ (x.phase = .moving ∧ x.opcode ≠ 0x10)) ∧ x.readsHost then
      (d.postP evHostReadError x.paddock (x.queue + (d.queue x.queue).fn * 256 + x.tag * 65536)
        [a % 2 ^ 32, a / 2 ^ 32 % 2 ^ 32, cls]).finishMem f (2 ^ 64 - 1)
    else d

end Sys2Proof.Machine
end

