-- ==== Sys2Proof/Machine/Formats.lean ====
section
/-! DEFINITION. Number formats, exact values, rounding, block scales and FP32 steps (05 R93 to R100, R107 to R110). -/
namespace Sys2Proof.Machine
open Sys2Proof

/-- An exact value: sign and a ratio of naturals (den is never 0 in values this file makes). -/
structure Q where
  neg : Bool
  num : Nat
  den : Nat
  deriving DecidableEq, Repr

def Q.zero : Q := { neg := false, num := 0, den := 1 }
def Q.isZero (q : Q) : Bool := q.num == 0
/-- m * 2^e. -/
def Q.dy (neg : Bool) (m : Nat) (e : Int) : Q :=
  if 0 ≤ e then { neg := neg, num := m * 2 ^ e.toNat, den := 1 } else { neg := neg, num := m, den := 2 ^ (-e).toNat }
def Q.ofInt (m : Int) (e : Int) : Q := Q.dy (m < 0) m.natAbs e
def Q.nat (n : Nat) : Q := Q.dy false n 0
def Q.abs (q : Q) : Q := { q with neg := false }
def Q.negate (q : Q) : Q := { q with neg := !q.neg && q.num != 0 }
/-- The numerator with its sign. -/
def Q.top (q : Q) : Int := if q.neg then -Int.ofNat q.num else Int.ofNat q.num
def Q.ofTop (t : Int) (den : Nat) : Q := { neg := t < 0, num := t.natAbs, den := den }
def Q.add (a b : Q) : Q :=
  if a.den = b.den then Q.ofTop (a.top + b.top) a.den
  else Q.ofTop (a.top * Int.ofNat b.den + b.top * Int.ofNat a.den) (a.den * b.den)
def Q.sub (a b : Q) : Q := a.add b.negate
def Q.mul (a b : Q) : Q := Q.ofTop (a.top * b.top) (a.den * b.den)
/-- q * 2^e, with the sign of q kept where q is zero. -/
def Q.shift (q : Q) (e : Int) : Q :=
  if 0 ≤ e then { q with num := q.num * 2 ^ e.toNat } else { q with den := q.den * 2 ^ (-e).toNat }
/-- Division by a value that is not 0. -/
def Q.div (a b : Q) : Q := { neg := xor a.neg b.neg && a.num != 0, num := a.num * b.den, den := a.den * b.num }
def Q.lt (a b : Q) : Bool := a.top * Int.ofNat b.den < b.top * Int.ofNat a.den
def Q.le (a b : Q) : Bool := !b.lt a
def Q.eq (a b : Q) : Bool := a.top * Int.ofNat b.den == b.top * Int.ofNat a.den
def Q.max (a b : Q) : Q := if a.lt b then b else a

/-- The integer k with 2^k <= |q| < 2^(k+1), for q not 0. -/
def Q.ilog2 (q : Q) : Int :=
  let k : Int := Int.ofNat q.num.log2 - Int.ofNat q.den.log2
  if (Q.abs q).lt (Q.dy false 1 k) then k - 1 else k
/-- The least integer k with |q| <= 2^k, for q not 0. -/
def Q.clog2 (q : Q) : Int :=
  let k := q.ilog2
  if (Q.abs q).eq (Q.dy false 1 k) then k else k + 1

/-- What an element code reads as (R94, R106). -/
inductive Val where
  | nan
  | inf (neg : Bool)
  | fin (q : Q)
  deriving DecidableEq, Repr

def Val.zero : Val := .fin Q.zero

inductive FKind where
  /-- exponent only (E8M0) -/
  | scale
  /-- sign, exponent bits, significand bits, bias -/
  | flt (eb p bias : Nat)
  /-- two's complement with fraction bits -/
  | int (frac : Nat)
  deriving DecidableEq, Repr

/-- A row of Table 5.1. -/
structure Fmt where
  code : Nat
  bits : Nat
  kind : FKind
  hasInf : Bool
  hasNan : Bool
  nanCode : Nat
  maxN : Nat
  maxG : Int
  block : Bool
  /-- Table 5.4: M and L -/
  mM : Int
  mL : Int
  deriving DecidableEq, Repr

/-- Table 5.1 with the columns of Table 5.4. -/
def formats : List Fmt :=
  [ { code := 0x08, bits := 8, kind := .scale, hasInf := false, hasNan := true, nanCode := 0xFF, maxN := 1, maxG := 127, block := false, mM := 0, mL := 0 },
    { code := 0x10, bits := 4, kind := .flt 2 1 1, hasInf := false, hasNan := false, nanCode := 0, maxN := 3, maxG := 1, block := true, mM := 3, mL := -1 },
    { code := 0x11, bits := 4, kind := .int 2, hasInf := false, hasNan := false, nanCode := 0, maxN := 7, maxG := -2, block := true, mM := 2, mL := -2 },
    { code := 0x12, bits := 2, kind := .int 0, hasInf := false, hasNan := false, nanCode := 0, maxN := 1, maxG := 0, block := true, mM := 2, mL := 0 },
    { code := 0x13, bits := 6, kind := .flt 3 2 3, hasInf := false, hasNan := false, nanCode := 0, maxN := 7, maxG := 2, block := true, mM := 5, mL := -4 },
    { code := 0x14, bits := 6, kind := .flt 2 3 1, hasInf := false, hasNan := false, nanCode := 0, maxN := 15, maxG := -1, block := true, mM := 3, mL := -3 },
    { code := 0x20, bits := 8, kind := .flt 4 3 7, hasInf := false, hasNan := true, nanCode := 0x7F, maxN := 14, maxG := 5, block := true, mM := 9, mL := -9 },
    { code := 0x21, bits := 8, kind := .flt 5 2 15, hasInf := true, hasNan := true, nanCode := 0x7F, maxN := 7, maxG := 13, block := true, mM := 16, mL := -16 },
    { code := 0x22, bits := 8, kind := .int 6, hasInf := false, hasNan := false, nanCode := 0, maxN := 127, maxG := -6, block := true, mM := 2, mL := -6 },
    { code := 0x30, bits := 16, kind := .flt 8 7 127, hasInf := true, hasNan := true, nanCode := 0x7FC0, maxN := 255, maxG := 120, block := false, mM := 128, mL := -133 },
    { code := 0x31, bits := 16, kind := .flt 5 10 15, hasInf := true, hasNan := true, nanCode := 0x7E00, maxN := 2047, maxG := 5, block := false, mM := 16, mL := -24 },
    { code := 0x40, bits := 32, kind := .flt 8 23 127, hasInf := true, hasNan := true, nanCode := 0x7FC00000, maxN := 16777215, maxG := 104, block := false, mM := 128, mL := -149 } ]

def fmtOf (code : Nat) : Option Fmt := formats.find? (fun f => f.code == code)
/-- FP32, in which lanes and collectives compute. -/
def f32Fmt : Fmt := (formats.getD 11 { code := 0x40, bits := 32, kind := .flt 8 23 127, hasInf := true, hasNan := true, nanCode := 0x7FC00000, maxN := 16777215, maxG := 104, block := false, mM := 128, mL := -149 })
/-- The largest finite value of a format. -/
def Fmt.fmax (f : Fmt) : Q := Q.dy false f.maxN f.maxG

/-- R94: the value of an element code, without its block scale. -/
def Fmt.decode (f : Fmt) (c : Nat) : Val :=
  match f.kind with
  | .scale => if c = 0xFF then .nan else .fin (Q.dy false 1 (Int.ofNat c - 127))
  | .int fr => .fin (Q.ofInt (sext c f.bits) (-Int.ofNat fr))
  | .flt eb p bias =>
    let s := bitOf c (f.bits - 1)
    let e := fld c p eb
    let m := fld c 0 p
    if f.hasInf && e == 2 ^ eb - 1 then (if m = 0 then .inf s else .nan)
    else if f.hasNan && !f.hasInf && e == 2 ^ eb - 1 && m == 2 ^ p - 1 then .nan
    else if e = 0 then .fin (Q.dy s m (1 - Int.ofNat bias - Int.ofNat p))
    else .fin (Q.dy s (m + 2 ^ p) (Int.ofNat e - Int.ofNat bias - Int.ofNat p))

/-- R97: an element under its block scale; scale code 0xFF makes it NaN, and a −0 stays one (R94, R136). -/
def Fmt.scaled (f : Fmt) (c : Nat) (scale : Option Nat) : Val :=
  match scale with
  | none => f.decode c
  | some s =>
    if s = 0xFF then .nan
    else match f.decode c with
      | .fin q => .fin (q.shift (Int.ofNat s - 127))
      | v => v

/-- R108: rounds n + r / dd (r < dd) to an integer. Mode 0 nearest-even, 1 toward zero, 2 stochastic
with the draw of R109. -/
def roundN (mode draw n r dd : Nat) : Nat :=
  if r = 0 then n
  else match mode with
    | 1 => n
    | 2 => if draw < 65536 * r / dd then n + 1 else n
    | _ => if 2 * r < dd then n else if dd < 2 * r then n + 1 else n + n % 2

/-- |q| on the grid 2^g, rounded. -/
def Q.toGrid (q : Q) (g : Int) (mode draw : Nat) : Nat :=
  let x := if 0 ≤ g then (q.num, q.den * 2 ^ g.toNat) else (q.num * 2 ^ (-g).toNat, q.den)
  roundN mode draw (x.1 / x.2) (x.1 % x.2) x.2

/-- The grid exponent of a format at |q|. -/
def Fmt.grid (f : Fmt) (q : Q) : Int :=
  match f.kind with
  | .scale => 0
  | .int fr => -Int.ofNat fr
  | .flt _ p bias =>
    let gmin : Int := 1 - Int.ofNat bias - Int.ofNat p
    if q.isZero then gmin else max (q.ilog2 - Int.ofNat p) gmin

/-- The code of +-n * 2^g. -/
def Fmt.encode (f : Fmt) (neg : Bool) (n : Nat) (g : Int) : Nat :=
  match f.kind with
  | .scale => (g + 127).toNat
  | .int _ => if neg then twos (-Int.ofNat n) f.bits else n
  | .flt eb p bias =>
    let s := if neg then 2 ^ (eb + p) else 0
    let n' := if n = 2 ^ (p + 1) then n / 2 else n
    let g' := if n = 2 ^ (p + 1) then g + 1 else g
    if n' < 2 ^ p then s + n'
    else s + (g' + Int.ofNat p + Int.ofNat bias).toNat * 2 ^ p + (n' - 2 ^ p)

/-- The code of an infinity, for a format that has one. -/
def Fmt.infCode (f : Fmt) (neg : Bool) : Nat :=
  match f.kind with
  | .flt eb p _ => (if neg then 2 ^ (eb + p) else 0) + (2 ^ eb - 1) * 2 ^ p
  | _ => 0

/-- One written element: its code and what the tile status counts (R100, R107, R110). -/
structure WElem where
  code : Nat
  sat : Bool
  clamped : Bool
  zeroed : Bool
  deriving DecidableEq, Repr

def WElem.plain (c : Nat) : WElem := { code := c, sat := false, clamped := false, zeroed := false }

/-- How a destination rounds: ROUND in force, OVF, and whether the inputs were special (R136). -/
structure Dst where
  mode : Nat
  nonsat : Bool
  deriving DecidableEq, Repr

/-- Table 5.3: an element that overflows, in a format with a code for it or clamped under SAT. A clamped element
sets F_SATURATED whether or not R136 lets it count (R100). -/
def Fmt.overflow (f : Fmt) (o : Dst) (neg counted : Bool) : WElem :=
  if !o.nonsat then { code := f.encode neg f.maxN f.maxG, sat := counted, clamped := true, zeroed := false }
  else { code := if f.hasInf then f.infCode neg else f.nanCode, sat := counted, clamped := false, zeroed := false }

/-- R107, R108, R110: a finite exact value rounded into a format, with its block scale taken out. -/
def Fmt.roundFin (f : Fmt) (o : Dst) (draw : Nat) (q : Q) : WElem :=
  if q.isZero then WElem.plain 0
  else
    let g := f.grid q
    let n := q.toGrid g o.mode draw
    if f.fmax.lt (Q.dy false n g) then f.overflow o q.neg true
    else { code := f.encode q.neg n g, sat := false, clamped := false, zeroed := n == 0 }

/-- A value to be written: the value, its draw, and whether it came from a special input (R136). -/
structure WIn where
  v : Val
  draw : Nat
  special : Bool
  deriving DecidableEq, Repr

/-- R107, Table 7.2: an exact zero is +0; a special input's -0 is -0 where the format has it. -/
def Fmt.zeroCode (f : Fmt) (special neg : Bool) : Nat :=
  match f.kind with
  | .flt eb p _ => if special && neg then 2 ^ (eb + p) else 0
  | _ => 0

/-- R95, R100, R107, R136: one element of a format without block scale. -/
def Fmt.writeScalar (f : Fmt) (o : Dst) (x : WIn) : WElem :=
  match x.v with
  | .nan => WElem.plain f.nanCode
  | .inf n => f.overflow o n (!x.special)
  | .fin q => if q.isZero then WElem.plain (f.zeroCode x.special q.neg) else f.roundFin o x.draw q

/-- R99: |q| rounded to FP32 under nearest-even; none when it passes the largest finite value. -/
def f32Mag (q : Q) : Option Q :=
  if q.isZero then some Q.zero
  else
    let g := f32Fmt.grid q
    let n := q.toGrid g 0 0
    if f32Fmt.fmax.lt (Q.dy false n g) then none else some (Q.dy false n g)

/-- R99: a_max of a block's finite elements; none when one passes the FP32 range. -/
def blockMax : List (Option WIn) → Option Q
  | [] => some Q.zero
  | x :: xs =>
    match blockMax xs with
    | none => none
    | some m =>
      match x with
      | some { v := .fin q, draw := _, special := _ } => (f32Mag q.abs).map (fun a => a.max m)
      | _ => some m

/-- R99: the exponent of the scale that the finite elements need; none when it passes 2^127. -/
def Fmt.scaleExp (f : Fmt) (xs : List (Option WIn)) : Option Int :=
  match blockMax xs with
  | none => none
  | some a =>
    if a.isZero then some (-127)
    else
      let k := (a.div f.fmax).clog2
      if 127 < k then none else some (max k (-127))

def isNanIn : Option WIn → Bool
  | some { v := .nan, draw := _, special := _ } => true
  | _ => false
def isInfIn : Option WIn → Bool
  | some { v := .inf _, draw := _, special := _ } => true
  | _ => false
/-- An infinity that counts as an overflow (R136). -/
def isOverIn : Option WIn → Bool
  | some { v := .inf _, draw := _, special := false } => true
  | _ => false

/-- What a free code of a NaN block may depend on: the values that are written (R113). -/
def valKey : Option WIn → Nat × Nat × Nat
  | none => (0, 0, 0)
  | some { v := .nan, draw := _, special := _ } => (1, 0, 0)
  | some { v := .inf n, draw := _, special := _ } => (2, b2n n, 0)
  | some { v := .fin q, draw := _, special := _ } => (3 + b2n q.neg, q.num, q.den)

/-- R95: the most negative code of an integer format is never written. -/
def Fmt.symmetric (f : Fmt) (c : Nat) : Nat :=
  match f.kind with
  | .int _ => if c = 2 ^ (f.bits - 1) then 0 else c
  | _ => c

/-- The code of element `i` of a block with scale 0xFF: open, since the block reads as NaN whatever it is (R97);
never the most negative integer (R95). A free value (log 12). -/
def Fmt.nanBlockCode (f : Fmt) (xs : List (Option WIn)) (i : Nat) : Nat :=
  f.symmetric (Config.nanCode f.code (xs.map valKey) i % 2 ^ f.bits)

/-- R99, R100: one block of a block-scaled format: its scale code and its elements. Where a NaN element gives the
block scale 0xFF under SAT, its overflowing elements are neither clamped nor counted: R100 does not say which
outcome wins (DESIGN CHOICE, log 66). -/
def Fmt.writeBlock (f : Fmt) (o : Dst) (xs : List (Option WIn)) : Nat × List (Option WElem) :=
  let e := f.scaleExp xs
  let isOver := e.isNone
  let s := e.getD 127
  let anyInf := xs.any isInfIn
  let anyNan := xs.any isNanIn
  let nanBlock := !f.hasNan && (anyNan || (o.nonsat && (isOver || anyInf)))
  let counts := !f.hasNan && o.nonsat && (isOver || xs.any isOverIn)
  if nanBlock then
    (0xFF, (xs.zipIdx).map (fun x => x.1.map (fun _ =>
      { code := f.nanBlockCode xs x.2, sat := counts, clamped := false, zeroed := false })))
  else
    ((s + 127).toNat, xs.map (fun x => x.map (fun i =>
      match i.v with
      | .fin q => f.writeScalar o { i with v := .fin (q.shift (-s)) }
      | _ => f.writeScalar o i)))

/-! ### Stochastic draws (R109) -/

def m64 (n : Nat) : Nat := n % 2 ^ 64

/-- One round of R109's mixing. -/
def mix109 (z : Nat) : Nat :=
  let a := m64 ((z ^^^ (z >>> 31)) * 0xA3C59AC2F48E51D7)
  let b := m64 ((a ^^^ (a >>> 29)) * 0x8EB3C1F62D7A4B65)
  b ^^^ (b >>> 32)

/-- R109: one 16-bit draw. -/
def draw109 (seed tag desc step idx : Nat) : Nat :=
  let salt := m64 (step <<< 40 ||| desc <<< 16 ||| tag)
  (mix109 (mix109 (m64 (idx + seed) ^^^ salt))) >>> 48

/-! ### Operations on values (R106) -/

def Val.add : Val → Val → Val
  | .nan, _ => .nan
  | _, .nan => .nan
  | .inf a, .inf b => if a = b then .inf a else .nan
  | .inf a, _ => .inf a
  | _, .inf b => .inf b
  | .fin a, .fin b => .fin (a.add b)

def Val.mul : Val → Val → Val
  | .nan, _ => .nan
  | _, .nan => .nan
  | .inf a, .inf b => .inf (xor a b)
  | .inf a, .fin q => if q.isZero then .nan else .inf (xor a q.neg)
  | .fin q, .inf b => if q.isZero then .nan else .inf (xor q.neg b)
  | .fin a, .fin b => .fin (a.mul b)

def Val.negate : Val → Val
  | .nan => .nan
  | .inf a => .inf (!a)
  | .fin q => .fin q.negate

/-- Division; a non-zero value by zero gives an infinity, 0/0 and Inf/Inf give NaN. -/
def Val.div : Val → Val → Val
  | .nan, _ => .nan
  | _, .nan => .nan
  | .inf _, .inf _ => .nan
  | .inf a, .fin q => .inf (xor a q.neg)
  | .fin _, .inf _ => .fin Q.zero
  | .fin a, .fin b => if b.isZero then (if a.isZero then .nan else .inf (xor a.neg b.neg)) else .fin (a.div b)

/-- a < b on values that are not NaN. -/
def Val.lt : Val → Val → Bool
  | .nan, _ => false
  | _, .nan => false
  | .inf a, .inf b => a && !b
  | .inf a, .fin _ => a
  | .fin _, .inf b => !b
  | .fin a, .fin b => a.lt b

/-! ### FP32 steps, each rounded once to nearest-even -/

/-- A value as an FP32 code; past the largest finite value it is an infinity (R131). -/
def toF32 (v : Val) : Nat := (f32Fmt.writeScalar { mode := 0, nonsat := true } { v := v, draw := 0, special := true }).code
def ofF32 (c : Nat) : Val := f32Fmt.decode c
def f32Add (a b : Nat) : Nat := toF32 ((ofF32 a).add (ofF32 b))
def f32Sub (a b : Nat) : Nat := toF32 ((ofF32 a).add (ofF32 b).negate)
def f32Mul (a b : Nat) : Nat := toF32 ((ofF32 a).mul (ofF32 b))
/-- R131: rounded to FP32 and read back. -/
def Val.f32 (v : Val) : Val := ofF32 (toF32 v)

/-! ### The wide form: 24 significand bits (R118, R137) -/

def Q.wide (q : Q) : Q :=
  if q.isZero then Q.zero
  else
    let g := q.ilog2 - 23
    Q.dy q.neg (q.toGrid g 0 0) g

/-- The square root's integer part, bit by bit. -/
def isqrtBits (n : Nat) : Nat → Nat → Nat
  | 0, r => r
  | b + 1, r => let t := r + 2 ^ b; isqrtBits n b (if t * t ≤ n then t else r)
def isqrt (n : Nat) : Nat := isqrtBits n (n.log2 / 2 + 1) 0

/-- The square root of a non-negative value, rounded once to FP32 nearest-even. DEDUCED (log 20). -/
def sqrtF32 (q : Q) : Nat :=
  if q.isZero then 0
  else
    let k : Int := (q.ilog2) / 2
    let g : Int := max (k - 23) (-149)
    let x : Q := q.mul (Q.dy false 1 (-2 * g))
    let n := isqrt (x.num / x.den)
    let up := (Q.nat ((2 * n + 1) * (2 * n + 1))).lt (x.mul (Q.nat 4))
    let tie := (Q.nat ((2 * n + 1) * (2 * n + 1))).eq (x.mul (Q.nat 4))
    toF32 (.fin (Q.dy false (if up then n + 1 else if tie then n + n % 2 else n) g))

end Sys2Proof.Machine
end

