-- ==== Sys2Proof/Machine/Hayloft.lean ====
section
/-! DEFINITION. The Hayloft: regions, keys, reads, writes, trims, status and relocation (R214, R227 to R231). -/
namespace Sys2Proof.Machine
open Sys2Proof

/-- R227: the logical space. -/
def hayTop : Nat := 2636718720 * 4096
def Hay.stack (h : Hay) (s : Nat) : HayStack := KV.getD h.stackTab s HayStack.blank
/-- R227: stripe k lies on stack k mod 12. -/
def stackOfBlock (b : Nat) : Nat := b / 16 % 12

/-- The region feature that holds a byte. -/
def Dev.hayRegion (d : Dev) (a : Nat) : Option Nat :=
  ((rangeFrom 0x120 32).map d.feature).find? (fun v => hayBase v ≤ a && a < hayBase v + hayLen v)

/-- The regions that a range meets, in order of address, with fuel for their number; none when some byte
lies outside every region. -/
def Dev.hayRegions (d : Dev) : Nat → Nat → Nat → Option (List Nat)
  | _, _, 0 => some []
  | 0, _, _ => none
  | fuel + 1, a, n =>
    match d.hayRegion a with
    | none => none
    | some v =>
      let e := hayBase v + hayLen v - a
      if n ≤ e then some [v] else (d.hayRegions fuel (a + e) (n - e)).map (v :: ·)

/-- R228: the range lies in regions with keys that the paddock may read. -/
def Dev.hayReadable (d : Dev) (pad a n : Nat) : Bool :=
  match d.hayRegions 32 a n with
  | none => false
  | some vs => vs.all (fun v => (fld v 52 12 == 0xFFF || fld v 52 12 == pad) && KV.has d.keys (fld v 46 6))

/-- R228: the range lies in regions with keys. -/
def Dev.hayWritable (d : Dev) (a n : Nat) : Bool :=
  match d.hayRegions 32 a n with
  | none => false
  | some vs => vs.all (fun v => KV.has d.keys (fld v 46 6))

/-- The key of the region that holds a byte. -/
def Dev.hayKey (d : Dev) (a : Nat) : Option (BitVec 512) := (d.hayRegion a).bind (fun v => KV.find d.keys (fld v 46 6))

/-- R227, R228: one byte as the E9 reads it: zero in a block never written or trimmed, the data under the
key it was written under, a free value under another. -/
def hayByte (h : Hay) (d : Dev) (a : Nat) : Byte :=
  let b := a / 4096
  match KV.find h.keys b with
  | none => h.mem.read a
  | some kw => match d.hayKey a with
    | none => 0
    | some kr => if kr = kw then h.mem.read a else Config.crossKey kr kw b (a % 4096) (h.mem.read a)

def hayReads (h : Hay) (d : Dev) (a n : Nat) : List Byte := (rangeFrom a n).map (hayByte h d)

/-- R231: the first block of a range that fails: the one the environment reports, or one marked failed. -/
def Hay.firstBad (h : Hay) (a n : Nat) (bad : Option Nat) : Option Nat :=
  let inside := fun b => decide (b * 4096 < a + n) && decide (a < b * 4096 + 4096)
  (bad.toList ++ h.failed).filter inside |>.foldl (fun m b => match m with
    | none => some b
    | some c => some (min b c)) none

/-- R231: a block that failed is marked until it is written again. -/
def Hay.markFailed (h : Hay) (b : Nat) : Hay := if h.failed.contains b then h else { h with failed := b :: h.failed }

/-! ### HAYLOFT_WRITE, HAYLOFT_TRIM (R214, R227 to R229) -/

/-- Blocks of a range. -/
def blocksOf (a n : Nat) : List Nat := rangeFrom (a / 4096) (ceilDiv (a % 4096 + n) 4096)

def checkHayWrite (hay : Hay) (d : Dev) (p : Paddock) (x : Flight) : List (Bool × Status) :=
  let n := x.d 6
  let sp := fld (x.w 8) 0 4
  let inside := aligned (x.d 2) 4096 && aligned n 4096 && x.d 2 + n ≤ hayTop
  [(sp < 2 && !d.rangeOk p (spaceOf sp) (x.d 4) n, .notInPaddock), (inside && !d.hayWritable (x.d 2) n, .notInPaddock),
   (!inside || 1 < sp, .badParam), (d.hayNamed (x.d 2) n, .badParam),
   ((match d.hayRegions 32 (x.d 2) n with | some vs => 1 < vs.length | none => false), .badParam),
   ((List.range 12).any (fun k => (hay.stack k).reserve == 0 && (blocksOf (x.d 2) n).any (fun b => stackOfBlock b == k)), .badParam),
   (p.cls != .maintenance, .modeRefused)]

/-- Writes blocks under the region's key; a written block is no longer marked failed. -/
def hayStore (h : Hay) (d : Dev) (a : Nat) (bs : List Byte) : Hay :=
  let blocks := blocksOf a bs.length
  { h with
    mem := h.mem.writes a bs,
    keys := blocks.foldl (fun t b => match d.hayKey (b * 4096) with
      | some k => KV.put t b k
      | none => t) h.keys,
    failed := h.failed.filter (fun b => !blocks.contains b) }

/-- HAYLOFT_WRITE: a block of HBM that cannot be read ends it, and nothing is written (log 65). -/
def hayWrite (nv : NonVol) (h : Hay) (d : Dev) (f : Nat) (x : Flight) (mf : MemFault) : Hay × Dev :=
  let n := x.d 6
  let z := if fld (x.w 8) 0 4 = 0 then d.memFault nv f mf else (d, none)
  let d := z.1
  match z.2.orElse (fun _ => if fld (x.w 8) 0 4 = 0 then d.poisoned (x.d 4) n else none) with
  | some a => (h, d.finishMem f a)
  | none => (hayStore h d (x.d 2) (d.readSpace (spaceOf (fld (x.w 8) 0 4)) (x.d 4) n),
    Dev.settle64 { d with restSince := d.now } f .ok n)

/-- A row on a running command that may change the Hayloft. -/
def onHayFlight (f op : Nat) (s : State) (g : NonVol → Hay → Dev → Flight → Hay × Dev) : Res := onHay s fun h d =>
  match KV.find d.flights f with
  | none => (h, d)
  | some x => if x.phase = .running ∧ x.opcode = op then g s.nv h d x else (h, d)

def execHayloftWrite (f : Nat) (mf : MemFault) (s : State) : Res := onHayFlight f 0x30 s fun nv h d x => hayWrite nv h d f x mf

def checkHayTrim (d : Dev) (p : Paddock) (x : Flight) : List (Bool × Status) :=
  let inside := aligned (x.d 2) 4096 && aligned (x.d 4) 4096 && x.d 2 + x.d 4 ≤ hayTop
  [(inside && !d.hayWritable (x.d 2) (x.d 4), .notInPaddock), (!inside, .badParam), (p.cls != .maintenance, .modeRefused)]

def execHayloftTrim (f : Nat) (s : State) : Res := onHayFlight f 0x32 s fun _ h d x =>
  (h.trim (x.d 2) (x.d 4), Dev.finish64 { d with restSince := d.now } f .ok (x.d 4))

/-! ### HAYLOFT_READ, HAYLOFT_STATUS (R227, R231) -/

def checkHayRead (d : Dev) (p : Paddock) (pad : Nat) (x : Flight) : List (Bool × Status) :=
  let n := x.d 6
  let sp := fld (x.w 8) 0 4
  let inside := x.d 2 + n ≤ hayTop
  [(sp < 2 && !d.rangeOk p (spaceOf sp) (x.d 4) n, .notInPaddock), (inside && !d.hayReadable pad (x.d 2) n, .notInPaddock),
   (!inside || 1 < sp, .badParam)]

/-- R231: the data before a failing block is written; the block is marked. A failed write of HBM ends it. -/
def hayRead (nv : NonVol) (h : Hay) (d : Dev) (f : Nat) (x : Flight) (bad : Option Nat) (mf : MemFault) : Hay × Dev :=
  let n := x.d 6
  let sp := spaceOf (fld (x.w 8) 0 4)
  let z := if sp = .hbm then d.memFault nv f mf else (d, none)
  if n = 0 then (h, d.finish f .empty 0 0)
  else match z with
  | (d, some a) => (h, d.finishMem f a)
  | (d, none) => match h.firstBad (x.d 2) n bad with
    | none => (h, (d.put sp (x.d 4) (hayReads h d (x.d 2) n)).settle64 f .ok n)
    | some b =>
      let k := b * 4096 - x.d 2
      (h.markFailed b, (d.put sp (x.d 4) (hayReads h d (x.d 2) k)).settle64 f .hayloftReadFail k)

def execHayloftRead (f : Nat) (bad : Option Nat) (mf : MemFault) (s : State) : Res :=
  onHayFlight f 0x31 s fun nv h d x => hayRead nv h d f x bad mf

/-- R231: the status page. The places of the fields within a record are not in the spec (log 14). -/
def hayPage (h : Hay) : List Byte :=
  (List.range 12).flatMap (fun s =>
    let x := h.stack s
    let fails := (h.failed.filter (fun b => stackOfBlock b == s)).length
    (List.range 64).map (Config.hayStatusByte [x.reserve, x.badBlocks, x.eraseMean, x.eraseMax, x.relocating, fails, x.temp])) ++
    List.replicate (4096 - 768) 0

def execHayloftStatus (f : Nat) (s : State) : Res := onDevR s fun _ h d => d.onFlight f 0x33 fun x =>
  Dev.finish { d with host := d.host.writes (x.d 2) (hayPage h) } f .ok 10800
    ((List.range 12).foldl (fun m k => min m (h.stack k).reserve) 1000)

/-- R230: the figures of a stack after a relocation; EV_HAYLOFT_RESERVE_LOW at 250 per mille and at every
further fall of 50. -/
def relocate (h : Hay) (d : Dev) (stack : Nat) (after : HayStack) : Hay × Dev :=
  let before := (h.stack stack).reserve
  let marks := [250, 200, 150, 100, 50, 0].filter (fun t => after.reserve ≤ t && t < before)
  ({ h with stackTab := KV.put h.stackTab stack after },
    marks.foldl (fun d _ => d.postD evHayloftReserveLow stack [after.reserve]) { d with restSince := d.now })

def execHayloftRelocation (stack : Nat) (after : HayStack) (s : State) : Res := onHay s fun h d => relocate h d stack after

end Sys2Proof.Machine
end

