-- ==== Sys2Proof/Machine/Seqs.lean ====
section
/-! DEFINITION. Key-value pages: page lists, the pool, victims, the walk, SEQ_ commands and POOL_SET (chapter 8, R145 to R169). -/
namespace Sys2Proof.Machine
open Sys2Proof

def pageBytes : Nat := 2 ^ 18

/-! ### The page list (R146, R147, Tables 8.1 to 8.3) -/

/-- The 256-byte header of a sequence's list. -/
def Dev.hdr (d : Dev) (q : Seq) : List Byte := d.hbm.reads q.list 256
def hTokens (h : List Byte) : Nat := w32 h 8
def hRow (h : List Byte) : Nat := fld (w32 h 12) 16 11
def hPrio (h : List Byte) : Nat := fld (w32 h 12) 8 2
def hFmt (h : List Byte) : Nat := fld (w32 h 12) 0 8
def hFirst (h : List Byte) : Nat := w32 h 16
def hMaskWords (h : List Byte) : Nat := fld (w32 h 20) 0 16
def hMaskAddr (h : List Byte) : Nat := leAt h 24 8
def hRemote (h : List Byte) : Nat := leAt h 32 8
def hAfter (h : List Byte) : Nat := fld (w32 h 40) 16 16
def hBefore (h : List Byte) : Nat := fld (w32 h 40) 0 16
def hPeers (h : List Byte) : Nat := fld (w32 h 44) 0 4

/-- R145: formats with block scales keep E8M0 rows after the 256 token rows. -/
def kvScaled (fmt : Nat) : Bool := fmt == 0x20 || fmt == 0x21 || fmt == 0x22
def kvFormats : List Nat := [0x20, 0x21, 0x22, 0x30, 0x31]
/-- Bytes of a page that hold rows and scales (R145, R159). -/
def usedBytes (fmt row : Nat) : Nat := 256 * row + (if kvScaled fmt then 256 * (row / 32) else 0)

/-- R150: entries of the record region. -/
def Seq.entries (q : Seq) : Nat := (q.maxBlocks + 32) * q.layers * 2 * q.groups
def Seq.listBytes (q : Seq) : Nat := 256 + 4 * q.entries
/-- The byte address of page entry p of record e. -/
def Seq.entryAt (q : Seq) (e p : Nat) : Nat := q.list + 256 + 4 * (e * 2 * q.groups + p)
def Seq.mainRec (q : Seq) (b l : Nat) : Nat := b * q.layers + l
def Seq.branchRec (q : Seq) (c j l : Nat) : Nat := q.maxBlocks * q.layers + (4 * c + j) * q.layers + l

/-- Every entry address of the list, or those of some records. -/
def Seq.allAddrs (q : Seq) : List Nat := (List.range q.entries).map (fun i => q.list + 256 + 4 * i)
def Seq.recAddrs (q : Seq) (e : Nat) : List Nat := (List.range (2 * q.groups)).map (q.entryAt e)
/-- The entries of the main records of blocks b to b + n - 1. -/
def Seq.blockAddrs (q : Seq) (b n : Nat) : List Nat :=
  (rangeFrom b n).flatMap (fun b => (List.range q.layers).flatMap (fun l => q.recAddrs (q.mainRec b l)))
def Seq.branchAddrs (q : Seq) : List Nat :=
  (List.range (32 * q.layers)).flatMap (fun i => q.recAddrs (q.maxBlocks * q.layers + i))

def eKind (w : Nat) : Nat := fld w 30 2
def eIndex (w : Nat) : Nat := fld w 0 24
def poolEntry (i : Nat) : Nat := 2 ^ 30 + i
def swapEntry (i : Nat) : Nat := 2 ^ 31 + i

def Dev.ent (d : Dev) (a : Nat) : Nat := d.hbm.readLE a 4
def Dev.setEnt (d : Dev) (a w : Nat) : Dev := { d with hbm := d.hbm.writeLE a 4 w }

/-- R156: bytes of the mask map. -/
def maskBytes (h : List Byte) (maxBlocks : Nat) : Nat :=
  if hMaskWords h = 0 then 0 else maxBlocks * (8 + 4 * hMaskWords h)

/-- Table 8.1, W1: CRC-32C of the record region followed by the mask map. -/
def Dev.listCrc (d : Dev) (q : Seq) : Nat :=
  let h := d.hdr q
  crc32c (d.hbm.reads (q.list + 256) (4 * q.entries) ++ d.hbm.reads (hMaskAddr h) (maskBytes h q.maxBlocks))

def Dev.updSeq (d : Dev) (k : Nat) (g : Seq → Seq) : Dev := { d with seqs := KV.upd d.seqs k g }

/-- R153: the list has changed: GENERATION rises when asked for, and CRC is rewritten. -/
def Dev.sealList (d : Dev) (k : Nat) (bump : Bool) : Dev :=
  match KV.find d.seqs k with
  | none => d
  | some q =>
    let g := if bump then (q.gen + 1) % 2 ^ 32 else q.gen
    let d := { d with hbm := d.hbm.writeLE q.list 4 g }
    let c := d.listCrc q
    Dev.updSeq { d with hbm := d.hbm.writeLE (q.list + 4) 4 c } k (fun q => { q with gen := g, crc := c })

/-- R162: GENERATION and CRC are those of the E9. -/
def Dev.listOk (d : Dev) (q : Seq) : Bool := d.hbm.readLE q.list 4 == q.gen && d.hbm.readLE (q.list + 4) 4 == q.crc && d.listCrc q == q.crc

def Dev.markStale (d : Dev) (k : Nat) : Dev := d.updSeq k (fun q => { q with stale := true })

/-! ### The pool (R148, R149) -/

def Dev.pool (d : Dev) (pad : Nat) : Option Pool := (d.pad pad).bind (·.pool)
def Dev.setPool (d : Dev) (pad : Nat) (g : Pool → Pool) : Dev :=
  { d with pads := KV.upd d.pads pad (fun p => { p with pool := p.pool.map g }) }

def Pool.freePages (p : Pool) : Nat := p.pages - p.refs.length
def Pool.freeSlots (p : Pool) : Nat := p.swapSlots - p.swapUsed.length
def Pool.count (p : Pool) (i : Nat) : Nat := KV.getD p.refs i 0

/-- Gives out a free page, zero-filled (R149). -/
def Dev.takePage (d : Dev) (pad : Nat) : Option (Dev × Nat) :=
  match d.pool pad with
  | none => none
  | some p =>
    (pickOf d.free ((List.range p.pages).filter (fun i => !KV.has p.refs i))).map (fun i =>
      (({ d with free := d.free + 1, hbm := d.hbm.clear (p.base + i * pageBytes) pageBytes,
                                poison := d.poison.filter (fun w => !(p.base + i * pageBytes ≤ w * 32 && w * 32 + 32 ≤ p.base + (i + 1) * pageBytes)) }).setPool pad
        (fun p => { p with refs := KV.put p.refs i 1 }), i))

/-- Drops one reference. -/
def Dev.dropRef (d : Dev) (pad i : Nat) : Dev :=
  d.setPool pad (fun p => { p with refs := if p.count i ≤ 1 then KV.del p.refs i else KV.put p.refs i (p.count i - 1) })
def Dev.addRef (d : Dev) (pad i : Nat) : Dev := d.setPool pad (fun p => { p with refs := KV.put p.refs i (p.count i + 1) })

/-- Releases what an entry holds and sets it to NONE. -/
def Dev.release (d : Dev) (k pad a : Nat) : Dev :=
  let w := d.ent a
  let d := d.setEnt a 0
  if eKind w = 1 then (d.dropRef pad (eIndex w)).updSeq k (fun q => { q with held := q.held.erase (eIndex w) })
  else if eKind w = 2 then
    (d.setPool pad (fun p => { p with swapUsed := p.swapUsed.erase (eIndex w) })).updSeq k
      (fun q => { q with slots := q.slots.erase (eIndex w) })
  else d

/-- Enters a page that the sequence now holds a reference to. -/
def Dev.enter (d : Dev) (k a i : Nat) : Dev := (d.setEnt a (poolEntry i)).updSeq k (fun q => { q with held := i :: q.held })

/-- Takes a page for an entry that is NONE. -/
def Dev.fillEntry (d : Dev) (k pad a : Nat) : Option Dev := (d.takePage pad).map (fun z => z.1.enter k a z.2)

/-! ### Swapping (R152, R164, R165) -/

/-- Entries whose pool page has count 1. -/
def Dev.ownEntries (d : Dev) (q : Seq) : List Nat :=
  match d.pool q.paddock with
  | none => []
  | some p => q.allAddrs.filter (fun a => eKind (d.ent a) == 1 && p.count (eIndex (d.ent a)) == 1)
def Dev.swapEntries (d : Dev) (q : Seq) : List Nat := q.allAddrs.filter (fun a => eKind (d.ent a) == 2)

/-- Moves one page to a free swap slot. -/
def Dev.pageOut (d : Dev) (k pad a : Nat) : Dev :=
  match d.pool pad with
  | none => d
  | some p =>
    match pickOf d.free ((List.range p.swapSlots).filter (fun s => !p.swapUsed.contains s)) with
    | none => d
    | some s =>
      let i := eIndex (d.ent a)
      let bs := d.hbm.reads (p.base + i * pageBytes) pageBytes
      let d := { d with free := d.free + 1, host := d.host.writes (p.swapBase + s * pageBytes) bs }
      (((d.dropRef pad i).setPool pad (fun p => { p with swapUsed := s :: p.swapUsed })).setEnt a (swapEntry s)).updSeq k
        (fun q => { q with held := q.held.erase i, slots := s :: q.slots })

/-- Moves one swapped page back into a free pool page. -/
def Dev.pageIn (d : Dev) (k pad a : Nat) : Dev :=
  match d.pool pad with
  | none => d
  | some p =>
    let s := eIndex (d.ent a)
    let bs := d.host.reads (p.swapBase + s * pageBytes) pageBytes
    match d.takePage pad with
    | none => d
    | some (d, i) =>
      (({ d with hbm := d.hbm.writes (p.base + i * pageBytes) bs }.setPool pad
        (fun p => { p with swapUsed := p.swapUsed.erase s })).enter k a i).updSeq k (fun q => { q with slots := q.slots.erase s })

/-- R152: every count-1 page out; answers the pages moved. -/
def Dev.swapOut (d : Dev) (k : Nat) (q : Seq) : Dev × Nat :=
  let es := d.ownEntries q
  if es.isEmpty then (d, 0) else ((es.foldl (fun d a => d.pageOut k q.paddock a) d).sealList k true, es.length)

/-- R164: an eligible victim for a request on behalf of a sequence of priority `prio`. -/
def Dev.eligible (d : Dev) (forKey prio : Nat) (k : Nat) (v : Seq) : Bool :=
  match d.pool v.paddock with
  | none => false
  | some p =>
    let n := (d.ownEntries v).length
    k != forKey && n != 0 && !d.flights.any (fun e => e.2.seqKeys.contains k) && !v.stale && hPrio (d.hdr v) ≤ prio &&
      n ≤ p.freeSlots && p.policy == 0

/-- R165: the order of victims. -/
def Dev.victimBefore (d : Dev) (a b : Nat × Seq) : Bool :=
  let pa := hPrio (d.hdr a.2)
  let pb := hPrio (d.hdr b.2)
  pa < pb || (pa == pb && (a.2.lastUse < b.2.lastUse || (a.2.lastUse == b.2.lastUse && a.2.handle < b.2.handle)))

/-- The first victim of a list. -/
def Dev.firstVictim (d : Dev) : List (Nat × Seq) → Option (Nat × Seq)
  | [] => none
  | v :: t => match d.firstVictim t with
    | none => some v
    | some w => if d.victimBefore v w then some v else some w

/-- Takes victims until n pages are free, with fuel for their number; counts the pages swapped out. -/
def Dev.takeVictims (d : Dev) (pad forKey prio n : Nat) : Nat → Dev × Nat
  | 0 => (d, 0)
  | fuel + 1 =>
    match d.pool pad with
    | none => (d, 0)
    | some p =>
      if n ≤ p.freePages then (d, 0)
      else match d.firstVictim (KV.keep d.seqs (fun k v => v.paddock == pad && d.eligible forKey prio k v)) with
        | none => (d, 0)
        | some (k, v) =>
          let z := d.swapOut k v
          let d := (z.1.updSeq k (fun q => { q with victim := true })).postP evSeqSwapped pad v.handle [z.2, pad]
          let y := d.takeVictims pad forKey prio n fuel
          (y.1, z.2 + y.2)

/-- R165: room for n pages on behalf of a sequence: none when the request fails, and nothing moves then.
Answers the pages swapped out. -/
def Dev.makeRoom (d : Dev) (pad forKey prio n : Nat) : Option (Dev × Nat) :=
  match d.pool pad with
  | none => if n = 0 then some (d, 0) else none
  | some p =>
    if n ≤ p.freePages then some (d, 0)
    else
      let vs := KV.keep d.seqs (fun k v => v.paddock == pad && d.eligible forKey prio k v)
      let sum := (vs.map (fun e => (d.ownEntries e.2).length)).foldl (· + ·) 0
      if p.freePages + sum < n then none
      else
        let z := d.takeVictims pad forKey prio n (vs.length + 1)
        match z.1.pool pad with
        | some p' => if n ≤ p'.freePages then some z else none
        | none => none

/-- R152, R165: brings every swapped page of a sequence back, with room made; none when pages run out. GENERATION
rises with it when the swap-in is the whole change of its command (R153). F_SWAPPED marks the command when a victim
comes back. Answers the pages moved. -/
def Dev.swapIn (d : Dev) (id k : Nat) (q : Seq) (bump : Bool) : Option (Dev × Nat) :=
  let es := d.swapEntries q
  if es.isEmpty then some (d, 0)
  else (d.makeRoom q.paddock k (hPrio (d.hdr q)) es.length).map (fun z =>
    let d := (es.foldl (fun d a => d.pageIn k q.paddock a) z.1).sealList k bump
    let d := if q.victim then d.updFlight id (fun f => { f with flags := setFlag f.flags fSwapped }) else d
    (d.updSeq k (fun q => { q with victim := false }), es.length))

/-! ### Sending pages (R159, Table 12.6) -/

/-- A peer entry of the header (Table 8.2): handle, device, first block, blocks. -/
def hPeer (h : List Byte) (i : Nat) : Nat × Nat × Nat × Nat :=
  let o := 64 + 16 * i
  (fld (w32 h o) 16 16, fld (w32 h o) 0 11, w32 h (o + 4), fld (w32 h (o + 8)) 0 16)

def pagePkt (pad dst layer fmt peerHandle step k p off : Nat) (bs : List Byte) : Pkt :=
  { kind := kPage, vc := 3, src := 0, dst := dst, paddock := pad, desc := layer, format := fmt, tag := peerHandle,
    length := bs.length, seq := 0, step := step, offset := (k % 2 ^ 32) * 2 ^ 32 + p * 2 ^ 26 + off, crc := 0, payload := bs }

/-- R159: sends one main page of local block b to every peer whose range holds its global block. Answers
the status of a peer that cannot be reached (R254). -/
def Dev.sendPage (d : Dev) (id unit : Nat) (q : Seq) (b l p step : Nat) : Dev × Option Status :=
  let h := d.hdr q
  let k := hFirst h + b
  let w := d.ent (q.entryAt (q.mainRec b l) p)
  match d.pool q.paddock with
  | none => (d, none)
  | some pl =>
    if eKind w ≠ 1 then (d, none)
    else
      let bs := d.hbm.reads (pl.base + eIndex w * pageBytes) (usedBytes (hFmt h) (hRow h))
      ((List.range (hPeers h)).map (hPeer h)).foldl (fun (z : Dev × Option Status) e =>
        if z.2.isSome || !(e.2.2.1 ≤ k && k < e.2.2.1 + e.2.2.2) then z
        else z.1.sendAll (some id) unit ((pieces bs.length).map (fun c =>
          pagePkt q.paddock e.2.1 l (hFmt h) e.1 step k p c.1 (sliceB bs c.1 c.2)))) (d, none)

/-- Sends the pages of several blocks. -/
def Dev.sendPages (d : Dev) (id : Nat) (q : Seq) (bs : List Nat) (step : Nat) : Dev × Option Status :=
  (bs.flatMap (fun b => (List.range q.layers).flatMap (fun l => (List.range (2 * q.groups)).map (fun p => (b, l, p))))).foldl
    (fun (z : Dev × Option Status) e => if z.2.isSome then z else z.1.sendPage id 0 q e.1 e.2.1 e.2.2 step) (d, none)

/-! ### SEQ_CREATE (R145, R146, R150) -/

/-- The header obeys Table 8.1 and R145. -/
def hdrOk (h : List Byte) : Bool :=
  let w := w32 h
  let row := hRow h
  fld (w 12) 27 5 == 0 && fld (w 12) 10 6 == 0 && kvFormats.contains (hFmt h) && row % 32 == 0 && 32 ≤ row &&
    row ≤ (if kvScaled (hFmt h) then 992 else 1024) && fld (w 20) 16 16 == 0 && hMaskWords h ≤ 512 && hMaskAddr h % 8 == 0 &&
    hRemote h % pageBytes == 0 && hAfter h ≤ 16384 && hBefore h ≤ 16384 && w 44 ≤ 8 &&
    [48, 52, 56, 60].all (fun o => w o == 0) && (List.range 16).all (fun i => w (192 + 4 * i) == 0) &&
    (List.range 8).all (fun i =>
      fld (w (64 + 16 * i)) 11 5 == 0 && fld (w (72 + 16 * i)) 16 16 == 0 && w (76 + 16 * i) == 0 &&
        (hPeers h ≤ i || fld (w (72 + 16 * i)) 0 16 != 0))

/-- Bytes of remote staging: two parities of every remote block (the walk of R154). -/
def stagingBytes (h : List Byte) (groups : Nat) : Nat := 2 * (hBefore h + hAfter h) * 2 * groups * pageBytes

/-- The ranges a list or a window must keep clear of: the paddock's pool, and every staging area, mask map and list
(R150, R218). -/
def Dev.listHits (d : Dev) (pad a n : Nat) : Bool :=
  (match d.pool pad with | some p => overlaps a n p.base (p.pages * pageBytes) | none => false) ||
    d.seqs.vals.any (fun q =>
      overlaps a n q.list q.listBytes || overlaps a n (hRemote (d.hdr q)) (stagingBytes (d.hdr q) q.groups) ||
        overlaps a n (hMaskAddr (d.hdr q)) (maskBytes (d.hdr q) q.maxBlocks))

/-- A sequence as SEQ_CREATE names it. -/
def Flight.newSeq (x : Flight) (gtc : DWord) : Seq :=
  { paddock := x.paddock, handle := fld (x.w 2) 0 16, layers := fld (x.w 3) 0 16, groups := fld (x.w 3) 16 8, list := x.d 4,
    maxBlocks := x.w 6, gen := 1, crc := 0, stale := false, lastUse := gtc, lastQueue := x.queue, held := [], slots := [], priv := [],
    arrivals := [], parts := [], victim := false }

def checkSeqCreate (d : Dev) (p : Paddock) (x : Flight) : List (Bool × Status) :=
  let q := x.newSeq 0
  [(d.inStore q.list q.listBytes, .notInPaddock), (!inMap p.hbmMap q.list q.listBytes, .badParam), (q.handle == 0xFFFF, .badParam), (q.layers == 0 || 4096 < q.layers, .badParam),
   (q.groups == 0 || 32 < q.groups, .badParam), (q.maxBlocks == 0 || 1048576 < q.maxBlocks, .badParam), (!aligned q.list 256, .badParam)]

/-- R149: pages of the private copy. -/
def Seq.privPages (q : Seq) : Nat := ceilDiv q.listBytes pageBytes

/-- Takes n pages for a private copy. -/
def Dev.takePages (d : Dev) (pad : Nat) : Nat → Dev × List Nat
  | 0 => (d, [])
  | n + 1 => match d.takePage pad with
    | none => (d, [])
    | some (d, i) => let z := d.takePages pad n; (z.1, i :: z.2)

def execSeqCreate (f : Nat) (s : State) : Res := onDev s fun d => d.onFlight f 0x40 fun x =>
  let q := x.newSeq d.gtc.val
  let h := d.hdr q
  let k := padKey q.paddock q.handle
  let own := overlaps q.list q.listBytes (hRemote h) (stagingBytes h q.groups) ||
    overlaps q.list q.listBytes (hMaskAddr h) (maskBytes h q.maxBlocks)
  let full := 4096 ≤ (KV.keep d.seqs (fun _ v => v.paddock == q.paddock)).length
  match d.pool q.paddock with
  | none => d.finish f .badParam 0 0
  | some p =>
    if KV.has d.seqs k || !hdrOk h || d.listHits q.paddock q.list q.listBytes || own || full || p.freePages < q.privPages then
      d.finish f .badParam 0 0
    else
      let z := d.takePages q.paddock q.privPages
      let d := { z.1 with seqs := KV.put z.1.seqs k { q with gen := 0, priv := z.2 },
                          hbm := (z.1.hbm.clear (q.list + 256) (4 * q.entries)).writeLE (q.list + 8) 4 0 }
      (d.sealList k true).finish f .ok (q.entries % 2 ^ 32) 0

/-! ### What every SEQ_ command of an existing sequence checks -/

/-- R38, R162: the handle names a sequence of the paddock that is not STALE. -/
def checkSeq (d : Dev) (x : Flight) : List (Bool × Status) :=
  match KV.find d.seqs (padKey x.paddock (fld (x.w 2) 0 16)) with
  | none => [(true, .notInPaddock)]
  | some q => [(q.stale && x.opcode != 0x46, .staleTable)]

/-- The sequence of a running SEQ_ command. -/
def Dev.onSeq (d : Dev) (f op : Nat) (g : Flight → Nat → Seq → Dev) : Dev :=
  d.onFlight f op fun x =>
    let k := padKey x.paddock (fld (x.w 2) 0 16)
    match KV.find d.seqs k with
    | none => d.finish f .notInPaddock 0 0
    | some q => if q.stale && op != 0x46 then d.finish f .staleTable 0 0 else g x k q

/-! ### SEQ_APPEND (R151) -/

/-- Blocks that an append of n tokens after t reaches. -/
def appendBlocks (t n : Nat) : List Nat := if n = 0 then [] else rangeFrom (t / 256) ((t + n - 1) / 256 - t / 256 + 1)

/-- The source of an append lies in the paddock: whole page images for each block it touches. -/
def checkSeqAppend (d : Dev) (p : Paddock) (x : Flight) : List (Bool × Status) :=
  checkSeq d x ++
    (match KV.find d.seqs (padKey x.paddock (fld (x.w 2) 0 16)) with
      | none => []
      | some q =>
        let n := (appendBlocks (hTokens (d.hdr q)) (x.w 3)).length * q.layers * 2 * q.groups * pageBytes
        [(x.d 4 != 0 && !d.hbmOk p (x.d 4) n, .notInPaddock)])

/-- Copies the rows and scale rows of tokens i to i + n - 1 of a page from a page image. -/
def Dev.copyRows (d : Dev) (src dst fmt row i n : Nat) : Dev :=
  let d1 := { d with hbm := d.hbm.writes (dst + i * row) (d.hbm.reads (src + i * row) (n * row)) }
  if kvScaled fmt then
    let o := 256 * row + i * (row / 32)
    { d1 with hbm := d1.hbm.writes (dst + o) (d1.hbm.reads (src + o) (n * (row / 32))) }
  else d1

/-- Gives a shared page of the sequence its own copy, dropping one reference (R154). -/
def Dev.ownPage (d : Dev) (k pad a : Nat) : Option Dev :=
  match d.pool pad with
  | none => none
  | some p =>
    let i := eIndex (d.ent a)
    let bs := d.hbm.reads (p.base + i * pageBytes) pageBytes
    (d.takePage pad).map (fun z =>
      (({ z.1 with hbm := z.1.hbm.writes (p.base + z.2 * pageBytes) bs }.dropRef pad i).updSeq k
        (fun q => { q with held := q.held.erase i })).enter k a z.2)

def isShared (d : Dev) (pad a : Nat) : Bool :=
  match d.pool pad with
  | none => false
  | some p => eKind (d.ent a) == 1 && 1 < p.count (eIndex (d.ent a))

/-- Writes the new tokens' rows from the source into every page that the append touches. -/
def Dev.appendRows (d : Dev) (q : Seq) (src t n : Nat) : Dev :=
  let h := d.hdr q
  match d.pool q.paddock with
  | none => d
  | some p =>
    ((appendBlocks t n).zipIdx).foldl (fun d bi =>
      let lo := max t (bi.1 * 256) - bi.1 * 256
      let hi := min (t + n) (bi.1 * 256 + 256) - bi.1 * 256
      (List.range (q.layers * 2 * q.groups)).foldl (fun d j =>
        let a := q.entryAt (q.mainRec bi.1 0) j
        let w := d.ent a
        if eKind w = 1 then
          d.copyRows (src + (bi.2 * q.layers * 2 * q.groups + j) * pageBytes) (p.base + eIndex w * pageBytes) (hFmt h) (hRow h) lo (hi - lo)
        else d) d) d

/-- The ranges of the page images that an append copies from. -/
def Dev.appendReads (d : Dev) (x : Flight) (q : Seq) : List (Nat × Nat) :=
  if x.d 4 = 0 then []
  else [(x.d 4, (appendBlocks (hTokens (d.hdr q)) (x.w 3)).length * q.layers * 2 * q.groups * pageBytes)]

def Dev.seqAppend (d : Dev) (nv : NonVol) (f : Nat) (x : Flight) (mf : MemFault) (k : Nat) (q : Seq) : Dev :=
  let h := d.hdr q
  let t := hTokens h
  let n := x.w 3
  let src := x.d 4
  if n = 0 then d.finish f .empty 0 0
  else if q.maxBlocks * 256 < t + n then d.finish f .badParam 0 0
  else d.withReads nv f mf (d.appendReads x q) fun d =>
    let blocks := appendBlocks t n
    let addrs := q.blockAddrs (t / 256) blocks.length
    let none0 := addrs.filter (fun a => eKind (d.ent a) == 0)
    let shared := if src = 0 then [] else addrs.filter (fun a => isShared d q.paddock a)
    let swapped := src != 0 && addrs.any (fun a => eKind (d.ent a) == 2)
    let need := none0.length + shared.length + (if swapped then (d.swapEntries q).length else 0)
    match d.makeRoom q.paddock k (hPrio h) need with
    | none => d.finish f .pageExhausted 0 0
    | some (d, out) =>
      let d := if swapped then ((d.swapIn f k q false).map (·.1)).getD d else d
      let d := none0.foldl (fun d a => (d.fillEntry k q.paddock a).getD d) d
      let d := shared.foldl (fun d a => (d.ownPage k q.paddock a).getD d) d
      let d := if src = 0 then d else d.appendRows q src t n
      let d := { d with hbm := d.hbm.writeLE (q.list + 8) 4 (t + n) }
      let d := d.sealList k true
      let z := if src = 0 then (d, none) else d.sendPages f q blocks (fld (x.w 6) 0 24)
      match z.2 with
      | some st => z.1.finish f st need out
      | none => if src = 0 then z.1.finish f .ok (none0.length + shared.length) out else z.1.settle f .ok (none0.length + shared.length) out

def execSeqAppend (f : Nat) (mf : MemFault) (s : State) : Res := onDevR s fun nv _ d => d.onSeq f 0x41 fun x k q =>
  d.seqAppend nv f x mf k q

/-! ### SEQ_SWAP_OUT, SEQ_SWAP_IN, SEQ_DROP (R152) -/

/-- The bytes of the pages that a swap-out moves. -/
def Dev.ownRanges (d : Dev) (q : Seq) : List (Nat × Nat) :=
  (d.ownEntries q).map (fun a => ((d.pool q.paddock).elim 0 (·.base) + eIndex (d.ent a) * pageBytes, pageBytes))

def execSeqSwapOut (f : Nat) (mf : MemFault) (s : State) : Res := onDevR s fun nv _ d => d.onSeq f 0x44 fun _ k q =>
  let n := (d.ownEntries q).length
  let room := (d.pool q.paddock).elim 0 Pool.freeSlots
  if room < n then d.finish f .badParam 0 0
  else d.withReads nv f mf (d.ownRanges q) fun d => let z := d.swapOut k q; z.1.settle f .ok z.2 0

def execSeqSwapIn (f : Nat) (mf : MemFault) (s : State) : Res := onDevR s fun nv _ d => d.onSeq f 0x45 fun _ k q =>
  d.withFault nv f mf fun d => match d.swapIn f k q true with
  | none => d.finish f .pageExhausted 0 0
  | some z => z.1.settle f .ok z.2 0

/-- R152, R162: every reference, slot and private-copy page is released through the private copy. -/
def Dev.dropSeq (d : Dev) (k : Nat) : Dev :=
  match KV.find d.seqs k with
  | none => d
  | some q =>
    let d := (q.held ++ q.priv).foldl (fun d i => d.dropRef q.paddock i) d
    let d := d.setPool q.paddock (fun p => { p with swapUsed := p.swapUsed.filter (fun s => !q.slots.contains s) })
    { d with seqs := KV.del d.seqs k }

def execSeqDrop (f : Nat) (s : State) : Res := onDev s fun d => d.onSeq f 0x46 fun x k _ =>
  let before := (d.pool x.paddock).elim 0 Pool.freePages
  let d := d.dropSeq k
  d.finish f .ok ((d.pool x.paddock).elim 0 Pool.freePages - before) 0

/-! ### SEQ_PAGES_EDIT (R163, Table 8.5) -/

/-- What one edit gives: the state after it, an invalid edit, or a busy source. -/
inductive EditRes where
  | ok (d : Dev)
  | bad
  | busy
  deriving DecidableEq, Repr

/-- R42: a sequence that commands of another queue fetched before `before` name. -/
def Dev.seqBusy (d : Dev) (k queue before : Nat) : Bool :=
  d.flights.any (fun e => e.1 < before && e.2.queue != queue && e.2.seqKeys.contains k)

/-- SHARE: the main records take references to the source's pages. -/
def Dev.shareBlocks (d : Dev) (k : Nat) (q : Seq) (src : Seq) (first n sfirst : Nat) : EditRes :=
  let from' := src.blockAddrs sfirst n
  let addrs := q.blockAddrs first n
  let ws := from'.map d.ent
  if ws.any (fun w => eKind w == 2) then .bad
  else
    let d := ws.foldl (fun d w => if eKind w = 1 then d.addRef q.paddock (eIndex w) else d) d
    if (d.pool q.paddock).elim false (fun p => p.refs.any (fun e => 65535 < e.2)) then .bad
    else
      let d := addrs.foldl (fun d a => d.release k q.paddock a) d
      let d := (addrs.zip ws).foldl (fun d e => if eKind e.2 = 1 then d.enter k e.1 (eIndex e.2) else d) d
      .ok d

/-- The header word at offset `o`. -/
def Dev.setHdr (d : Dev) (q : Seq) (o v : Nat) : Dev := { d with hbm := d.hbm.writeLE (q.list + o) 4 v }

/-- Applies one edit of 16 bytes. -/
def Dev.applyEdit (d : Dev) (p : Paddock) (x : Flight) (k : Nat) (q : Seq) (e : List Byte) : EditRes :=
  let h := d.hdr q
  let w0 := w32 e 0
  let w1 := w32 e 4
  let w2 := w32 e 8
  let w3 := w32 e 12
  let op := fld w0 0 4
  if fld w0 4 12 ≠ 0 ∨ (op ≠ 2 ∧ fld w0 16 16 ≠ 0) then .bad
  else if op = 0 then
    if hTokens h < w1 ∨ w2 ≠ 0 ∨ w3 ≠ 0 then .bad
    else
      let b := ceilDiv w1 256
      .ok (((q.blockAddrs b (q.maxBlocks - b)).foldl (fun d a => d.release k q.paddock a) d).setHdr q 8 w1)
  else if op = 1 then
    if q.maxBlocks < w1 + w2 ∨ w3 ≠ 0 then .bad
    else .ok ((q.blockAddrs w1 w2).foldl (fun d a => d.release k q.paddock a) d)
  else if op = 2 then
    let sk := padKey x.paddock (fld w0 16 16)
    match KV.find d.seqs sk with
    | none => .bad
    | some src =>
      let sh := d.hdr src
      if d.seqBusy sk x.queue d.nextFlight then .busy
      else if src.layers ≠ q.layers ∨ src.groups ≠ q.groups ∨ hFmt sh ≠ hFmt h ∨ hRow sh ≠ hRow h ∨ q.maxBlocks < w1 + w2 ∨
        src.maxBlocks < w3 + w2 then .bad
      else d.shareBlocks k q src w1 w2 w3
  else if op = 3 then
    if fld w1 4 12 ≠ 0 ∨ 7 < fld w1 0 4 ∨ fld w3 27 5 ≠ 0 then .bad
    else
      let i := fld w1 0 4
      let o := 64 + 16 * i
      let n := fld w3 0 16
      let d := (((d.setHdr q o (if n = 0 then 0 else fld w1 16 16 * 65536 + fld w3 16 11)).setHdr q (o + 4)
        (if n = 0 then 0 else w2)).setHdr q (o + 8) n).setHdr q (o + 12) 0
      let h := d.hdr q
      let top := (List.range 8).foldl (fun m j => if fld (w32 h (72 + 16 * j)) 0 16 != 0 then j + 1 else m) 0
      .ok (d.setHdr q 44 top)
  else if op = 4 then
    let mw := fld w1 0 16
    let addr := w2 + w3 * 2 ^ 32
    let n := if mw = 0 then 0 else q.maxBlocks * (8 + 4 * mw)
    if fld w1 16 16 ≠ 0 ∨ 512 < mw ∨ addr % 8 ≠ 0 ∨ !d.hbmOk p addr n then .bad
    else .ok (((d.setHdr q 20 mw).setHdr q 24 w2).setHdr q 28 w3)
  else if op = 5 then
    if 3 < w1 ∨ w2 ≠ 0 ∨ w3 ≠ 0 then .bad else .ok (d.setHdr q 12 (putFld (w32 h 12) 8 2 w1))
  else .bad

/-- Applies edits in order; the first that is not valid stops them. -/
def Dev.applyEdits (d : Dev) (p : Paddock) (x : Flight) (k : Nat) (q : Seq) : List (List Byte) → EditRes
  | [] => .ok d
  | e :: t => match d.applyEdit p x k q e with
    | .ok d => d.applyEdits p x k q t
    | r => r

def checkSeqEdit (d : Dev) (p : Paddock) (x : Flight) : List (Bool × Status) :=
  checkSeq d x ++ [(!d.hbmOk p (x.d 4) (16 * x.w 6), .notInPaddock), (x.w 6 == 0 || 4096 < x.w 6, .badParam)]

def execSeqPagesEdit (f : Nat) (mf : MemFault) (s : State) : Res := onDevR s fun nv _ d => d.onSeq f 0x43 fun x k q =>
  match d.pad x.paddock with
  | none => d.finish f .notInPaddock 0 0
  | some p => d.withReads nv f mf [(x.d 4, 16 * x.w 6)] fun d =>
    match d.applyEdits p x k q ((List.range (x.w 6)).map (fun i => d.hbm.reads (x.d 4 + 16 * i) 16)) with
    | .bad => d.finish f .badParam 0 0
    | .busy => d.finish f .seqBusy 0 0
    | .ok d => (d.sealList k true).finish f .ok ((q.gen + 1) % 2 ^ 32) 0

/-! ### SEQ_VERIFY (R167 to R169, Table 8.7) -/

/-- A candidate entry's ranges and fields. -/
def candBad (e : List Byte) : Bool :=
  let w := w32 e
  let len := fld (w 0) 0 11
  let el := fld (w 4) 0 16
  let kind := fld (w 0) 16 1
  fld (w 0) 17 15 != 0 || fld (w 0) 11 5 != 0 || len == 0 || 1024 < len || fld (w 4) 16 16 != 0 || el == 0 ||
    (kind == 0 && (el != 1 || w 24 != 0)) || leAt e 8 8 % 4 != 0 || w 28 != 0 ||
    (match ofF32 (w 24) with
      | .fin q => q.neg && !q.isZero
      | _ => true)

/-- Bytes of a candidate's values. -/
def candBytes (e : List Byte) : Nat := 4 * fld (w32 e 0) 0 11 * fld (w32 e 4) 0 16

/-- R168: position i of a candidate agrees. -/
def Dev.agrees (d : Dev) (e : List Byte) (i : Nat) : Bool :=
  let el := fld (w32 e 4) 0 16
  let tol := ofF32 (w32 e 24)
  (List.range el).all (fun j =>
    let a := d.hbm.readLE (leAt e 8 8 + 4 * (i * el + j)) 4
    let b := d.hbm.readLE (leAt e 16 8 + 4 * (i * el + j)) 4
    if fld (w32 e 0) 16 1 = 0 then a == b
    else match ofF32 a, ofF32 b, tol with
      | .fin x, .fin y, .fin t => (x.sub y).abs.le t
      | _, _, _ => false)

/-- R168: agreeing positions before the first that disagrees. -/
def Dev.accepted (d : Dev) (e : List Byte) : Nat :=
  let n := fld (w32 e 0) 0 11
  ((List.range n).find? (fun i => !d.agrees e i)).getD n

/-- R168: the largest accepted length, the lowest candidate at equal lengths. -/
def bestCand : List Nat → Nat → Nat × Nat → Nat × Nat
  | [], _, b => b
  | a :: t, c, b => bestCand t (c + 1) (if b.1 < a then (a, c) else b)

/-- R169: the chosen branch's entries replace the main entries of the accepted blocks, of which a branch has four (R147);
every other branch entry is released. -/
def Dev.commit (d : Dev) (k : Nat) (q : Seq) (t a c : Nat) : Dev :=
  let blocks := (appendBlocks t a).filter (· < t / 256 + 4)
  let moves := blocks.flatMap (fun b => (List.range q.layers).flatMap (fun l => (List.range (2 * q.groups)).map (fun p =>
    (q.entryAt (q.mainRec b l) p, q.entryAt (q.branchRec c (b - t / 256) l) p))))
  let d := moves.foldl (fun d m =>
    let w := d.ent m.2
    if eKind w = 0 then d else ((d.release k q.paddock m.1).setEnt m.1 w).setEnt m.2 0) d
  let d := q.branchAddrs.foldl (fun d a => d.release k q.paddock a) d
  { d with hbm := d.hbm.writeLE (q.list + 8) 4 (t + a) }

def checkSeqVerify (d : Dev) (p : Paddock) (x : Flight) : List (Bool × Status) :=
  let n := fld (x.w 3) 0 4
  checkSeq d x ++ [(!d.hbmOk p (x.d 4) (32 * n), .notInPaddock), (n == 0 || 8 < n, .badParam)]

/-- The ranges that a verification reads: its candidate table and each candidate's values. -/
def Dev.verifyReads (d : Dev) (x : Flight) : List (Nat × Nat) :=
  let n := fld (x.w 3) 0 4
  (x.d 4, 32 * n) :: (List.range n).flatMap (fun i =>
    let e := d.hbm.reads (x.d 4 + 32 * i) 32
    [(leAt e 8 8, candBytes e), (leAt e 16 8, candBytes e)])

def Dev.seqVerify (d : Dev) (nv : NonVol) (p : Paddock) (f : Nat) (x : Flight) (mf : MemFault) (k : Nat) (q : Seq) : Dev :=
  let es := (List.range (fld (x.w 3) 0 4)).map (fun i => d.hbm.reads (x.d 4 + 32 * i) 32)
  if es.any (fun e => !d.hbmOk p (leAt e 8 8) (candBytes e) || !d.hbmOk p (leAt e 16 8) (candBytes e)) then d.finish f .notInPaddock 0 0
  else if es.any candBad then d.finish f .badParam 0 0
  else if !d.listOk q then (d.markStale k).finish f .staleTable 0 0
  else d.withReads nv f mf (d.verifyReads x) fun d =>
    let best := bestCand (es.map d.accepted) 0 (0, 0)
    let t := hTokens (d.hdr q)
    if q.maxBlocks * 256 < t + best.1 then d.finish f .badParam 0 0
    else match d.swapIn f k q false with
      | none => d.finish f .pageExhausted 0 0
      | some z =>
        let changes := best.1 != 0 || z.2 != 0 || q.branchAddrs.any (fun a => eKind (d.ent a) != 0)
        let d := (z.1.commit k q t best.1 best.2).sealList k changes
        let y := d.sendPages f q (appendBlocks t best.1) (fld (x.w 6) 0 24)
        let cnt := if best.1 = 0 then 0xFFFFFFFF else best.2
        match y.2 with
        | some st => y.1.finish f st best.1 cnt
        | none => y.1.settle f .ok best.1 cnt

def execSeqVerify (f : Nat) (mf : MemFault) (s : State) : Res := onDevR s fun nv _ d => d.onSeq f 0x42 fun x k q =>
  match d.pad x.paddock with
  | none => d.finish f .notInPaddock 0 0
  | some p => d.seqVerify nv p f x mf k q

/-! ### POOL_SET (R148) -/

def checkPoolSet (d : Dev) (p : Paddock) (x : Flight) : List (Bool × Status) :=
  [(d.inStore (x.d 4) (x.d 6), .notInPaddock), (!inMap p.hostMap (x.d 8) (x.d 10), .notInPaddock), (!inMap p.hbmMap (x.d 4) (x.d 6), .badParam),
   (!aligned (x.d 4) (2 ^ 21) || x.d 6 == 0 || !aligned (x.d 6) pageBytes || 2 ^ 24 * pageBytes < x.d 6, .badParam),
   (!aligned (x.d 8) 4096 || !aligned (x.d 10) pageBytes, .badParam), (1 < fld (x.w 12) 0 4, .badParam)]

def execPoolSet (f : Nat) (s : State) : Res := onDev s fun d => d.onFlight f 0x47 fun x =>
  match d.pad x.paddock with
  | none => d.finish f .notInPaddock 0 0
  | some p =>
    if d.seqs.vals.any (fun q => q.paddock == x.paddock) then d.finish f .badParam 0 0
    else
      let pl : Pool := { base := x.d 4, pages := x.d 6 / pageBytes, swapBase := x.d 8, swapSlots := x.d 10 / pageBytes,
                         policy := fld (x.w 12) 0 4, refs := [], swapUsed := [] }
      Dev.finish { d with pads := KV.put d.pads x.paddock { p with pool := some pl } } f .ok (pl.pages % 2 ^ 32) (pl.swapSlots % 2 ^ 32)

/-! ### The walk (R154, R155) -/

/-- What a page access resolves to. -/
inductive Walk where
  | page (addr : Nat)
  | none
  | beyond
  | stale
  /-- a remote page that has not arrived for this step -/
  | wait
  deriving DecidableEq, Repr

/-- An entry resolved. -/
def Dev.resolve (d : Dev) (q : Seq) (w : Nat) : Walk :=
  if eKind w = 0 then .none
  else match d.pool q.paddock with
    | none => .stale
    | some p =>
      if eKind w = 1 ∧ eIndex w < p.pages ∧ 0 < p.count (eIndex w) then .page (p.base + eIndex w * pageBytes) else .stale

/-- The staging slot of page p of remote block i in layer l: layers share slots by parity (R154). -/
def arriveKey (q : Seq) (i l p : Nat) : Nat := (i * 2 + l % 2) * 2 * q.groups + p
/-- What a staging slot holds once whole: the step and the layer of its page. -/
def arriveTag (step l : Nat) : Nat := step * 4096 + l

/-- The entry address that page p of local block b, layer l and branch c (0 main) has; none past the
branch blocks. -/
def Dev.pageEntry (d : Dev) (q : Seq) (b l c p : Nat) (write : Bool) : Option Nat :=
  let tok := hTokens (d.hdr q)
  let t := tok / 256
  if c > 0 ∧ t ≤ b then
    if 3 < b - t then none
    else
      let a := q.entryAt (q.branchRec (c - 1) (b - t) l) p
      if !write && eKind (d.ent a) == 0 && b == t && tok % 256 != 0 then some (q.entryAt (q.mainRec b l) p) else some a
  else some (q.entryAt (q.mainRec b l) p)

/-- R154's walk for a read of page p of global block k, layer l, branch c, in step `step`. -/
def Dev.walk (d : Dev) (q : Seq) (k : Int) (l c p step : Nat) : Walk :=
  let h := d.hdr q
  let b : Int := k - Int.ofNat (hFirst h)
  if 0 ≤ b ∧ b < Int.ofNat q.maxBlocks then
    match d.pageEntry q b.toNat l c p false with
    | none => .beyond
    | some a => d.resolve q (d.ent a)
  else
    let before : Int := Int.ofNat (hBefore h)
    let i : Int := if b < 0 then before + b else before + (b - Int.ofNat q.maxBlocks)
    if i < 0 ∨ before + Int.ofNat (hAfter h) ≤ i then .beyond
    else if KV.find q.arrivals (arriveKey q i.toNat l p) = some (arriveTag step l) then
      .page (hRemote h + (((l % 2) * (hBefore h + hAfter h) + i.toNat) * 2 * q.groups + p) * pageBytes)
    else .wait

end Sys2Proof.Machine
end

