-- ==== Sys2Proof/Machine/Plans.lean ====
section
/-! DEFINITION. The plan image: its header, its sections and its tile instructions, read from bytes (R62, R73, R75, R76, R83, R172; Tables 4.1 to 4.9, 9.1). -/
namespace Sys2Proof.Machine
open Sys2Proof

/-- A tensor descriptor (Table 4.5). -/
structure Desc where
  buffer : Nat
  tscale : Bool
  nonsat : Bool
  round : Nat
  peer : Bool
  rank : Nat
  format : Nat
  offset : Nat
  tsval : Nat
  ext : List Nat
  stride : List Nat
  tile : List Nat
  scales : Nat
  peerId : Nat
  layout : Nat
  clean : Bool
  deriving DecidableEq, Repr

/-- A buffer record (Table 4.2). -/
structure Buf where
  place : Nat
  off : Nat
  size : Nat
  clean : Bool
  deriving DecidableEq, Repr

/-- A stream record (Table 4.2). -/
structure StreamRec where
  off : Nat
  count : Nat
  seg : Nat
  deriving DecidableEq, Repr

/-- A segment record (Table 4.8). -/
structure Seg where
  first : Nat
  len : Nat
  sym : Bool
  trip : Nat
  param : Nat
  div : Nat
  strideD : Int
  strideA : Int
  strideB : Int
  clean : Bool
  deriving DecidableEq, Repr

/-- One axis of a convolution record (Table 9.1, W1 to W3). -/
structure ConvAxis where
  f : Nat
  stride : Nat
  dil : Nat
  padB : Nat
  padA : Nat
  split : Bool
  log2n : Nat
  raw : Nat
  deriving DecidableEq, Repr

/-- A convolution record (Table 9.1). -/
structure Conv where
  kind : Nat
  padMode : Nat
  includePad : Bool
  axes : List ConvAxis
  inDesc : Nat
  outDesc : Nat
  filtDesc : Nat
  imgDesc : Nat
  const : Nat
  clean : Bool
  deriving DecidableEq, Repr

/-- A plan image as its sections give it. -/
structure PlanImg where
  bytes : List Byte
  steps : Nat
  bucketParam : Nat
  chain : Bool
  cribBytes : Nat
  loftBytes : Nat
  params : List Nat
  descs : List Desc
  bufs : List Buf
  streams : List StreamRec
  segs : List Seg
  buckets : List (Nat × Nat)
  convs : List Conv
  deriving DecidableEq, Repr

/-! ### Records -/

def wordsAt (im : List Byte) (o n : Nat) : List Nat := (List.range n).map (fun i => w32 im (o + 4 * i))

def readDesc (im : List Byte) (o : Nat) : Desc :=
  let w := fun i => w32 im (o + 4 * i)
  { buffer := fld (w 0) 20 12, tscale := bitOf (w 0) 19, nonsat := bitOf (w 0) 18, round := fld (w 0) 16 2, peer := bitOf (w 0) 12,
    rank := fld (w 0) 8 4, format := fld (w 0) 0 8, offset := w 1, tsval := w 2, ext := (rangeFrom 3 5).map w,
    stride := (rangeFrom 8 4).map w,
    tile := [fld (w 12) 0 16, fld (w 12) 16 16, fld (w 13) 0 16, fld (w 13) 16 16, fld (w 14) 0 16],
    scales := fld (w 15) 20 12, peerId := fld (w 15) 8 11, layout := fld (w 15) 0 4,
    clean := fld (w 0) 13 3 == 0 && fld (w 14) 16 16 == 0 && !bitOf (w 15) 19 && fld (w 15) 4 4 == 0 &&
      (rangeFrom 3 5).all (fun i => !bitOf (w i) 31 || fld (w i) 6 25 == 0) }

def readBuf (im : List Byte) (o : Nat) : Buf :=
  { place := fld (w32 im o) 0 2, off := w32 im (o + 4), size := leAt im (o + 8) 8, clean := fld (w32 im o) 2 30 == 0 }

def readStream (im : List Byte) (o : Nat) : StreamRec := { off := leAt im o 8, count := w32 im (o + 8), seg := w32 im (o + 12) }

def readSeg (im : List Byte) (o : Nat) : Seg :=
  let w := fun i => w32 im (o + 4 * i)
  let sym := bitOf (w 2) 31
  { first := fld (w 0) 0 24, len := fld (w 1) 0 24, sym := sym, trip := fld (w 2) 0 24, param := fld (w 2) 0 6, div := fld (w 2) 12 12,
    strideD := sext (fld (w 3) 0 10) 10, strideA := sext (fld (w 3) 10 10) 10, strideB := sext (fld (w 3) 20 10) 10,
    clean := fld (w 0) 24 8 == 0 && fld (w 1) 24 8 == 0 && fld (w 3) 30 2 == 0 &&
      (if sym then fld (w 2) 6 6 == 0 && fld (w 2) 24 7 == 0 else fld (w 2) 24 7 == 0) }

def readConv (im : List Byte) (o : Nat) : Conv :=
  let w := fun i => w32 im (o + 4 * i)
  let w0 := w 0
  { kind := fld w0 28 4, padMode := fld w0 26 2, includePad := bitOf w0 25,
    axes := (List.range 3).map (fun a =>
      let x := w (1 + a)
      { f := fld x 0 6, stride := fld x 7 4 + 1, dil := fld x 11 3 + 1, padB := fld x 14 9, padA := fld x 23 9, split := bitOf w0 (12 + a),
        log2n := fld w0 (4 * a) 4, raw := x }),
    inDesc := fld (w 4) 20 12, outDesc := fld (w 4) 8 12, filtDesc := fld (w 5) 20 12, imgDesc := fld (w 5) 0 12, const := w 6,
    clean := fld w0 15 10 == 0 && [1, 2, 3].all (fun i => !bitOf (w i) 6) && fld (w 4) 0 8 == 0 && fld (w 5) 12 8 == 0 && w 7 == 0 }

/-! ### The header (Table 4.1) -/

/-- Offset of section `i` in the header: parameters, descriptors, buffers, streams, segments, buckets,
convolution records. -/
def secOff (im : List Byte) (i : Nat) : Nat := leAt im (0x18 + 8 * i) 8
/-- Records of section `i`. -/
def secCount (im : List Byte) (i : Nat) : Nat :=
  match i with
  | 0 => leAt im 8 2
  | 1 => leAt im 0x0A 2
  | 2 => leAt im 0x0C 2
  | 3 => leAt im 7 1
  | 4 => leAt im 0x10 4
  | 5 => leAt im 0x15 1
  | _ => leAt im 0x16 2
/-- Bytes of a record (Table 4.2). -/
def secSize (i : Nat) : Nat := [8, 64, 16, 16, 16, 8, 32].getD i 0
def secRecs {α : Type} (im : List Byte) (i : Nat) (read : List Byte → Nat → α) : List α :=
  (List.range (secCount im i)).map (fun k => read im (secOff im i + k * secSize i))

/-- The image's sections. -/
def readPlan (im : List Byte) : PlanImg :=
  { bytes := im, steps := leAt im 0x0E 2, bucketParam := leAt im 0x14 1, chain := bitOf (w32 im 0x50) 0, cribBytes := w32 im 0x54,
    loftBytes := w32 im 0x58, params := secRecs im 0 w32, descs := secRecs im 1 readDesc, bufs := secRecs im 2 readBuf,
    streams := secRecs im 3 readStream, segs := secRecs im 4 readSeg, buckets := secRecs im 5 (fun im o => (w32 im o, w32 im (o + 4))),
    convs := secRecs im 6 readConv }

/-- The image of a loaded plan, as the plan store holds it (R64). -/
def Dev.planImg (d : Dev) (p : Plan) : PlanImg := readPlan (d.hbm.reads p.base p.len)

def PlanImg.sheds (im : PlanImg) : Nat := im.streams.length
def PlanImg.pmax (im : PlanImg) (i : Nat) : Nat := im.params.getD i 0
def PlanImg.desc? (im : PlanImg) (i : Nat) : Option Desc := im.descs[i]?

/-- The segments of plan shed k (R83). -/
def PlanImg.shedSegs (im : PlanImg) (k : Nat) : List Seg :=
  match im.streams[k]? with
  | none => []
  | some s =>
    let e := match im.streams[k + 1]? with
      | some t => t.seg
      | none => im.segs.length
    (im.segs.drop s.seg).take (e - s.seg)

/-- Instruction i of plan shed k's stream. -/
def PlanImg.instr (im : PlanImg) (k i : Nat) : TI :=
  let o := (im.streams[k]?).elim 0 (·.off) + 16 * i
  { i0 := w32 im.bytes o, i1 := w32 im.bytes (o + 4), i2 := w32 im.bytes (o + 8), i3 := w32 im.bytes (o + 12), ent := [] }
def PlanImg.count (im : PlanImg) (k : Nat) : Nat := (im.streams[k]?).elim 0 (·.count)
def PlanImg.instrs (im : PlanImg) (k : Nat) : List TI := (List.range (im.count k)).map (im.instr k)

/-! ### Extents, grids and tiles (R74) -/

/-- A word of EXTENT under a valuation of the parameters. -/
def extVal (pv : Nat → Nat) (w : Nat) : Nat := if bitOf w 31 then pv (fld w 0 6) else fld w 0 31

def Desc.extent (x : Desc) (pv : Nat → Nat) (a : Nat) : Nat := extVal pv (x.ext.getD a 1)
def Desc.tileExt (x : Desc) (a : Nat) : Nat := x.tile.getD a 1
/-- Tiles along an axis: by the planned maxima. -/
def Desc.gridAx (x : Desc) (pm : Nat → Nat) (a : Nat) : Nat := ceilDiv (x.extent pm a) (x.tileExt a)
def Desc.gridSize (x : Desc) (pm : Nat → Nat) : Nat := (List.range 5).foldl (fun n a => n * x.gridAx pm a) 1

/-- The coordinates that a number has in a grid, axis 0 fastest. -/
def coordsIn : List Nat → Nat → List Nat
  | [], _ => []
  | g :: gs, t => (if g = 0 then 0 else t % g) :: coordsIn gs (if g = 0 then 0 else t / g)
def Desc.coords (x : Desc) (pm : Nat → Nat) (t : Nat) : List Nat := coordsIn ((List.range 5).map (x.gridAx pm)) t

/-- R170: the channel block of a layout. -/
def Desc.chanBlock (x : Desc) : Option Nat := if x.layout = 1 then some 32 else if x.layout = 2 then some 16 else none

/-- The element offset of coordinates from the descriptor's origin: axis 0 contiguous, or R170. -/
def Desc.elemOff (x : Desc) (pm : Nat → Nat) (c : List Nat) : Nat :=
  let at' := fun a => c.getD a 0
  let st := fun a => x.stride.getD (a - 1) 0
  match x.chanBlock with
  | none => at' 0 + at' 1 * st 1 + at' 2 * st 2 + at' 3 * st 3 + at' 4 * st 4
  | some b => at' 0 % b + at' 1 * st 1 + at' 2 * st 2 + at' 3 * st 3 + at' 0 / b * (st 3 * x.extent pm 3) + at' 4 * st 4

def Desc.fmt (x : Desc) : Fmt := (fmtOf x.format).getD f32Fmt
/-- Bytes that hold n elements (Table 5.2). -/
def fmtBytes (bits n : Nat) : Nat := if bits = 6 then ceilDiv n 4 * 3 else ceilDiv (n * bits) 8

/-- R109: the logical index of coordinates. -/
def Desc.logical (x : Desc) (pm : Nat → Nat) (c : List Nat) : Nat :=
  ((List.range 5).foldl (fun (z : Nat × Nat) a => (z.1 + c.getD a 0 * z.2, z.2 * x.extent pm a)) (0, 1)).1

/-- R98: the tensor scale, 1 when there is none. -/
def Desc.tensorScale (x : Desc) : Q :=
  if x.tscale then (match ofF32 x.tsval with
    | .fin q => if q.isZero then Q.nat 1 else q
    | _ => Q.nat 1)
  else Q.nat 1

/-- R98: positive, finite and normal. -/
def scaleOk (w : Nat) : Bool := !bitOf w 31 && 1 ≤ fld w 23 8 && fld w 23 8 ≤ 254

/-! ### Fields of a tile instruction (Tables 4.6, 4.7) -/

def TI.cls (t : TI) : Nat := fld t.i0 28 4
def TI.op (t : TI) : Nat := fld t.i0 24 4
def TI.flags (t : TI) : Nat := fld t.i0 16 8
def TI.flag (t : TI) (i : Nat) : Bool := bitOf t.i0 (16 + i)
def TI.core (t : TI) : Nat := fld t.i0 10 6
def TI.param (t : TI) : Nat := fld t.i0 0 8
def opDesc (w : Nat) : Nat := fld w 20 12
def opTile (w : Nat) : Nat := fld w 0 20
def noOperand : Nat := 0xFFF00000

def cLoad : Nat := 0
def cStore : Nat := 1
def cMm : Nat := 2
def cConv : Nat := 3
def cFft : Nat := 4
def cSf : Nat := 5
def cNorm : Nat := 6
def cSoft : Nat := 7
def cXch : Nat := 8
def cBatch : Nat := 9
def cSig : Nat := 10
def cWait : Nat := 11
def cChain : Nat := 12

def TI.isStep (t : TI) : Bool := t.cls == cSig && t.flag 1

/-- Which words of a class hold DESC and TILE: I1, I2, I3. -/
def descWords (cls : Nat) : Bool × Bool × Bool :=
  if cls = cXch then (true, true, false)
  else if cls = cBatch then (false, true, false)
  else if cls = cSig ∨ cls = cWait ∨ cls = cChain then (false, false, false)
  else (true, true, true)

/-- R83: the strides of enclosing segments added to the TILE fields of operands that name a descriptor. -/
def TI.shift (t : TI) (sd sa sb : Int) : TI :=
  let go := fun (on : Bool) (w : Nat) (s : Int) =>
    if on && opDesc w != 0xFFF then opDesc w * 2 ^ 20 + ((Int.ofNat (opTile w) + s) % 2 ^ 20).toNat else w
  let m := descWords t.cls
  { t with i1 := go m.1 t.i1 sd, i2 := go m.2.1 t.i2 sa, i3 := go m.2.2 t.i3 sb }

/-- R83: the trip count of a segment. -/
def Seg.trips (s : Seg) (pv : Nat → Nat) : Nat := if s.sym then ceilDiv (pv s.param) s.div else s.trip
def Seg.holds (s : Seg) (i : Nat) : Bool := s.first ≤ i && i < s.first + s.len

/-! ### Convolution geometry (R172 to R175) -/

def ConvAxis.fe (a : ConvAxis) : Nat := (a.f - 1) * a.dil + 1
/-- R184: the headland width. -/
def ConvAxis.headland (a : ConvAxis) : Int := max (Int.ofNat a.padB) (Int.ofNat a.fe - Int.ofNat a.stride - Int.ofNat a.padB)
/-- R174: the output extent. -/
def ConvAxis.outExt (a : ConvAxis) (global : Bool) (i : Nat) : Nat :=
  if global then (if 1 ≤ i then 1 else 0)
  else if 1 ≤ i ∧ a.fe ≤ i + a.padB + a.padA then (i + a.padB + a.padA - a.fe) / a.stride + 1 else 0

def Conv.axis (c : Conv) (a : Nat) : ConvAxis :=
  c.axes.getD a { f := 1, stride := 1, dil := 1, padB := 0, padA := 0, split := false, log2n := 0, raw := 0 }
def Conv.isSplit (c : Conv) : Bool := c.axes.any (·.split)
def Conv.imageDesc (c : Conv) : Nat := if c.isSplit then c.imgDesc else c.inDesc
def Conv.freq (c : Conv) : Bool := c.kind == 0 && c.axes.any (fun a => 8 ≤ a.f)
/-- R179: valid positions of a block along an axis. -/
def ConvAxis.blockLen (a : ConvAxis) : Nat := 2 ^ a.log2n - a.fe + 1

/-- R180: blocks along an axis for O output positions. -/
def ConvAxis.blocks (a : ConvAxis) (o : Nat) : Nat := if o = 0 then 0 else ceilDiv ((o - 1) * a.stride + 1) a.blockLen

/-- R175: the image sample that a padded position reads; none for a position that reads no image sample. -/
def padSample (mode : Nat) (i : Nat) (x : Int) : Option Nat :=
  if 0 ≤ x ∧ x < Int.ofNat i then some x.toNat
  else if mode = 2 then
    (if i = 1 then some 0
    else
      let p := (x % (2 * (Int.ofNat i - 1))).toNat
      some (if p < i then p else 2 * (i - 1) - p))
  else if mode = 3 then some (min (max x 0) (Int.ofNat i - 1)).toNat
  else none

end Sys2Proof.Machine
end

