-- ==== Sys2Proof/Machine/PlanCheck.lean ====
section
/-! DEFINITION. What PLAN_LOAD checks in an image: header, records, streams, segments and every instruction (R62, R63, R68, R72 to R77, R83, R84, R91, R93, R96 to R98, R132, R139, R140, R154, R157, R170 to R173, R178 to R180, R182, R184, R185). -/
namespace Sys2Proof.Machine
open Sys2Proof

/-! ### Header and sections (R62, R63, Table 4.1) -/

def secRange (im : List Byte) (i : Nat) : Nat × Nat := (secOff im i, secCount im i * secSize i)

/-- The header's fixed values, ranges and reserved bytes. -/
def headerOk (im : List Byte) : Bool :=
  256 ≤ im.length && w32 im 0 == 0x4E414C50 && leAt im 4 2 == 1 && leAt im 6 1 == 9 &&
    (1 ≤ secCount im 3 && secCount im 3 ≤ 32) && secCount im 0 ≤ 64 && (1 ≤ secCount im 1 && secCount im 1 ≤ 4095) &&
    (1 ≤ secCount im 2 && secCount im 2 ≤ 4095) && 1 ≤ leAt im 0x0E 2 && secCount im 4 ≤ 65536 && secCount im 5 ≤ 16 &&
    secCount im 6 ≤ 256 && fld (w32 im 0x50) 1 31 == 0 && w32 im 0x54 ≤ 2097152 && w32 im 0x58 ≤ 50331648 &&
    (sliceB im 0x5C 160).all (fun b => b == 0)

/-- R62: the CRC of the image with its own field as zero. -/
def crcOk (im : List Byte) : Bool := crc32c (im.take 0xFC ++ List.replicate 4 0 ++ im.drop 0x100) == w32 im 0xFC

/-- R62, R63: sections within the image, clear of the header and of each other, offset 0 exactly with
count 0. -/
def sectionsOk (im : List Byte) : Bool :=
  (List.range 7).all (fun i =>
    let r := secRange im i
    if secCount im i = 0 then r.1 == 0
    else 256 ≤ r.1 && r.1 + r.2 ≤ im.length &&
      (List.range i).all (fun j => !overlaps r.1 r.2 (secRange im j).1 (secRange im j).2))

/-- R62: a stream within the image, clear of the header and of every section; streams may share bytes. -/
def streamOk (im : List Byte) (s : StreamRec) : Bool :=
  1 ≤ s.count && s.count ≤ 16777216 && 256 ≤ s.off && s.off + 16 * s.count ≤ im.length &&
    (List.range 7).all (fun j => !overlaps s.off (16 * s.count) (secRange im j).1 (secRange im j).2)

/-- R83: the first segment indices of the streams. -/
def segFirstsOk (im : PlanImg) : Bool :=
  (im.streams.map (·.seg)).head? == some 0 &&
    ((im.streams.map (·.seg)).zip ((im.streams.map (·.seg)).drop 1 ++ [im.segs.length])).all (fun e => e.1 ≤ e.2)

def paramsOk (im : List Byte) : Bool :=
  (List.range (secCount im 0)).all (fun k =>
    let o := secOff im 0 + 8 * k
    1 ≤ w32 im o && w32 im o ≤ 0x7FFFFFFF && w32 im (o + 4) == 0)

def PlanImg.bufsOk (im : PlanImg) : Bool :=
  im.bufs.all (fun b => b.clean && (b.place == 2 || (b.place == 0 && b.off + b.size ≤ im.cribBytes) ||
    (b.place == 1 && b.off + b.size ≤ im.loftBytes)))

/-- R72. -/
def PlanImg.bucketsOk (im : PlanImg) : Bool :=
  if im.buckets.isEmpty then im.bucketParam == 0xFF
  else im.bucketParam < im.params.length &&
    (im.buckets.zip (im.buckets.drop 1)).all (fun e => e.1.1 < e.2.1) &&
    (im.buckets.getLast?).elim false (fun b => b.1 == im.pmax im.bucketParam)

/-! ### Descriptors (R73, R74, R93, R97, R98, R154, R170) -/

def kPaged : Nat := 3
def Desc.paged (x : Desc) : Bool := x.layout == kPaged
/-- R84: a list operand: BUFFER and OFFSET alone, every other field zero. -/
def Desc.isList (x : Desc) : Bool :=
  x == { x with tscale := false, nonsat := false, round := 0, peer := false, rank := 0, format := 0, tsval := 0,
                ext := [0, 0, 0, 0, 0], stride := [0, 0, 0, 0], tile := [0, 0, 0, 0, 0], scales := 0, peerId := 0, layout := 0 } && x.clean

/-- R97: formats that need a SCALES descriptor. -/
def Desc.scaled (x : Desc) : Bool := x.fmt.block
def PlanImg.isScaleDesc (im : PlanImg) (i : Nat) : Bool := im.descs.any (fun y => !y.isList && y.scales == i && y.scaled && !y.paged)

/-- The last element at the planned maxima lies within the buffer (R74). -/
def PlanImg.fits (im : PlanImg) (x : Desc) : Bool :=
  match im.bufs[x.buffer]? with
  | none => false
  | some b =>
    let last := x.elemOff im.pmax ((List.range 5).map (fun a => x.extent im.pmax a - 1))
    x.offset * 256 + fmtBytes x.fmt.bits (last + 1) ≤ b.size

/-- R97: `y` carries the block scales of `x`. -/
def PlanImg.scaleDescOk (im : PlanImg) (x y : Desc) : Bool :=
  y.format == 0x08 && y.layout == 0 && y.rank == x.rank && (rangeFrom 1 4).all (fun a => y.ext.getD a 1 == x.ext.getD a 1) &&
    y.ext.getD 0 0 == ceilDiv (x.extent im.pmax 0) 32 && y.tile.all (· == 1)

/-- R170. -/
def PlanImg.blockedOk (im : PlanImg) (x : Desc) : Bool :=
  match x.chanBlock with
  | none => true
  | some b =>
    let st := fun a => x.stride.getD (a - 1) 0
    st 1 != 0 && st 1 % b == 0 && st 1 * x.extent im.pmax 1 ≤ st 2 && st 2 * x.extent im.pmax 2 ≤ st 3 &&
      (x.rank == 4 || x.rank == 5) && x.extent im.pmax 0 % b == 0

/-- R74: RANK, extents and tile extents of the axes. -/
def PlanImg.axesOk (im : PlanImg) (x : Desc) : Bool :=
  1 ≤ x.rank && x.rank ≤ 5 && (List.range 5).all (fun a =>
    let e := x.ext.getD a 0
    (if bitOf e 31 then fld e 0 6 < im.params.length else fld e 0 31 != 0) && x.tileExt a != 0 &&
      (a < x.rank || (e == 1 && x.tileExt a == 1)))

/-- R154: a paged descriptor's fields. -/
def PlanImg.pagedOk (im : PlanImg) (x : Desc) : Bool :=
  x.buffer < 4 && fld x.offset 28 4 ≤ 8 && fld x.offset 24 4 == 0 && fld x.offset 12 3 == 0 && x.rank == 3 && !x.tscale && !x.peer &&
    x.tsval == 0 && x.stride.all (· == 0) && x.scales == 0xFFF && x.tileExt 0 == x.extent im.pmax 0 && x.tileExt 1 == 256 && x.tileExt 2 == 1

def PlanImg.descOk (im : PlanImg) (i : Nat) (x : Desc) : Bool :=
  x.isList && x.buffer < im.bufs.length ||
  (x.clean && x.layout ≤ 3 && x.round != 3 && (fmtOf x.format).isSome && im.axesOk x &&
    (if x.tscale then scaleOk x.tsval else x.tsval == 0) && (im.isScaleDesc i || x.gridSize im.pmax ≤ 1048576) &&
    (if x.paged then im.pagedOk x && x.format != 0x08
     else im.fits x && im.blockedOk x && (!x.peer || (im.bufs[x.buffer]?).elim false (fun b => b.place == 2)) &&
      (if x.scaled then (im.desc? x.scales).elim false (im.scaleDescOk x) else x.scales == 0xFFF) &&
      (x.format != 0x08 || im.isScaleDesc i)))

/-! ### Convolution records (R171 to R173, R184) -/

/-- R171: the layout that an input or filter of a format must have. -/
def convLayout (bits : Nat) : Nat := if bits ≤ 6 then 1 else 2
def Desc.convIn (x : Desc) : Bool := x.layout == convLayout x.fmt.bits
def Desc.convOut (x : Desc) : Bool := x.layout == 0 || (x.fmt.bits ≤ 16 && x.layout == convLayout x.fmt.bits)

/-- An extent given as a constant. -/
def Desc.constAx (x : Desc) (a : Nat) : Bool := !bitOf (x.ext.getD a 0) 31

/-- R184: the extended tile and the image descriptor of a split axis (0 W, 1 H, 2 D). -/
def PlanImg.splitOk (im : PlanImg) (c : Conv) (x img out : Desc) : Bool :=
  (im.bufs[x.buffer]?).elim false (fun b => b.place == 0) && x.extent im.pmax 4 == 1 && x.format == img.format && x.layout == img.layout &&
    x.ext.getD 0 0 == img.ext.getD 0 0 &&
    (List.range 3).all (fun a =>
      let v := c.axis a
      let w := v.headland
      !v.split || (1 ≤ w && w ≤ 31 && img.tileExt (a + 1) == v.stride * out.tileExt (a + 1) &&
        x.constAx (a + 1) && x.extent im.pmax (a + 1) == out.tileExt (a + 1) * v.stride + 2 * w.toNat &&
        x.tileExt (a + 1) == x.extent im.pmax (a + 1)))

/-- R173: the path fields. -/
def Conv.pathOk (c : Conv) : Bool :=
  if c.freq then
    !c.isSplit && c.axes.all (fun a => (a.log2n != 0) == (1 < a.f) && (a.log2n == 0 || (4 ≤ a.log2n && a.log2n ≤ 12 && a.fe ≤ 2 ^ a.log2n)))
  else c.axes.all (fun a => a.log2n == 0)

def finiteF32 (w : Nat) : Bool := fld w 23 8 != 255

/-- R172. -/
def PlanImg.convOk (im : PlanImg) (c : Conv) : Bool :=
  c.clean && c.kind ≤ 3 &&
  (match im.desc? c.inDesc, im.desc? c.outDesc with
    | some x, some y =>
      !x.isList && !y.isList && !x.paged && !y.paged && x.extent im.pmax 4 == y.extent im.pmax 4 &&
      (if c.kind = 0 then
        (match im.desc? c.filtDesc with
          | none => false
          | some g => !g.isList && !g.paged && (List.range 3).all (fun a => g.constAx (a + 1) && g.extent im.pmax (a + 1) == (c.axis a).f && 1 ≤ (c.axis a).f) &&
            g.constAx 4 && x.extent im.pmax 0 == g.extent im.pmax 0 && g.extent im.pmax 4 == y.extent im.pmax 0)
      else c.filtDesc == 0xFFF && x.extent im.pmax 0 == y.extent im.pmax 0 &&
        (if c.kind = 3 then c.axes.all (fun a => a.raw == 0)
          else c.axes.all (fun a => 1 ≤ a.f && a.f ≤ 16 && a.dil == 1))) &&
      (if c.isSplit then (im.desc? c.imgDesc).elim false (fun img => !img.isList && !img.paged && im.splitOk c x img y) else c.imgDesc == 0xFFF)
    | _, _ => false) &&
  (!c.includePad || c.kind == 1 || c.kind == 2) && (c.const == 0 || c.padMode == 1) && finiteF32 c.const && c.pathOk

/-! ### Segments and markers (R68, R83) -/

/-- R83: listed by first instruction, disjoint or nested, at most four deep, symbolic ones free of
markers. -/
def PlanImg.segsOk (im : PlanImg) (k : Nat) : Bool :=
  let ss := im.shedSegs k
  ss.all (fun s => s.clean && 1 ≤ s.len && s.first + s.len ≤ im.count k &&
    (if s.sym then s.param < im.params.length && 1 ≤ s.div && (rangeFrom s.first s.len).all (fun i => !(im.instr k i).isStep) else 1 ≤ s.trip) &&
    (ss.filter (fun t => t.first ≤ s.first && s.first + s.len ≤ t.first + t.len)).length ≤ 4 &&
    ss.all (fun t => !(t.first < s.first && s.first < t.first + t.len) || s.first + s.len ≤ t.first + t.len)) &&
  (ss.zip (ss.drop 1)).all (fun e => e.1.first ≤ e.2.first)

/-- Markers a run reaches, each counted with the repetitions of its segments. -/
def PlanImg.markers (im : PlanImg) (k : Nat) : Nat :=
  ((im.instrs k).zipIdx).foldl (fun n e =>
    if e.1.isStep then n + ((im.shedSegs k).filter (fun s => s.holds e.2)).foldl (fun m s => m * s.trips im.pmax) 1 else n) 0

/-- R68: exactly STEPS markers, the last instruction one of them, and segments that hold it end with it. -/
def PlanImg.markersOk (im : PlanImg) (k : Nat) : Bool :=
  let n := im.count k
  (im.instr k (n - 1)).isStep && im.markers k == im.steps &&
    (im.shedSegs k).all (fun s => !s.holds (n - 1) || s.first + s.len == n)

/-- R83: the instruction at the extreme iterations of its segments, trip counts at the planned maxima. -/
def cornersOf (pm : Nat → Nat) : List Seg → List (Int × Int × Int)
  | [] => [(0, 0, 0)]
  | s :: t =>
    let r := cornersOf pm t
    let n := Int.ofNat (s.trips pm - 1)
    r ++ (if s.trips pm ≤ 1 then [] else r.map (fun e => (e.1 + n * s.strideD, e.2.1 + n * s.strideA, e.2.2 + n * s.strideB)))
def PlanImg.corners (im : PlanImg) (k i : Nat) : List (Int × Int × Int) := cornersOf im.pmax ((im.shedSegs k).filter (fun s => s.holds i))

/-! ### Instructions (R77) -/

/-- The longest of the segments, the first listed among equals. -/
def longest : List Seg → Option Seg
  | [] => none
  | s :: t => match longest t with
    | none => some s
    | some u => if s.len < u.len then some u else some s

/-- The stream in the order a run issues it under a valuation, as indices with the segments entered and their
iterations, with fuel for the depth of segments. -/
def expandSegs (pv : Nat → Nat) : Nat → List Seg → Nat → Nat → List (Seg × Nat) → List (Nat × List (Seg × Nat))
  | 0, _, lo, hi, fr => (rangeFrom lo (hi - lo)).map (fun i => (i, fr))
  | fuel + 1, ss, lo, hi, fr =>
    (rangeFrom lo (hi - lo)).flatMap (fun i =>
      if ss.any (fun s => s.first < i && s.holds i) then []
      else match longest (ss.filter (fun s => s.first == i)) with
        | none => [(i, fr)]
        | some s =>
          (List.range (s.trips pv)).flatMap (fun j =>
            expandSegs pv fuel ((ss.erase s).filter (fun t => s.holds t.first)) i (i + s.len) ((s, j) :: fr)))

def PlanImg.order (im : PlanImg) (pv : Nat → Nat) (k : Nat) : List (Nat × List (Seg × Nat)) :=
  expandSegs pv 5 (im.shedSegs k) 0 (im.count k) []

/-- R83: an instruction with the strides of the entered segments that hold it. -/
def PlanImg.shifted (im : PlanImg) (k i : Nat) (fr : List (Seg × Nat)) : TI :=
  let g := fun (f : Seg → Int) => ((fr.filter (fun e => e.1.holds i)).map (fun e => Int.ofNat e.2 * f e.1)).foldl (· + ·) 0
  (im.instr k i).shift (g (·.strideD)) (g (·.strideA)) (g (·.strideB))

/-- A plan shed's instructions in issue order under a valuation. -/
def PlanImg.expand (im : PlanImg) (pv : Nat → Nat) (k : Nat) : List TI :=
  (im.order pv k).map (fun e => im.shifted k e.1 e.2)

/-- Instructions as they issue; a TBATCH stands with its template, the instruction after it, which then does not
issue by itself (R84). `skip` is the index of a template just consumed. -/
def PlanImg.pairUp (im : PlanImg) (k : Nat) : List (Nat × List (Seg × Nat)) → Option Nat → List (TI × Option TI)
  | [], _ => []
  | e :: es, skip =>
    if skip = some e.1 then im.pairUp k es none
    else
      let t := im.shifted k e.1 e.2
      if t.cls = cBatch then (t, some (im.shifted k (e.1 + 1) e.2)) :: im.pairUp k es (some (e.1 + 1))
      else (t, none) :: im.pairUp k es none
def PlanImg.issued (im : PlanImg) (pv : Nat → Nat) (k : Nat) : List (TI × Option TI) := im.pairUp k (im.order pv k) none

def PlanImg.placeOf (im : PlanImg) (x : Desc) : Nat := (im.bufs[x.buffer]?).elim 3 (·.place)

/-- A named operand: an index within the descriptors, not a list. -/
def PlanImg.operand (im : PlanImg) (w : Nat) : Option Desc := (im.desc? (opDesc w)).bind (fun x => if x.isList then none else some x)
/-- A TILE with strides added. -/
def tileAt (w : Nat) (s : Int) : Int := Int.ofNat (opTile w) + s
/-- R77, R83: TILE within the grid. -/
def PlanImg.tileIn (im : PlanImg) (x : Desc) (t : Int) : Bool := 0 ≤ t && t < Int.ofNat (x.gridSize im.pmax)

/-- R96: a destination format. -/
def Desc.dstOk (x : Desc) : Bool := x.format != 0x12 && x.format != 0x08
/-- R96: the two sources of a TMM or TCONV. -/
def pairOk (a b : Desc) : Bool :=
  (a.scaled && b.scaled) || (a.format == b.format && (a.format == 0x30 || a.format == 0x31))
/-- Crib or loft. -/
def PlanImg.near (im : PlanImg) (x : Desc) : Bool := !x.paged && im.placeOf x ≤ 1
/-- Crib, loft or HBM: not paged, not a peer. -/
def PlanImg.plain (im : PlanImg) (x : Desc) : Bool := !x.paged && !x.peer && im.placeOf x ≤ 2
def sameTiles (x y : Desc) : Bool := x.tile == y.tile

def PlanImg.checkLoad (im : PlanImg) (t : TI) (sh : Int × Int × Int) : Bool :=
  t.op == 0 && t.flags == 0 && t.param == 0 && t.i3 == noOperand &&
  (match im.operand t.i1, im.operand t.i2 with
    | some x, some y => im.near x && x.dstOk && !y.peer && sameTiles x y && im.tileIn x (tileAt t.i1 sh.1) && im.tileIn y (tileAt t.i2 sh.2.1)
    | _, _ => false)

def PlanImg.checkStore (im : PlanImg) (t : TI) (sh : Int × Int × Int) : Bool :=
  t.op == 0 && t.flags == 0 && t.param == 0 && t.i3 == noOperand &&
  (match im.operand t.i1, im.operand t.i2 with
    | some x, some y => (x.paged || im.placeOf x == 1 || im.placeOf x == 2) && x.dstOk && !y.paged && im.placeOf y == 0 && sameTiles x y &&
        im.tileIn x (tileAt t.i1 sh.1) && im.tileIn y (tileAt t.i2 sh.2.1)
    | _, _ => false)

/-- R368, R77, R96, R97. -/
def PlanImg.checkMm (im : PlanImg) (t : TI) (sh : Int × Int × Int) : Bool :=
  t.op == 0 && t.flags < 16 && t.param == 0 &&
  (match im.operand t.i1, im.operand t.i2, im.operand t.i3 with
    | some c, some a, some b =>
      let ka := a.tileExt (b2n (t.flag 2))
      let ma := a.tileExt (1 - b2n (t.flag 2))
      let kb := b.tileExt (b2n (t.flag 3))
      let nb := b.tileExt (1 - b2n (t.flag 3))
      im.plain c && im.plain a && im.plain b && c.dstOk && pairOk a b && (!t.flag 2 || !a.scaled) && (!t.flag 3 || !b.scaled) &&
        c.tileExt 0 ≤ 128 && c.tileExt 1 ≤ 128 && ka % 32 == 0 && 32 ≤ ka && ka ≤ 4096 && ka == kb && ma == c.tileExt 1 && nb == c.tileExt 0 &&
        [c, a, b].all (fun x => (rangeFrom 2 3).all (fun i => x.tileExt i == 1)) &&
        im.tileIn c (tileAt t.i1 sh.1) && im.tileIn a (tileAt t.i2 sh.2.1) && im.tileIn b (tileAt t.i3 sh.2.2)
    | _, _, _ => false)

/-- R173, R178, R182: a TCONV. -/
def PlanImg.checkConv (im : PlanImg) (t : TI) (sh : Int × Int × Int) : Bool :=
  t.op == 0 && t.flags < 4 &&
  (match im.convs[t.param]?, im.operand t.i1, im.operand t.i2 with
    | some c, some y, some x =>
      let ty := tileAt t.i1 sh.1
      let tx := tileAt t.i2 sh.2.1
      let cy := y.coords im.pmax ty.toNat
      let cx := x.coords im.pmax tx.toNat
      !c.freq && opDesc t.i1 == c.outDesc && opDesc t.i2 == c.inDesc && im.plain x && im.plain y && y.dstOk && x.convIn && y.convOut &&
        x.fmt.bits ≤ 16 && x.format != 0x08 && im.tileIn y ty && im.tileIn x tx &&
        y.tileExt 0 ≤ 128 && y.tileExt 1 * y.tileExt 2 * y.tileExt 3 ≤ 128 && y.tileExt 4 == 1 && x.tileExt 4 == 1 &&
        (c.isSplit || cx.getD 4 0 == cy.getD 4 0) &&
        (if c.kind = 0 then
          (match im.operand t.i3 with
            | some g =>
              let tg := tileAt t.i3 sh.2.2
              let cg := g.coords im.pmax tg.toNat
              let n := x.tileExt 0
              opDesc t.i3 == c.filtDesc && im.plain g && im.tileIn g tg && g.convIn && pairOk x g && [1, 2, 3].all (fun a => cx.getD a 0 == 0) &&
                [1, 2, 3].all (fun a => g.tileExt a == g.extent im.pmax a) && g.tileExt 0 == n && cg.getD 0 0 == cx.getD 0 0 &&
                g.tileExt 4 == y.tileExt 0 && cg.getD 4 0 == cy.getD 0 0 && n % (if x.scaled then 32 else 16) == 0 && 32 ≤ n && n ≤ 4096
            | none => false)
        else t.i3 == noOperand && y.tileExt 0 == x.tileExt 0 && cx.getD 0 0 == cy.getD 0 0 &&
          (c.kind == 3 || (!t.flag 0 && t.flag 1 && [1, 2, 3].all (fun a => cx.getD a 0 == 0))))
    | _, _, _ => false)

/-- R179: a spectrum of `ch` channels and `o` filter output channels (1 otherwise), always tile 0. -/
def PlanImg.spectrum (im : PlanImg) (c : Conv) (x : Desc) (t : Int) (ch o : Nat) : Bool :=
  x.format == 0x40 && x.layout == 0 && im.plain x && t == 0 && (List.range 5).all (fun a => x.constAx a && x.tileExt a == x.extent im.pmax a) &&
    x.extent im.pmax 0 == 2 * ch && x.extent im.pmax 4 == o && (List.range 3).all (fun a => x.extent im.pmax (a + 1) == 2 ^ (c.axis a).log2n)

/-- R180: the block grid of a record, axis by axis. -/
def PlanImg.blockGrid (im : PlanImg) (c : Conv) (x : Desc) : List Nat :=
  match im.desc? c.inDesc with
  | none => []
  | some img =>
    [x.gridAx im.pmax 0] ++ (List.range 3).map (fun a => (c.axis a).blocks ((c.axis a).outExt false (img.extent im.pmax (a + 1)))) ++
      [x.gridAx im.pmax 4]

/-- R173, R179, R180: a TFFT. -/
def PlanImg.checkFft (im : PlanImg) (t : TI) (sh : Int × Int × Int) : Bool :=
  t.op ≤ 2 && t.core == 0 &&
  (match im.convs[t.param]?, im.operand t.i1, im.operand t.i2 with
    | some c, some y, some x =>
      let ty := tileAt t.i1 sh.1
      let tx := tileAt t.i2 sh.2.1
      let inBlocks := fun (z : Desc) (n : Int) => 0 ≤ n && n < Int.ofNat ((im.blockGrid c z).foldl (· * ·) 1)
      c.freq && t.flags == (List.range 3).foldl (fun m a => m + b2n ((c.axis a).log2n != 0) * 2 ^ a) 0 && im.plain x && im.plain y &&
        (if t.op = 0 then t.i3 == noOperand &&
            (if opDesc t.i2 = c.filtDesc then
              im.tileIn x tx && x.convIn && [1, 2, 3].all (fun a => x.tileExt a == x.extent im.pmax a) &&
                im.spectrum c y ty (x.tileExt 0) (x.tileExt 4)
            else opDesc t.i2 == c.inDesc && x.convIn && inBlocks x tx && x.tileExt 4 == 1 && im.spectrum c y ty (x.tileExt 0) 1)
        else if t.op = 1 then
          t.i3 == noOperand && opDesc t.i1 == c.outDesc && y.dstOk && y.convOut && inBlocks y ty && y.tileExt 4 == 1 &&
            im.spectrum c x tx (y.tileExt 0) 1
        else match im.operand t.i3 with
          | none => false
          | some g => im.spectrum c g (tileAt t.i3 sh.2.2) (x.extent im.pmax 0 / 2) (g.extent im.pmax 4) &&
              im.spectrum c x tx (x.extent im.pmax 0 / 2) 1 && im.spectrum c y ty (g.extent im.pmax 4) 1)
    | _, _, _ => false)

def PlanImg.checkSf (im : PlanImg) (t : TI) (sh : Int × Int × Int) : Bool :=
  t.op ≤ 10 && t.flags == 0 && t.param == 0 && t.i3 == noOperand &&
  (match im.operand t.i1, im.operand t.i2 with
    | some x, some y => im.near x && im.near y && x.dstOk && y.format != 0x08 && sameTiles x y &&
        im.tileIn x (tileAt t.i1 sh.1) && im.tileIn y (tileAt t.i2 sh.2.1)
    | _, _ => false)

/-- R132, R138, R139. -/
def PlanImg.checkNorm (im : PlanImg) (t : TI) (sh : Int × Int × Int) : Bool :=
  t.op ≤ 2 && t.flags == 0 && t.param ≤ 126 &&
  (match im.operand t.i1, im.operand t.i2 with
    | some x, some y => im.near x && im.near y && x.dstOk && y.format != 0x08 && y.extent im.pmax 0 ≤ 2 ^ 24 &&
        (t.op != 2 || x.format == 0x40) && im.tileIn x (tileAt t.i1 sh.1) && im.tileIn y (tileAt t.i2 sh.2.1) &&
        (y.coords im.pmax (tileAt t.i2 sh.2.1).toNat).getD 0 1 == 0 &&
        (t.i3 == noOperand || (im.operand t.i3).elim false (fun z => im.near z && im.tileIn z (tileAt t.i3 sh.2.2)))
    | _, _ => false)

/-- Rows of a tile: its positions on axes 1 to 4. -/
def Desc.rows (x : Desc) : Nat := x.tileExt 1 * x.tileExt 2 * x.tileExt 3 * x.tileExt 4

/-- R77, R157; the rules of a group are checked over the stream. -/
def PlanImg.checkSoft (im : PlanImg) (t : TI) (sh : Int × Int × Int) : Bool :=
  t.op == 0 && t.flags < 4 && t.param == 0 &&
  (match im.operand t.i1, im.operand t.i2 with
    | some x, some y => im.near x && im.near y && x.dstOk && y.format != 0x08 && y.rows ≤ 256 &&
        im.tileIn x (tileAt t.i1 sh.1) && im.tileIn y (tileAt t.i2 sh.2.1) &&
        (t.i3 == noOperand || (im.operand t.i3).elim false (fun z => z.paged && im.tileIn z (tileAt t.i3 sh.2.2)))
    | _, _ => false)

/-- R185. -/
def PlanImg.checkXch (im : PlanImg) (t : TI) (sh : Int × Int × Int) : Bool :=
  t.op == 0 && t.flags < 8 && 1 ≤ t.param && t.param ≤ 31 && fld t.i3 0 21 == 0 && fld t.i3 21 5 < im.sheds &&
  (match im.operand t.i1, im.operand t.i2 with
    | some x, some y =>
      let tx := tileAt t.i1 sh.1
      let ty := tileAt t.i2 sh.2.1
      let cx := y.coords im.pmax tx.toNat
      let cy := y.coords im.pmax ty.toNat
      im.plain x && im.placeOf x == 0 && im.plain y && x.dstOk && im.tileIn y tx && im.tileIn y ty &&
        im.convs.any (fun c => c.isSplit && c.inDesc == opDesc t.i1 && c.imgDesc == opDesc t.i2 &&
          (List.range 3).all (fun a => !t.flag a || (c.axis a).headland == Int.ofNat t.param)) &&
        (List.range 5).all (fun a =>
          let ex := 1 ≤ a && a ≤ 3 && t.flag (a - 1)
          x.tileExt a == y.tileExt a + (if ex then 2 * t.param else 0) && (ex || cx.getD a 0 == cy.getD a 0))
    | _, _ => false)

/-- R84, R132: the template of a TBATCH. -/
def templateOk (t : TI) : Bool := [cMm, cConv, cSf, cNorm, cLoad, cStore].contains t.cls || (t.cls == cSoft && t.flag 0 && t.flag 1)

/-- R84. The list number in I2's TILE field has no grid: it is not checked at the extreme iterations of R83, and a
number that strides carry out of the field wraps modulo 2^20 (DESIGN CHOICE, log 66). -/
def PlanImg.checkBatch (im : PlanImg) (k i : Nat) (t : TI) : Bool :=
  t.op == 0 && t.flags < 4 && t.param == 0 && t.core == 0 && t.i3 == noOperand &&
    (if t.flag 1 then t.i1 < im.params.length && t.i1 < 64 && im.pmax t.i1 ≤ 4096 else 1 ≤ t.i1 && t.i1 ≤ 4096) &&
    (im.desc? (opDesc t.i2)).elim false (fun x => x.isList) && i + 1 < im.count k - 1 && templateOk (im.instr k (i + 1))

def PlanImg.checkSig (im : PlanImg) (t : TI) : Bool :=
  t.op == 0 && t.flags < 8 && t.param == 0 && t.i3 == noOperand && fld t.i1 0 8 == 0 && fld t.i1 16 5 < im.sheds &&
    (!t.flag 0 || t.core == 0) && (!t.flag 1 || (t.flags == 2 && t.core == 0 && t.i1 == 0 && t.i2 == 0))

def checkWait (t : TI) : Bool :=
  t.op == 0 && t.flags == 0 && t.param == 0 && t.core == 0 && t.i3 == noOperand && fld t.i1 0 8 == 0 && fld t.i1 16 16 == 0

/-- R91. -/
def PlanImg.checkChain (im : PlanImg) (k i : Nat) (t : TI) : Bool :=
  t.op == 0 && t.flags == 0 && t.i1 == noOperand && t.i2 == noOperand && t.i3 == noOperand && 2 ≤ t.param && t.param ≤ 16 &&
    i + t.param < im.count k &&
    (rangeFrom (i + 1) t.param).all (fun j =>
      let m := im.instr k j
      [cMm, cConv, cSf, cNorm, cSoft, cLoad, cStore].contains m.cls && m.core == t.core &&
        (im.shedSegs k).all (fun s => s.holds i == s.holds j) &&
        (j == i + t.param || (im.operand m.i1).elim false (fun x => !x.paged && im.placeOf x == 0)))

/-- R75 to R77: one instruction at one extreme of its segments. -/
def PlanImg.instrOk (im : PlanImg) (k i : Nat) (t : TI) (sh : Int × Int × Int) : Bool :=
  fld t.i0 8 2 == 0 &&
    (if t.cls = cLoad then im.checkLoad t sh
    else if t.cls = cStore then im.checkStore t sh
    else if t.cls = cMm then im.checkMm t sh
    else if t.cls = cConv then im.checkConv t sh
    else if t.cls = cFft then im.checkFft t sh
    else if t.cls = cSf then im.checkSf t sh
    else if t.cls = cNorm then im.checkNorm t sh
    else if t.cls = cSoft then im.checkSoft t sh
    else if t.cls = cXch then im.checkXch t sh
    else if t.cls = cBatch then im.checkBatch k i t
    else if t.cls = cSig then im.checkSig t
    else if t.cls = cWait then checkWait t
    else if t.cls = cChain then im.checkChain k i t
    else false)

/-! ### Positions -/

/-- Positions of a box, axis 0 fastest. -/
def boxCoords : List Nat → List Nat → List (List Nat)
  | o :: os, n :: ns => (boxCoords os ns).flatMap (fun t => (List.range n).map (fun i => (o + i) :: t))
  | _, _ => [[]]

def within (bound c : List Nat) : Bool := (List.zipWith (fun b i => decide (i < b)) bound c).all id

/-- The origin of a tile. -/
def Desc.tileOrigin (x : Desc) (pm : Nat → Nat) (t : Nat) : List Nat := List.zipWith (· * ·) (x.coords pm t) x.tile

/-- The bytes of a tile in its crib or loft, as (first, number) by element, at the planned maxima. -/
def PlanImg.tileSpans (im : PlanImg) (x : Desc) (t : Nat) : List (Nat × Nat) :=
  let b := x.fmt.bits
  let base := (im.bufs[x.buffer]?).elim 0 (·.off) + x.offset * 256
  ((boxCoords (x.tileOrigin im.pmax t) x.tile).filter (within ((List.range 5).map (x.extent im.pmax)))).map (fun c =>
    (base + x.elemOff im.pmax c * b / 8, ceilDiv (x.elemOff im.pmax c * b % 8 + b) 8))

def spansMeet (xs ys : List (Nat × Nat)) : Bool := xs.any (fun a => ys.any (fun b => overlaps a.1 a.2 b.1 b.2))

/-! ### Soft-maximum groups (R140) -/

/-- An instruction that writes its I1 tile: not a TMM or TCONV without OUT. -/
def TI.writesTile (t : TI) : Bool := (descWords t.cls).1 && !((t.cls == cMm || t.cls == cConv) && !t.flag 1)

/-- The core whose crib an instruction's destination names: for a TXCH the neighbour's. -/
def TI.dstCore (t : TI) : Nat := if t.cls = cXch then fld t.i3 26 6 else t.core

/-- R140: an instruction of plan shed k writes bytes of a scores tile that core `c` of the shed reads. With `all`,
the instruction runs on every core. Offsets of pointer-list entries are not known at PLAN_LOAD and not judged. -/
def PlanImg.spoils (im : PlanImg) (k c : Nat) (scores w : TI) (all : Bool) : Bool :=
  match im.desc? (opDesc scores.i2), im.desc? (opDesc w.i1) with
  | some x, some y =>
    w.writesTile && !y.paged && im.placeOf x == im.placeOf y && (w.cls != cXch || fld w.i3 21 5 == k) &&
      (im.placeOf x == 1 || all || w.dstCore == c) &&
      spansMeet (im.tileSpans x (opTile scores.i2)) (im.tileSpans y (if w.cls = cXch then 0 else opTile w.i1))
  | _, _ => false

/-- The group open on a core while the stream is read: its members, their rows (origin and extents on axes 1 to 4), and
the instructions since its first member that write a tile. -/
structure SoftScan where
  members : List TI
  rows : List Nat × List Nat
  writers : List (TI × Bool)
  deriving DecidableEq, Repr

/-- R140: the rows of a member's scores tile. -/
def PlanImg.softRows (im : PlanImg) (t : TI) : List Nat × List Nat :=
  (im.desc? (opDesc t.i2)).elim ([], []) (fun x => ((x.tileOrigin im.pmax (opTile t.i2)).drop 1, x.tile.drop 1))

/-- R140 over the instructions of plan shed k in issue order for the groups of core c. -/
def PlanImg.softScan (im : PlanImg) (k c : Nat) : List (TI × Option TI) → Option SoftScan → Bool
  | [], g => g.isNone
  | (t, tmpl) :: ts, g =>
    if t.isStep then g.isNone && im.softScan k c ts none
    else match tmpl with
      | some u =>
        let here := t.flag 0 || u.core == c
        !(here && u.cls == cSoft && g.isSome) && im.softScan k c ts (g.map (fun x => { x with writers := (u, t.flag 0) :: x.writers }))
      | none =>
        if t.cls = cSoft ∧ t.core = c then
          let cur : Option SoftScan :=
            if t.flag 0 then (if g.isNone then some { members := [], rows := im.softRows t, writers := [] } else none) else g
          match cur with
          | none => false
          | some x =>
            let y : SoftScan := { x with members := t :: x.members }
            x.rows == im.softRows t && y.members.length ≤ 1024 &&
              (if t.flag 1 then y.members.all (fun m => y.writers.all (fun w => !im.spoils k c m w.1 w.2)) && im.softScan k c ts none
               else im.softScan k c ts (some y))
        else im.softScan k c ts (g.map (fun x => { x with writers := (t, false) :: x.writers }))

def PlanImg.softOk (im : PlanImg) (k : Nat) : Bool :=
  let ts := im.issued im.pmax k
  (List.range 64).all (fun c => im.softScan k c ts none)

/-! ### The whole image -/

def PlanImg.shedOk (im : PlanImg) (k : Nat) : Bool :=
  im.segsOk k && im.markersOk k &&
    ((im.instrs k).zipIdx).all (fun e => (im.corners k e.2).all (fun sh => im.instrOk k e.2 e.1 sh)) && im.softOk k

/-- R63: everything that PLAN_LOAD checks in the image itself. -/
def planOk (bs : List Byte) : Bool :=
  headerOk bs && crcOk bs && sectionsOk bs && paramsOk bs &&
    (let im := readPlan bs
     im.streams.all (streamOk bs) && segFirstsOk im && im.bufsOk && im.bucketsOk && (im.descs.zipIdx).all (fun e => im.descOk e.2 e.1) &&
      im.convs.all im.convOk && (List.range im.sheds).all im.shedOk &&
      (im.chain == (List.range im.sheds).any (fun k => (im.instrs k).any (fun t => t.cls == cChain))))

/-! ### EXACT (R104) -/

/-- Elements of reduction extent of a TMM or TCONV at the planned maxima. -/
def PlanImg.reduction (im : PlanImg) (t : TI) : Nat :=
  match im.desc? (opDesc t.i2) with
  | none => 0
  | some a =>
    if t.cls = cMm then a.tileExt (b2n (t.flag 2))
    else match im.convs[t.param]? with
      | none => 0
      | some c =>
        if c.kind = 0 then a.tileExt 0 * (c.axis 0).f * (c.axis 1).f * (c.axis 2).f
        else if c.kind = 3 then a.tileExt 1 * a.tileExt 2 * a.tileExt 3
        else (c.axis 0).f * (c.axis 1).f * (c.axis 2).f

/-- R102, R104: every group of a core holds at most 65,536 elements and lies within one step. The scan
carries the step and, for a started group, its elements and its step. -/
def PlanImg.exactScan (im : PlanImg) : List TI → Nat → Option (Nat × Nat) → Bool
  | [], _, _ => true
  | t :: ts, step, g =>
    if t.isStep then im.exactScan ts (step + 1) g
    else if t.cls = cMm ∨ t.cls = cConv then
      let cur : Nat × Nat := match g with
        | none => (0, step)
        | some x => if t.flag 0 then x else (0, step)
      let n := cur.1 + im.reduction t
      n ≤ 65536 && cur.2 == step && im.exactScan ts step (some (n, cur.2))
    else im.exactScan ts step g

/-- The instructions of one core, with the step markers. -/
def ofCore (c : Nat) (ts : List TI) : List TI := ts.filter (fun t => t.isStep || (t.core == c && t.cls != cFft))

/-- R104 over the whole plan: templates of TBATCH are groups of their own (R102). -/
def PlanImg.exactOk (im : PlanImg) : Bool :=
  (List.range im.sheds).all (fun k =>
    let ts := im.issued im.pmax k
    let plain := (ts.filter (fun e => e.2.isNone)).map (·.1)
    (ts.filterMap (·.2)).all (fun t => im.reduction t ≤ 65536) && (List.range 64).all (fun c => im.exactScan (ofCore c plain) 0 none))

end Sys2Proof.Machine
end

