-- ==== Sys2Proof/Machine/Issue.lean ====
section
/-! DEFINITION. Issue: the position of a shed controller in its stream, the queues of the cores, and the issue of instructions (R65, R66, R75, R78, R83, R84). -/
namespace Sys2Proof.Machine
open Sys2Proof

/-- A run's bound parameter values (R69). -/
def Run.pv (r : Run) (i : Nat) : Nat := r.bind.getD i 0

/-- The queue of the shed's FFT unit; 0 to 63 are the logical cores. -/
def fftUnit : Nat := 64
/-- R78: instructions a queue holds. -/
def queueDepth : Nat := 16

/-! ### Positions (R83): the instruction index and the segments entered, innermost first, each with its iteration -/

/-- Of the segments that start here and are not entered, the outermost: its index. -/
def nextSeg (ss : List Seg) (pc : Nat) (frames : List (Nat × Nat)) : Option Nat :=
  let c := ss.zipIdx.filter (fun e => e.1.first == pc && !frames.any (fun f => f.1 == e.2))
  (longest (c.map (·.1))).bind (fun s => (c.find? (fun e => e.1 == s)).map (·.2))

/-- Enters the segments that start at an instruction, with fuel for their depth. -/
def enterSegs (ss : List Seg) (pc : Nat) : Nat → List (Nat × Nat) → List (Nat × Nat)
  | 0, fr => fr
  | n + 1, fr => match nextSeg ss pc fr with
    | none => fr
    | some i => enterSegs ss pc n ((i, 0) :: fr)

/-- Leaves the segments that end before an instruction, or goes back to the start of one with iterations
left. -/
def closeSegs (ss : List Seg) (pv : Nat → Nat) (pc : Nat) : List (Nat × Nat) → Nat × List (Nat × Nat)
  | [] => (pc, [])
  | (i, j) :: fr =>
    match ss[i]? with
    | none => (pc, fr)
    | some s =>
      if s.first + s.len = pc then
        (if j + 1 < s.trips pv then (s.first, (i, j + 1) :: fr) else closeSegs ss pv pc fr)
      else (pc, (i, j) :: fr)

/-- The controller moves past an instruction. -/
def ShedRun.next (x : ShedRun) (ss : List Seg) (pv : Nat → Nat) : ShedRun :=
  let z := closeSegs ss pv (x.pc + 1) x.frames
  { x with pc := z.1, frames := enterSegs ss z.1 5 z.2 }

/-- The strides that the entered segments add. -/
def strideSum (ss : List Seg) (fr : List (Nat × Nat)) : Int × Int × Int :=
  fr.foldl (fun z f => match ss[f.1]? with
    | none => z
    | some s => (z.1 + Int.ofNat f.2 * s.strideD, z.2.1 + Int.ofNat f.2 * s.strideA, z.2.2 + Int.ofNat f.2 * s.strideB)) (0, 0, 0)

/-- The instruction the controller stands at, its strides added. -/
def ShedRun.cur (x : ShedRun) (im : PlanImg) (k : Nat) : TI :=
  let sh := strideSum (im.shedSegs k) x.frames
  (im.instr k x.pc).shift sh.1 sh.2.1 sh.2.2

/-- R84: the template of the TBATCH that the controller stands at: the instruction after it, with the strides of the
entered segments that hold it. -/
def ShedRun.template (x : ShedRun) (im : PlanImg) (k : Nat) : TI :=
  let ss := im.shedSegs k
  let sh := strideSum ss (x.frames.filter (fun f => (ss[f.1]?).elim false (fun s => s.holds (x.pc + 1))))
  (im.instr k (x.pc + 1)).shift sh.1 sh.2.1 sh.2.2

/-- The controller moves past a TBATCH, and past its template where that is what comes next. -/
def ShedRun.pastBatch (x : ShedRun) (ss : List Seg) (pv : Nat → Nat) : ShedRun :=
  let y := x.next ss pv
  if y.pc = x.pc + 1 then y.next ss pv else y

/-- Instructions that the controller itself carries out, when their turn comes (R80, R84). -/
def TI.held (t : TI) : Bool := t.cls == cWait || t.cls == cBatch || (t.cls == cSig && (t.flag 0 || t.flag 1))

def ShedRun.queue (x : ShedRun) (u : Nat) : List TI := KV.getD x.queues u []
/-- Puts an instruction into a queue with room. -/
def ShedRun.enqueue (x : ShedRun) (u : Nat) (t : TI) : ShedRun := { x with queues := KV.put x.queues u (x.queue u ++ [t]) }
/-- The front instruction of a queue leaves it. -/
def ShedRun.dequeue (x : ShedRun) (u : Nat) : ShedRun :=
  match x.queue u with
  | _ :: a :: r => { x with queues := KV.put x.queues u (a :: r) }
  | _ => { x with queues := KV.del x.queues u }
/-- Every instruction issued so far has finished. -/
def ShedRun.drained (x : ShedRun) : Bool := x.queues.isEmpty

/-- R78, R84: issues in order while the queues have room, up to the next instruction that the controller
carries out itself or the end of the step; fuel bounds the issues by the room of the queues. -/
def pump (im : PlanImg) (pv : Nat → Nat) (k step : Nat) : Nat → ShedRun → ShedRun
  | 0, x => x
  | n + 1, x =>
    if x.markers ≠ step ∨ im.count k ≤ x.pc then x
    else
      match x.batch with
      | some (i, es) =>
        (match es[i]? with
          | none => pump im pv k step n ({ x with batch := none }.pastBatch (im.shedSegs k) pv)
          | some e =>
            let t := x.template im k
            let u := if (im.instr k x.pc).flag 0 then i % 64 else t.core
            if (x.queue u).length < queueDepth then
              pump im pv k step n { x.enqueue u { t with ent := e } with batch := some (i + 1, es) }
            else x)
      | none =>
        let t := x.cur im k
        if t.held then x
        else
          let u := if t.cls = cFft then fftUnit else t.core
          if (x.queue u).length < queueDepth then pump im pv k step n ((x.enqueue u t).next (im.shedSegs k) pv) else x

/-- More issues than the queues of a shed have room for. -/
def pumpFuel : Nat := 65 * queueDepth + 2

def Dev.updRun (d : Dev) (f : Nat) (g : Run → Run) : Dev := { d with runs := KV.upd d.runs f g }
/-- The plan of a run and its image. -/
def Dev.runPlan (d : Dev) (r : Run) : Option Plan := KV.find d.plans r.plan

/-- Every shed of a run issues what it can. -/
def Dev.pumpRun (d : Dev) (f : Nat) : Dev :=
  match KV.find d.runs f with
  | none => d
  | some r =>
    match d.runPlan r with
    | none => d
    | some p =>
      let im := d.planImg p
      d.updRun f (fun r => if !r.started || !r.stepOn || r.suspended then r
        else { r with sheds := KV.mapV r.sheds (fun k x => pump im r.pv k r.step pumpFuel x) })

/-- R65, R66: a run's sheds at its first instruction: logical cores in the order of the good physical
ones. -/
def ShedRun.start (ss : List Seg) (phys : Nat) (cores : List Nat) : ShedRun :=
  { phys := phys, cores := cores, pc := 0, frames := enterSegs ss 0 5 [], markers := 0, waiting := false, queues := [], chain := [],
    counters := [], batch := none }

end Sys2Proof.Machine
end

