-- ==== Sys2Proof/Machine/Tensor.lean ====
section
/-! DEFINITION. Operands of a running tile: where a descriptor's bytes lie, its elements and block scales, and the writing of a destination tile (R73, R74, R85, R88 to R90, R94, R97 to R100, R109, R117, R118, R123, R154, R155, R216, R219). -/
namespace Sys2Proof.Machine
open Sys2Proof

/-- Where bytes lie. -/
inductive Loc where
  | sram (a : Nat)
  | hbm (a : Nat)
  | host (a : Nat)
  | peer (dev a : Nat)
  deriving DecidableEq, Repr

def Loc.plus (n : Nat) : Loc → Loc
  | .sram a => .sram (a + n)
  | .hbm a => .hbm (a + n)
  | .host a => .host (a + n)
  | .peer v a => .peer v (a + n)

/-- What a tile instruction runs in: the run, its plan and image, the plan shed and the logical core. -/
structure Env where
  im : PlanImg
  f : Nat
  r : Run
  p : Plan
  k : Nat
  x : ShedRun
  c : Nat
  deriving DecidableEq, Repr

def Env.pm (e : Env) (i : Nat) : Nat := e.im.pmax i
def Env.pv (e : Env) (i : Nat) : Nat := e.r.pv i
/-- The core as the packets it sends are marked with it (R80). -/
def Env.unit (e : Env) : Nat := 1 + e.k * 64 + e.c
def Env.phys (e : Env) : Nat := e.x.cores.getD e.c 0
/-- The key of the physical core. -/
def Env.core (e : Env) : Nat := coreKey e.x.phys e.phys
/-- R68: the step number that the step carries. -/
def Run.stepNo (r : Run) : Nat := (r.stepBase + r.step) % 2 ^ 24
def Run.mode (r : Run) (i : Nat) : Bool := bitOf r.modes i
def mExact : Nat := 0
def mDet : Nat := 1
def mStoch : Nat := 2
def mGuard : Nat := 3
def mChained : Nat := 4
def mSparse : Nat := 5
def mSpec : Nat := 6

/-! ### Layers (R115, R123, R219) -/

/-- The layer whose steps hold step s: its index. -/
def LayerTable.layerAt (t : LayerTable) (s : Nat) : Option Nat :=
  (List.range t.layers.length).find? (fun i => match t.layers[i]? with
    | some l => l.firstStep ≤ s && s < l.firstStep + l.stepCount
    | none => false)
/-- R123: PROMOTED. -/
def Layer.promoted (l : Layer) : Bool := l.state == 2
/-- The current copy: buffer, source, 4 KiB blocks, address. -/
def Layer.copy (l : Layer) : Nat × Nat × Nat × Nat :=
  if l.promoted then (l.wideBuf, l.wideSrc, l.wideBlocks, l.wideAddr) else (l.narrowBuf, l.narrowSrc, l.narrowBlocks, l.narrowAddr)
/-- R220: fetched by the main stream. -/
def Layer.streamed (l : Layer) : Bool := l.copy.2.1 == 1 || l.copy.2.1 == 2
def mib2 : Nat := 2 ^ 21
/-- R225: the spacing of carry-over entries. -/
def PlanImg.carryEntry (im : PlanImg) (t : LayerTable) : Nat :=
  roundUp ((t.layers.map (fun l => if l.carryDesc = 0xFFF then 0 else
    ((im.desc? l.carryDesc).bind (fun x => im.bufs[x.buffer]?)).elim 0 (·.size))).foldl max 0) mib2

def Plan.layerAt (p : Plan) (s : Nat) : Option (Nat × Layer) :=
  match p.table with
  | none => none
  | some t => (t.layerAt s).bind (fun i => (t.layers[i]?).map (fun l => (i, l)))

/-- R123: the descriptor that stands in for a named one during the step. -/
def Env.subst (e : Env) (di : Nat) : Nat :=
  match e.p.layerAt e.r.step with
  | some (_, l) => if l.promoted && l.widenFirst ≤ di && di < l.widenFirst + l.widenCount then di + l.twinOffset else di
  | none => di

/-- R219: the HBM address that a layer's buffer has during the layer's steps; the carry-over entry's is the one in
force as the layer's first step started (R225). -/
def Env.layerBuf (e : Env) (b : Nat) : Option Nat :=
  match e.p.layerAt e.r.step, e.p.table with
  | some (i, l), some t =>
    if b = l.copy.1 ∧ l.streamed then (e.p.window.find? (fun w => w.layer == i && w.wide == l.promoted)).map (·.addr)
    else if b = l.copy.1 ∧ l.copy.2.1 = 3 then some l.copy.2.2.2
    else if l.carryDesc ≠ 0xFFF ∧ (e.im.desc? l.carryDesc).map (·.buffer) = some b then
      e.r.layerCarry.map (fun a => a + i * e.im.carryEntry t)
    else none
  | _, _ => none

/-- The bytes of a descriptor's first element (Table 4.2, R213, R216, R219). -/
def Env.loc (e : Env) (x : Desc) : Loc :=
  let b := (e.im.bufs[x.buffer]?).getD { place := 3, off := 0, size := 0, clean := false }
  let o := x.offset * 256
  if b.place = 0 then .sram (cribAddr e.x.phys e.phys (b.off + o))
  else if b.place = 1 then .sram (loftAddr e.x.phys (b.off + o))
  else match e.layerBuf x.buffer with
    | some a => .hbm (a + o)
    | none =>
      let s := KV.getD e.r.slots b.off 0
      let a := fld s 0 62 + o
      if x.peer then .peer x.peerId a else if fld s 62 2 = 1 then .host a else .hbm a

/-! ### Operands -/

/-- A tile of a descriptor as an instruction reads or writes it. -/
structure Opnd where
  /-- the descriptor's index as named, and after R123 -/
  named : Nat
  di : Nat
  tile : Nat
  desc : Desc
  loc : Loc
  sdesc : Option Desc
  sloc : Loc
  origin : List Nat
  size : List Nat
  bound : List Nat
  deriving DecidableEq, Repr

/-- Byte offset of an entry for word j (1 destination, 2 and 3 sources), and its limits (Table 4.9). -/
def TI.entOff (t : TI) (j : Nat) : Nat := t.ent.getD (2 * (j - 1)) 0 + 2 ^ 32 * t.ent.getD (2 * (j - 1) + 1) 0
def limitOf (v : Nat) : Option Nat := if v = 0xFFFF then none else some v
def TI.cols (t : TI) : Option Nat := if t.ent.isEmpty then none else limitOf (fld (t.ent.getD 6 0) 16 16)
def TI.rows (t : TI) : Option Nat := if t.ent.isEmpty then none else limitOf (fld (t.ent.getD 6 0) 0 16)
def TI.klim (t : TI) : Option Nat := if t.ent.isEmpty then none else limitOf (fld (t.ent.getD 7 0) 0 16)

/-- R85: limits clip a tile from the origin. -/
def clip (lim : Option Nat) (n : Nat) : Nat := match lim with
  | none => n
  | some l => min l n

/-- A descriptor as bound in this run, with no tile chosen. A pointer-list entry's offset moves the data address; the
block scales are addressed from the descriptor's own elements, and the offset does not move them: R85 and R97 do not
say (DESIGN CHOICE, log 66). -/
def Env.whole (e : Env) (named : Nat) (x : Desc) (off : Nat) : Opnd :=
  let sd := if x.scaled && !x.paged then e.im.desc? x.scales else none
  { named := named, di := e.subst named, tile := 0, desc := x, loc := (e.loc x).plus off, sdesc := sd,
    sloc := (sd.map e.loc).getD (.sram 0), origin := [0, 0, 0, 0, 0], size := (List.range 5).map (x.extent e.pv),
    bound := (List.range 5).map (x.extent e.pv) }

/-- The operand that word j names, with the tile's origin and extents (R74, R85). -/
def Env.opnd (e : Env) (t : TI) (j : Nat) : Option Opnd :=
  let w := if j = 1 then t.i1 else if j = 2 then t.i2 else t.i3
  if opDesc w = 0xFFF then none
  else (e.im.desc? (e.subst (opDesc w))).map (fun x =>
    let o := e.whole (opDesc w) x (t.entOff j)
    { o with tile := opTile w, origin := List.zipWith (· * ·) (x.coords e.pm (opTile w)) x.tile, size := x.tile })

/-- Positions of the tile inside the bound extents. -/
def Opnd.cells (o : Opnd) : List (List Nat) := (boxCoords o.origin o.size).filter (within o.bound)
/-- R85: the tile clipped by an entry's limits along axes 0 and 1. -/
def Opnd.clipped (o : Opnd) (t : TI) : Opnd :=
  { o with size := [clip t.cols (o.size.getD 0 0), clip t.rows (o.size.getD 1 0)] ++ o.size.drop 2 }
/-- R89: the tile lies wholly beyond the bound extents. -/
def Opnd.beyond (o : Opnd) : Bool := !within o.bound o.origin
/-- The position at an offset from the tile's origin. -/
def Opnd.at' (o : Opnd) (off : List Nat) : List Nat := List.zipWith (· + ·) o.origin off
/-- The offset of a position from the tile's origin. -/
def Opnd.offOf (o : Opnd) (c : List Nat) : List Nat := List.zipWith (· - ·) c o.origin

/-- The element index of a position from the operand's first byte; a page holds rows of tokens (R145). -/
def Opnd.elem (o : Opnd) (pm : Nat → Nat) (c : List Nat) : Nat :=
  if o.desc.paged then c.getD 0 0 + (c.getD 1 0 % 256) * o.desc.extent pm 0 else o.desc.elemOff pm c
/-- The index of a position's block scale. -/
def Opnd.scaleElem (o : Opnd) (pm : Nat → Nat) (c : List Nat) : Nat :=
  if o.desc.paged then c.getD 0 0 / 32 + (c.getD 1 0 % 256) * (o.desc.extent pm 0 / 32)
  else match o.sdesc with
    | none => 0
    | some s => s.elemOff pm (c.getD 0 0 / 32 :: c.drop 1)

def Dev.locMem (d : Dev) : Loc → Memory × Nat
  | .sram a => (d.sram, a)
  | .hbm a => (d.hbm, a)
  | .host a => (d.host, a)
  | .peer _ a => ([], a)

/-- Element i of `bits` bits from a byte address (Table 5.2: elements pack from the least significant
bit up). -/
def getBits (m : Memory) (a bits i : Nat) : Nat :=
  fld (m.readLE (a + i * bits / 8) (ceilDiv (i * bits % 8 + bits) 8)) (i * bits % 8) bits
def putBits (m : Memory) (a bits i v : Nat) : Memory :=
  let b := a + i * bits / 8
  let n := ceilDiv (i * bits % 8 + bits) 8
  m.writeLE b n (putFld (m.readLE b n) (i * bits % 8) bits v)

/-- The code at a position; beyond the bound extents nothing is read and 0 is supplied (R88). -/
def Opnd.code (o : Opnd) (d : Dev) (pm : Nat → Nat) (c : List Nat) : Nat :=
  if !within o.bound c then 0
  else let m := d.locMem o.loc; getBits m.1 m.2 o.desc.fmt.bits (o.elem pm c)
/-- The scale code of a position's block; none for a format without one (R97). -/
def Opnd.scale (o : Opnd) (d : Dev) (pm : Nat → Nat) (c : List Nat) : Option Nat :=
  if !o.desc.scaled then none
  else if !within o.bound c then some 0
  else let m := d.locMem o.sloc; some (getBits m.1 m.2 8 (o.scaleElem pm c))
/-- R94, R97: the value at a position, its tensor scale apart. -/
def Opnd.val (o : Opnd) (d : Dev) (pm : Nat → Nat) (c : List Nat) : Val :=
  if !within o.bound c then Val.zero else o.desc.fmt.scaled (o.code d pm c) (o.scale d pm c)

/-- Multiplies a value by an exact positive factor (R98). -/
def Val.times (v : Val) (q : Q) : Val := match v with
  | .fin x => .fin (x.mul q)
  | w => w

/-- The first poisoned byte that the elements at some positions touch in HBM (Table 11.8). -/
def Opnd.poisonedAt (o : Opnd) (d : Dev) (pm : Nat → Nat) (cells : List (List Nat)) : Option Nat :=
  match o.loc with
  | .hbm a =>
    if d.poison.isEmpty then none
    else
      let b := o.desc.fmt.bits
      cells.findSome? (fun c => d.poisoned (a + o.elem pm c * b / 8) (ceilDiv (o.elem pm c * b % 8 + b) 8))
  | _ => none
/-- The same over the operand's in-bounds elements. -/
def Opnd.poisoned (o : Opnd) (d : Dev) (pm : Nat → Nat) : Option Nat := o.poisonedAt d pm o.cells

/-! ### Writing (R88, R95, R99, R100, R107 to R110) -/

/-- One element to be written: its position, its value, and whether it came from a special input. -/
abbrev Elt := List Nat × Val × Bool

/-- The rounding in force for a destination: stochastic only in runs with STOCHASTIC (R108). -/
def Env.dst (e : Env) (x : Desc) : Dst := { mode := if x.round = 2 ∧ !e.r.mode mStoch then 0 else x.round, nonsat := x.nonsat }

/-- R109: the draw of a position. -/
def Env.draw (e : Env) (o : Opnd) (c : List Nat) : Nat :=
  if (e.dst o.desc).mode = 2 then draw109 e.r.seed e.r.tag o.di e.r.stepNo (o.desc.logical e.pm c) else 0

/-- Elements gathered by block of 32 along axis 0. -/
def byBlock : List Elt → List (List Nat × List Elt)
  | [] => []
  | x :: xs =>
    let key := x.1.getD 0 0 / 32 :: x.1.drop 1
    match byBlock xs with
    | (k, ys) :: t => if k = key then (k, x :: ys) :: t else (key, [x]) :: (k, ys) :: t
    | [] => [(key, [x])]

/-- One element as encoded: its position, what is written, and its block's scale code or 256. -/
abbrev EncElt := List Nat × WElem × Nat

/-- Encodes the elements of a tile (R95, R99, R100). -/
def Env.encodeTile (e : Env) (o : Opnd) (xs : List Elt) : List EncElt :=
  let f := o.desc.fmt
  let dst := e.dst o.desc
  let win := fun (x : Elt) => ({ v := x.2.1, draw := e.draw o x.1, special := x.2.2 } : WIn)
  if f.block then
    (byBlock xs).flatMap (fun b =>
      let z := f.writeBlock dst (b.2.map (fun x => some (win x)))
      (b.2.zip z.2).filterMap (fun y => y.2.map (fun w => (y.1.1, w, z.1))))
  else xs.map (fun x => (x.1, f.writeScalar dst (win x), 256))

/-- Codes to be put into memory: element index and code. -/
abbrev Puts := List (Nat × Nat)

/-- The bytes that puts of `bits` bits touch, by address. -/
def putBytes (a bits : Nat) (ws : Puts) : List Nat :=
  (ws.flatMap (fun w => rangeFrom (a + w.1 * bits / 8) (ceilDiv (w.1 * bits % 8 + bits) 8))).eraseDups

/-- Runs of neighbouring addresses, at most 4,096 bytes each. -/
def runsOf : List Nat → List (Nat × Nat)
  | [] => []
  | a :: t => match runsOf t with
    | (b, n) :: r => if b = a + 1 ∧ n < 4096 then (a, n + 1) :: r else (a, 1) :: (b, n) :: r
    | [] => [(a, 1)]

/-- A TSTORE's WRITE to a peer (Table 12.6). -/
def tileWrite (e : Env) (o : Opnd) (dev a : Nat) (bs : List Byte) : Pkt :=
  { kind := kWrite, vc := 0, src := 0, dst := dev, paddock := e.r.paddock, desc := o.di, format := o.desc.format, tag := e.r.tag,
    length := bs.length, seq := 0, step := e.r.stepNo, offset := a, crc := 0, payload := bs }

/-- R162: the step's writes are noted, so that a failing step can leave them undefined. -/
def Dev.noteWrites (d : Dev) (f : Nat) (l : Loc) (bits : Nat) (ws : Puts) : Dev :=
  let go := fun (sp a : Nat) => d.updRun f (fun r => { r with wrote := (runsOf (sortNat (putBytes a bits ws))).map (fun x => (sp, x)) ++ r.wrote })
  match l with
  | .sram a => go 0 a
  | .hbm a => go 1 a
  | .host a => go 2 a
  | .peer _ _ => d

/-- Puts codes at a place: memory of this device, or packets to a peer, which `Env.peerFails` has let through. Bits
of a peer's byte that the tile does not cover are free values by device and address (R113): the E9 does not read the
peer (log 29). -/
def Dev.putCodes (d : Dev) (e : Env) (o : Opnd) (l : Loc) (bits : Nat) (ws : Puts) : Dev :=
  let go := fun (m : Memory) (a : Nat) => ws.foldl (fun m w => putBits m a bits w.1 w.2) m
  let d := d.noteWrites e.f l bits ws
  match l with
  | .sram a => { d with sram := go d.sram a }
  | .host a => { d with host := go d.host a }
  | .hbm a =>
    let d1 := { d with hbm := go d.hbm a }
    if d.poison.isEmpty then d1
    else
      let bs := putBytes a bits ws
      { d1 with poison := d.poison.filter (fun w => !(rangeFrom (32 * w) 32).all (bs.contains ·)) }
  | .peer dev a =>
    let bs := sortNat (putBytes a bits ws)
    let m := go (bs.foldl (fun m b => m.write b (if bits < 8 then Config.peerByte dev b else 0)) []) a
    (d.sendAll (some e.f) e.unit ((runsOf bs).map (fun r => tileWrite e o dev r.1 (m.reads r.1 r.2)))).1

/-- R254: what keeps a store to a peer from going out at all. -/
def Env.peerFails (e : Env) (d : Dev) (o : Opnd) : Option Status :=
  match o.loc with
  | .peer dev _ => (match d.hop dev 0 e.r.paddock with
    | .fail st => some st
    | _ => none)
  | _ => none

/-- The layer whose pass sums the squares of a descriptor: every layer's NORM_DESC, guarded or not (R118). -/
def Env.watched (e : Env) (o : Opnd) : Option Nat :=
  if !e.r.mode mGuard then none
  else match e.p.layerAt e.r.step with
    | some (i, l) => if o.named == l.normDesc || o.di == l.normDesc then some i else none
    | none => none

def LayerCount.blank : LayerCount := { sat := 0, zero := 0, written := 0, norms := [] }

/-- R89, R90, R117, R118: an executed tile is counted, by destination descriptor, and its elements noted
where the guard watches their norm. The row's output is the tile status word. -/
def Dev.account (d : Dev) (e : Env) (o : Opnd) (st : TileStatus) (xs : List EncElt) : Dev :=
  let d := { d with out := { d.out with value := st.word } }
  let d := if st.clamped then d.updFlight e.f (fun x => { x with flags := setFlag x.flags fSaturated }) else d
  d.updRun e.f (fun r =>
    let s := KV.getD r.stepCounts o.di (0, 0, 0)
    let r := { r with stepCounts := KV.put r.stepCounts o.di (s.1 + st.sat, s.2.1 + st.zeroed, s.2.2 + st.written) }
    match e.watched o with
    | none => r
    | some i =>
      let c := KV.getD r.counts i LayerCount.blank
      let key := e.k * 64 + e.c
      let ys := xs.map (fun y => (o.desc.logical e.pm y.1, o.desc.format, y.2.1.code, y.2.2))
      { r with counts := KV.put r.counts i { c with norms := KV.put c.norms key (KV.getD c.norms key [] ++ ys) } })

/-- One tile executed (COUNT_A of PLAN_RUN). -/
def Dev.countTile (d : Dev) (e : Env) : Dev := d.updRun e.f (fun r => { r with tiles := r.tiles + 1 })

/-- The two flags of a tile status (Table 4.10). -/
structure TFlags where
  rowMasked : Bool
  empty : Bool
  deriving DecidableEq, Repr
def TFlags.none : TFlags := { rowMasked := false, empty := false }

/-- The status that encoded elements give (Table 4.10). -/
def statusOf (fl : TFlags) (xs : List EncElt) : TileStatus :=
  { sat := (xs.filter (fun y => y.2.1.sat)).length, zeroed := (xs.filter (fun y => y.2.1.zeroed)).length, written := xs.length,
    rowMasked := fl.rowMasked, empty := fl.empty, clamped := xs.any (fun y => y.2.1.clamped) }

/-- The mark of a tile in a crib (R158). -/
def Env.mark (e : Env) (o : Opnd) : Nat × Nat × Nat := (e.core, o.di, o.tile)
/-- The number of the tile that holds a position. -/
def Opnd.tileNo (o : Opnd) (pm : Nat → Nat) (c : List Nat) : Nat :=
  ((List.range 5).foldl (fun (z : Nat × Nat) a => (z.1 + c.getD a 0 / o.desc.tileExt a * z.2, z.2 * o.desc.gridAx pm a)) (0, 1)).1

/-- Writes encoded elements and their scales, and clears the ABSENT marks of the tiles written (R158). -/
def Dev.putElts (d : Dev) (e : Env) (o : Opnd) (xs : List EncElt) : Dev :=
  let d := d.putCodes e o o.loc o.desc.fmt.bits (xs.map (fun y => (o.elem e.pm y.1, y.2.1.code)))
  let d := if !o.desc.scaled then d else d.putCodes e o o.sloc 8 ((xs.map (fun y => (o.scaleElem e.pm y.1, y.2.2))).eraseDups)
  { d with absent := d.absent.filter (fun m => !(m.1 == e.core && m.2.1 == o.di && xs.any (fun y => o.tileNo e.pm y.1 == m.2.2))) }

/-- R88 to R90: rounds and writes the in-bounds elements of a tile, and counts it. -/
def Dev.storeEnc (d : Dev) (e : Env) (o : Opnd) (fl : TFlags) (ys : List EncElt) : Dev :=
  (d.putElts e o ys).account e o (statusOf fl ys) ys
def Dev.storeTile (d : Dev) (e : Env) (o : Opnd) (fl : TFlags) (xs : List Elt) : Dev := d.storeEnc e o fl (e.encodeTile o xs)

end Sys2Proof.Machine
end

