-- ==== Sys2Proof/Machine/Accum.lean ====
section
/-! DEFINITION. Block products and the long accumulator (R82, R101 to R107, R364). -/
namespace Sys2Proof.Machine
open Sys2Proof

/-- A block as it enters an accumulator: its exact value, or what a special product makes of it, and its
block exponent (R101, R106). -/
structure BlockIn where
  val : Val
  bexp : Option Int
  deriving DecidableEq, Repr

/-- floor(q / 2^w). -/
def Q.floorShift (q : Q) (w : Int) : Int :=
  if 0 ≤ w then q.top / Int.ofNat (q.den * 2 ^ w.toNat) else q.top * Int.ofNat (2 ^ (-w).toNat) / Int.ofNat q.den
/-- q is a multiple of 2^w. -/
def Q.multiple (q : Q) (w : Int) : Bool := (Q.ofInt (q.floorShift w) w).eq q

/-- R103, shift: the window moves up to w'. -/
def AccElem.shiftTo (a : AccElem) (w w' : Int) : AccElem := { a with acc := a.acc / Int.ofNat (2 ^ (w' - w).toNat), w := some w' }

/-- R103: one block enters in normal mode. -/
def AccElem.addNormal (a : AccElem) (q : Q) (ej : Int) : AccElem :=
  let a := match a.w with
    | none => { a with acc := 0, w := some (ej - 121) }
    | some w => if w + 121 < ej then a.shiftTo w (ej - 121) else a
  let w := a.w.getD 0
  let a := { a with acc := a.acc + q.floorShift w }
  if 2 ^ 125 ≤ a.acc.natAbs then a.shiftTo w (w + 4) else a

/-- R103, R104, R106: one block enters. -/
def AccElem.add (exact : Bool) (a : AccElem) (b : BlockIn) : AccElem :=
  match b.val, b.bexp with
  | .nan, _ => { a with nan := true }
  | .inf true, _ => { a with negInf := true }
  | .inf false, _ => { a with posInf := true }
  | .fin _, none => a
  | .fin q, some ej =>
    if exact then { a with blocks := { m := q.top, e := -Int.ofNat q.den.log2, bexp := some ej } :: a.blocks }
    else a.addNormal q ej

def AccElem.addAll (exact : Bool) (a : AccElem) (bs : List BlockIn) : AccElem := bs.foldl (AccElem.add exact) a

/-- R104: the window from the largest block exponent of the whole group, the sum of the blocks entered and the sticky
bit. `later` holds the exponents of blocks that the group has yet to enter (R102). -/
def exactValue (bs : List Blk) (later : List Int) : Q :=
  match bs.filterMap (·.bexp) ++ later with
  | [] => Q.zero
  | e :: es =>
    let w := es.foldl max e - 101
    let z := bs.foldl (fun (z : Int × Bool) b =>
      let q := Q.ofInt b.m b.e
      (z.1 + q.floorShift w, z.2 || !q.multiple w)) (0, false)
    Q.ofInt (2 * z.1 + (if z.2 then 1 else 0)) (w - 1)

/-- R103: the 64 most significant bits of |v|, the rest discarded toward zero. -/
def top64 (acc : Int) (w : Int) : Q :=
  let m := acc.natAbs
  let drop := m.log2 - 63
  Q.dy (acc < 0) (m / 2 ^ drop * 2 ^ drop) w

/-- R103, R104, R106: what an element of the accumulator gives at rounding, before the scales. -/
def AccElem.result (exact : Bool) (later : List Int) (a : AccElem) : Val :=
  if a.nan || (a.posInf && a.negInf) then .nan
  else if a.posInf then .inf false
  else if a.negInf then .inf true
  else if exact then .fin (exactValue a.blocks later)
  else .fin (if a.acc = 0 then Q.zero else top64 a.acc (a.w.getD 0))

/-! ### Products -/

/-- R101: the exponent of an exact product of 16-bit elements. -/
def productExp (v : Val) : Option Int := match v with
  | .fin q => if q.isZero then none else some (q.ilog2 + 1)
  | _ => none

/-- R101: the block of two block-scaled sources: element products summed, then the scales. -/
def scaledBlock (fa fb : Fmt) (sa sb : Nat) (ab : List (Nat × Nat)) : BlockIn :=
  if sa = 0xFF ∨ sb = 0xFF then { val := .nan, bexp := none }
  else
    let s : Int := (Int.ofNat sa - 127) + (Int.ofNat sb - 127)
    let v := ab.foldl (fun v c => v.add ((fa.decode c.1).mul (fb.decode c.2))) Val.zero
    { val := v.times (Q.dy false 1 s), bexp := some (s + fa.mM + fb.mM + 5) }

/-- The blocks that two rows of a reduction give, positions in order (R101, R102). `pa` and `pb` are the
positions of the two sources; a block of which nothing lies inside the extents is left out (R88). -/
def rowBlocks (d : Dev) (pm : Nat → Nat) (a b : Opnd) (pos : List (List Nat × List Nat)) : List BlockIn :=
  if a.desc.scaled then
    ((List.range (ceilDiv pos.length 32)).map (fun j => (pos.drop (32 * j)).take 32)).filterMap (fun ps =>
      match ps with
      | [] => none
      | (p, q) :: _ =>
        if !within a.bound p && !within b.bound q then none
        else some (scaledBlock a.desc.fmt b.desc.fmt ((a.scale d pm p).getD 0) ((b.scale d pm q).getD 0)
          (ps.map (fun z => (a.code d pm z.1, b.code d pm z.2)))))
  else pos.map (fun z =>
    let v := (a.val d pm z.1).mul (b.val d pm z.2)
    { val := v, bexp := productExp v })

/-! ### The accumulator of a core (R82) -/

/-- Row r, column c of the 128 x 128 accumulator. -/
def accKey (r c : Nat) : Nat := r * 128 + c
def Env.accumulator (e : Env) (d : Dev) : KV AccElem := KV.getD d.acc e.core []

/-- What an instruction adds to one accumulator element: its number, the blocks in order, and the positions they count. -/
abbrev Contrib := Nat × List BlockIn × Nat

/-- Adds to the elements that an instruction reaches and keeps the others; a cleared accumulator starts from zero. -/
def updAcc (exact : Bool) (old : KV AccElem) (clear : Bool) (cs : List Contrib) : KV AccElem :=
  let base := if clear then [] else old
  let new := cs.map (fun c =>
    let x := KV.getD base c.1 AccElem.zero
    (c.1, { x.addAll exact c.2.1 with terms := x.terms + c.2.2 }))
  (base.filter (fun b => !new.any (fun n => n.1 == b.1))).foldr (fun b t => KV.put t b.1 b.2) new

def Dev.setAcc (d : Dev) (core : Nat) (a : KV AccElem) : Dev := { d with acc := KV.put d.acc core a }

/-! ### TMM (R368) -/

/-- The source's positions on axes 0 and 1 with K and the other index in their places. -/
def mmPos (o : Opnd) (trans : Bool) (k j : Nat) : List Nat :=
  o.at' (if trans then [j, k, 0, 0, 0] else [k, j, 0, 0, 0])

/-- Whether the tile of an operand carries an ABSENT mark (R158). -/
def Env.isAbsent (e : Env) (d : Dev) (o : Opnd) : Bool := d.absent.contains (e.mark o)

/-- The blocks of element (n, m) of C. -/
def Env.mmBlocks (e : Env) (d : Dev) (t : TI) (a b : Opnd) (kn n m : Nat) : List BlockIn :=
  rowBlocks d e.pm a b ((List.range kn).map (fun k => (mmPos a (t.flag 2) k m, mmPos b (t.flag 3) k n)))

/-- R98: t_A * t_B / t_D. -/
def scaleFactor (a b c : Desc) : Q := (a.tensorScale.mul b.tensorScale).div c.tensorScale

/-- The reduction positions an instruction enters: its tile's, clipped by an entry's K and by both
sources' extents (R85, R88). -/
def mmK (t : TI) (a b : Opnd) : Nat :=
  let ia := b2n (t.flag 2)
  let ib := b2n (t.flag 3)
  min (clip t.klim (a.size.getD ia 0)) (max (a.bound.getD ia 0 - a.origin.getD ia 0) (b.bound.getD ib 0 - b.origin.getD ib 0))

/-- What a TMM adds to the accumulator; a source marked ABSENT adds nothing (R158). -/
def Env.mmIn (e : Env) (d : Dev) (t : TI) (c a b : Opnd) : List Contrib :=
  let kn := if e.isAbsent d a || e.isAbsent d b then 0 else mmK t a b
  (List.range (c.size.getD 1 0)).flatMap (fun m => (List.range (c.size.getD 0 0)).map (fun n =>
    (accKey m n, e.mmBlocks d t a b kn n m, 0)))

/-- R82, R102: the instruction starts from a cleared accumulator: ACC = 0, or an entry of a TBATCH, which is a group of
its own whatever its ACC (DEDUCED, log 44). -/
def TI.clears (t : TI) : Bool := !t.flag 0 || !t.ent.isEmpty

/-! ### The rest of a continued group (R102, R104) -/

/-- An instruction that works on the accumulator. -/
def TI.accumulates (t : TI) : Bool := t.cls == cMm || t.cls == cConv

/-- Of a list of instructions of the core, those that continue the open group, and whether it may go on after them.
Skipped instructions neither start nor end a group. -/
def aheadIn (skips : TI → Bool) : List TI → List TI × Bool
  | [] => ([], true)
  | t :: ts =>
    if !t.accumulates || skips t then aheadIn skips ts
    else if t.clears then ([], false)
    else let z := aheadIn skips ts; (t :: z.1, z.2)

/-- The same for the instructions that the controller has yet to issue in this step, with fuel for them. -/
def aheadStream (im : PlanImg) (pv : Nat → Nat) (k c : Nat) (skips : TI → Bool) : Nat → ShedRun → List TI
  | 0, _ => []
  | n + 1, x =>
    if im.count k ≤ x.pc then []
    else
      let t := x.cur im k
      if t.isStep then []
      else if t.cls = cBatch then
        let u := x.template im k
        if u.accumulates && (t.flag 0 || u.core == c) then [] else aheadStream im pv k c skips n (x.pastBatch (im.shedSegs k) pv)
      else if !t.accumulates || t.core != c || skips t then aheadStream im pv k c skips n (x.next (im.shedSegs k) pv)
      else if t.clears then []
      else t :: aheadStream im pv k c skips n (x.next (im.shedSegs k) pv)

/-- More instructions than any stream issues in a run: 2^24 of them in segments four deep. -/
def aheadFuel : Nat := 2 ^ 120

/-- R89: the instruction's destination tile lies wholly beyond the bound extents. -/
def Env.skips (e : Env) (t : TI) : Bool := (e.opnd t 1).elim true Opnd.beyond

/-- The instructions after the front one of the core's queue that continue its accumulation group (R102). -/
def Env.ahead (e : Env) : List TI :=
  let z := aheadIn e.skips ((e.x.queue e.c).drop 1)
  if z.2 then z.1 ++ aheadStream e.im e.pv e.k e.c e.skips aheadFuel e.x else z.1

/-- TMM: the accumulator, then, with OUT, the rounded tile. `later` gives the block exponents that the group has yet to
bring to an element. EMPTY is set wherever the reduction has no terms: by an entry's K of 0, and by a K tile that lies
wholly beyond the bound extents (DESIGN CHOICE, log 66). -/
def Dev.tmm (d : Dev) (e : Env) (t : TI) (c a b : Opnd) (later : Nat → List Int) : Dev :=
  let exact := e.r.mode mExact
  let acc := updAcc exact (e.accumulator d) t.clears (e.mmIn d t c a b)
  let d := d.setAcc e.core acc
  let fl : TFlags := { rowMasked := false, empty := mmK t a b == 0 }
  if !t.flag 1 then d.account e c (statusOf fl []) []
  else
    let f := scaleFactor a.desc b.desc c.desc
    let xs := (c.clipped t).cells.map (fun p =>
      let o := c.offOf p
      let key := accKey (o.getD 1 0) (o.getD 0 0)
      (p, ((KV.getD acc key AccElem.zero).result exact (later key)).times f, false))
    d.storeTile e c fl xs

end Sys2Proof.Machine
end

