-- ==== Sys2Proof/Machine/Lanes.lean ====
section
/-! DEFINITION. The special-function lanes: the exact functions to 512 bits, the segments and their seams, the cubic, the reductions and special inputs of Tables 7.1 and 7.2 (R130 to R136, log 67). -/
namespace Sys2Proof.Machine
open Sys2Proof

def fNan : Nat := 0x7FC00000
def fInf : Nat := 0x7F800000
def fNegInf : Nat := 0xFF800000
def fOne : Nat := 0x3F800000
def fNegOne : Nat := 0xBF800000
def fHalf : Nat := 0x3F000000
def fNegZero : Nat := 0x80000000
/-- The square root of one half, as FP32. -/
def fRootHalf : Nat := 0x3F3504F3

/-! ### Exact functions, as multiples of 2^-512 -/

def fx1 : Int := 2 ^ 512
def fxOf (q : Q) : Int := q.floorShift (-512)
def ofFx (x : Int) : Q := Q.ofInt x (-512)
def fxMul (a b : Int) : Int := a * b / fx1
def fxDiv (a b : Int) : Int := a * fx1 / b
def fxSqrt (a : Int) : Int := Int.ofNat (isqrt (a * fx1).toNat)

/-- The sum of n terms: `next` gives each term from the one before, `weigh` what it adds. -/
def fxSum (next weigh : Nat → Int → Int) : Nat → Nat → Int → Int
  | 0, _, _ => 0
  | n + 1, k, t => weigh k t + fxSum next weigh n (k + 1) (next k t)

def fxSquares : Nat → Int → Int
  | 0, x => x
  | n + 1, x => fxSquares n (fxMul x x)
/-- e^x for |x| below 2^9. -/
def fxExp (x : Int) : Int :=
  let y := x / 2 ^ 14
  fxSquares 14 (fxSum (fun k t => fxMul t y / (Int.ofNat k + 1)) (fun _ t => t) 64 0 fx1)
def oddPart (k : Nat) (t : Int) : Int := t / (2 * Int.ofNat k + 1)
/-- atanh z for |z| up to 1/3. -/
def fxAtanh (z : Int) : Int := fxSum (fun _ t => fxMul (fxMul t z) z) oddPart 170 0 z
def fxAtan (z : Int) : Int := fxSum (fun _ t => -(fxMul (fxMul t z) z)) oddPart 120 0 z
def fxLn2 : Int := 2 * fxAtanh (fx1 / 3)
def fxPi : Int := 16 * fxAtan (fx1 / 5) - 4 * fxAtan (fx1 / 239)
/-- ln(1 + x) for x in [0, 1]. -/
def fxLog1p (x : Int) : Int := 2 * fxAtanh (fxDiv x (2 * fx1 + x))
def fxSin (r : Int) : Int := fxSum (fun k t => -(fxMul (fxMul t r) r) / ((2 * Int.ofNat k + 2) * (2 * Int.ofNat k + 3))) (fun _ t => t) 60 0 r
def fxCos (r : Int) : Int := fxSum (fun k t => -(fxMul (fxMul t r) r) / ((2 * Int.ofNat k + 1) * (2 * Int.ofNat k + 2))) (fun _ t => t) 60 0 fx1
/-- erf z for |z| up to 10. -/
def fxErf (z : Int) : Int :=
  fxDiv (2 * fxSum (fun k t => -(fxMul (fxMul t z) z) / (Int.ofNat k + 1)) oddPart 500 0 z) (fxSqrt fxPi)
def fxSigmoid (x : Int) : Int := fxDiv fx1 (fx1 + fxExp (-x))
/-- x times the normal distribution function; past 14 it is x or 0 to within 2^-140. -/
def fxGelu (x : Int) : Int :=
  if 14 * fx1 ≤ x then x else if x ≤ -14 * fx1 then 0 else fxMul x (fx1 + fxErf (fxDiv x (fxSqrt (2 * fx1)))) / 2

/-- The function that the segments of `fn` hold, of its reduced variable (Table 7.1). -/
def sfExact (fn : Nat) (u : Q) : Q :=
  let x := fxOf u
  ofFx (if fn ≤ 1 then fxExp (fxMul x fxLn2)
    else if fn = 2 then fxLog1p x
    else if fn = 3 then fxDiv fx1 (fx1 + x)
    else if fn = 4 then fxDiv fx1 (fxSqrt (fx1 + x))
    else if fn = 5 then fxSigmoid x
    else if fn = 6 then 2 * fxSigmoid (2 * x) - fx1
    else if fn = 7 then fxGelu x
    else if fn = 8 then fxMul x (fxSigmoid x)
    else if fn = 9 then fxSin x else fxCos x)

/-- R134: the internal error bound at an exact result y: FP32 ulps, or an absolute bound where that is larger. -/
def sfBound (fn : Nat) (u y : Q) : Q :=
  let ulps := fun (n : Nat) => Q.dy false n (f32Fmt.grid y)
  if fn = 2 ∨ fn = 0 then ulps 2
  else if fn ≤ 4 then ulps 1
  else if fn = 7 ∨ fn = 8 then (ulps 4).max ((Q.dy false 1 (-26)).mul ((Q.nat 1).max u.abs))
  else (ulps 2).max (Q.dy false 1 (-26))

/-- The nearest FP32 value at or above (`up`) or at or below an exact value. -/
def f32Toward (up : Bool) (q : Q) : Q :=
  let g := f32Fmt.grid q
  let n := q.toGrid g 1 0
  let r := Q.dy q.neg n g
  if r.eq q || up == q.neg then r else Q.dy q.neg (n + 1) g

def Val.min (a b : Val) : Val := if b.lt a then b else a
def Val.max (a b : Val) : Val := if a.lt b then b else a

/-- R134: a lane's value held to the error bound: what the tables give, or the end of the bound that it passes. -/
def sfHold (fn : Nat) (u : Q) (v : Val) : Val :=
  let y := sfExact fn u
  let b := sfBound fn u y
  let lo := Val.fin (f32Toward true (y.sub b))
  let hi := Val.fin (f32Toward false (y.add b))
  match v with
  | .nan => lo
  | v => (v.max lo).min hi

/-! ### Segments (R133) -/

/-- The lowest octave of a function's segments, the number of octaves, and whether negative u has
segments of its own (Table 7.1; exp uses the segments of exp2). -/
def sfTable (fn : Nat) : Int × Nat × Bool :=
  if fn ≤ 3 then (-16, 16, false) else if fn = 4 then (-16, 18, false) else if fn ≤ 8 then (-12, 19, true) else (-12, 12, false)

/-- Segments, counted from the left: the core and 64 to an octave, on one side of it or on both. -/
def sfSegments (fn : Nat) : Nat := let tb := sfTable fn; (if tb.2.2 then 128 else 64) * tb.2.1 + 1

/-- The m-th seam right of the core segment, m from 1. -/
def seamRight (kmin : Int) (m : Nat) : Q := Q.dy false (64 + (m - 1) % 64) (kmin + Int.ofNat ((m - 1) / 64) - 6)
/-- Seam j from the left: the left end of segment j. -/
def seamAt (fn j : Nat) : Q :=
  let tb := sfTable fn
  let n := 64 * tb.2.1
  if !tb.2.2 then (if j = 0 then Q.zero else seamRight tb.1 j)
  else if j ≤ n then (seamRight tb.1 (n + 1 - j)).negate else seamRight tb.1 (j - n)

/-- The segment of a reduced variable: the octave of |u| and the top six fraction bits of u. -/
def segOf (fn : Nat) (u : Q) : Nat :=
  let tb := sfTable fn
  let core := if tb.2.2 then 64 * tb.2.1 else 0
  if u.isZero || u.ilog2 < tb.1 then core
  else
    let k := u.ilog2
    let m := 1 + 64 * (k - tb.1).toNat + ((u.abs.mul (Q.dy false 64 (-k))).floorShift 0 - 64).toNat
    if u.neg then core - m else core + m

/-- R135: the segment that holds the minimum of GELU or SiLU, and that minimum rounded up to FP32. -/
def minSegment (fn : Nat) : Option (Nat × Nat) := if fn = 7 then some (479, 0xBE2E0CEE) else if fn = 8 then some (430, 0xBE8E92E7) else none

/-- Table 7.1: the function rises over segment s. -/
def sfRises (fn s : Nat) : Bool := match minSegment fn with
  | some z => z.1 < s
  | none => !(fn == 3 || fn == 4 || fn == 10)

/-- R135: what a result may not pass, so that results do not step backward at the ends of the octave range, at the
signs of sin and cos, and at reduction boundaries. -/
def sfCap (fn s : Nat) (v : Val) : Val :=
  let one := ofF32 fOne
  if fn = 5 then (v.max Val.zero).min one
  else if fn = 6 then (v.max one.negate).min one
  else if fn = 7 ∨ fn = 8 then (if s = 0 then v.min Val.zero else if s = sfSegments fn then v.min (.fin (Q.nat 128)) else v)
  else if fn = 9 then v.min (ofF32 fRootHalf)
  else if fn = 10 then (v.max (ofF32 fRootHalf)).min one
  else v

/-- The value that the tables hold for seam s, within R134 and the caps. -/
def seamRaw (fn s : Nat) : Val := sfCap fn s (sfHold fn (seamAt fn s) (ofF32 (Config.sfCoef fn s 0).toNat))

/-- The value stored at seam s, shared by the segments on either side of it (R133). Stored values follow the
function's direction (R135). The reciprocal square root holds 1 at 0 (Table 7.4). -/
def seamVal (fn : Nat) : Nat → Val
  | 0 => if fn = 4 then ofF32 fOne else seamRaw fn 0
  | s + 1 =>
    let r := seamRaw fn (s + 1)
    if (minSegment fn).map (·.1) = some s then r
    else if sfRises fn s then (seamVal fn s).max r else (seamVal fn s).min r

/-- The value at the right end of segment s; where a reduction takes over at the last one, it is the value at 0 as
the next reduction scales it (R135). -/
def seamEnd (fn s : Nat) : Val :=
  if s + 1 < sfSegments fn then seamVal fn (s + 1)
  else if fn ≤ 1 then (seamVal fn 0).times (Q.nat 2)
  else if fn = 3 ∨ fn = 4 then (seamVal fn 0).times (Q.dy false 1 (-1))
  else seamVal fn (s + 1)

def coef (fn seg k : Nat) : Val := ofF32 (Config.sfCoef fn seg k).toNat

/-- R133: the cubic in (u - left end), each fused step rounded once, held to R134 and clamped between the segment's
endpoint values; in the segment of a minimum the lower end is that minimum (R135). -/
def sfCubic (fn : Nat) (u : Q) : Val :=
  let s := segOf fn u
  let t := Val.fin (u.sub (seamAt fn s))
  let a := seamVal fn s
  let b := seamEnd fn s
  let p2 := (((coef fn s 3).mul t).add (coef fn s 2)).f32
  let p1 := ((p2.mul t).add (coef fn s 1)).f32
  let p0 := ((p1.mul t).add a).f32
  let lo := match minSegment fn with
    | some z => if z.1 = s then ofF32 z.2 else a.min b
    | none => a.min b
  ((sfCap fn (s + 1) (sfHold fn u p0)).max lo).min (a.max b)

/-! ### Reductions (Table 7.1) -/

/-- A reduction step: the clamped value times a power of two, rounded once (R133). -/
def scale2 (v : Val) (e : Int) : Nat := toF32 (v.times (Q.dy false 1 e))

/-- A value to `n` significand bits, to nearest-even. -/
def Q.toBits (q : Q) (n : Nat) : Q :=
  if q.isZero then q else let g := q.ilog2 + 1 - Int.ofNat n; Q.dy q.neg (q.toGrid g 0 0) g

/-- exp: t = x * log2(e) formed to 48 significand bits. -/
def expArg (x : Q) : Q := (x.mul (ofFx (fxDiv fx1 fxLn2))).toBits 48

/-- exp2 of an exact value: 2^floor(t) * g(t - floor(t)). Past +-400 every result has overflowed or is 0. -/
def exp2Q (t : Q) : Nat :=
  let n := t.floorShift 0
  scale2 (sfCubic 1 (t.sub (Q.ofInt n 0))) (max (-400) (min n 400))

/-- log: e * ln 2 + h(u), summed in 64-bit fixed point with 56 fraction bits and rounded once. -/
def logQ (x : Q) : Nat :=
  let e := x.ilog2
  let h := match sfCubic 2 ((x.mul (Q.dy false 1 (-e))).sub (Q.nat 1)) with
    | .fin q => q.floorShift (-56)
    | _ => 0
  toF32 (.fin (Q.ofInt ((ofFx (e * fxLn2)).floorShift (-56) + h) (-56)))

/-- The reciprocal of a value that is not 0. -/
def recipQ (x : Q) : Nat :=
  let e := x.ilog2
  let h := sfCubic 3 ((x.abs.mul (Q.dy false 1 (-e))).sub (Q.nat 1))
  scale2 (if x.neg then h.negate else h) (-e)

/-- The reciprocal square root of a positive value, in the wide form too (R138). -/
def rsqrtQ (x : Q) : Nat :=
  let e := x.ilog2 / 2
  scale2 (sfCubic 4 ((x.mul (Q.dy false 1 (-2 * e))).sub (Q.nat 1))) (-e)

/-- sin, cos: the quadrant and the reduced argument of x - q * pi/2, q the nearest integer by 2/pi held to 256 bits. -/
def trigReduce (x : Q) : Nat × Q :=
  let c := (ofFx (fxDiv (2 * fx1) fxPi)).toBits 256
  let q := ((x.mul c).add (Q.dy false 1 (-1))).floorShift 0
  ((q % 4).toNat, x.sub ((Q.ofInt q 0).mul (ofFx (fxPi / 2))))

/-- sin or cos through the quadrant. -/
def trigQ (cosine : Bool) (x : Q) : Nat :=
  let z := trigReduce x
  let s := let v := sfCubic 9 z.2.abs; if z.2.neg then v.negate else v
  let c := sfCubic 10 z.2.abs
  let n := (z.1 + b2n cosine) % 4
  toF32 (if n = 0 then s else if n = 1 then c else if n = 2 then s.negate else c.negate)

/-! ### Functions (Tables 7.1, 7.2) -/

/-- Table 7.2: what a special input gives; none for the inputs of Table 7.1. -/
def sfSpecial (fn x : Nat) : Option Nat :=
  let neg := bitOf x 31
  let signed := fun (c : Nat) => if neg then c + 2 ^ 31 else c
  match ofF32 x with
  | .nan => some fNan
  | .inf false => some ([fInf, fInf, fInf, 0, 0, fOne, fOne, fInf, fInf, fNan, fNan].getD fn fNan)
  | .inf true => some ([0, 0, fNan, fNegZero, fNan, 0, fNegOne, fNegZero, fNegZero, fNan, fNan].getD fn fNan)
  | .fin q =>
    if q.isZero then
      some ([fOne, fOne, fNegInf, signed fInf, signed fInf, fHalf, signed 0, signed 0, signed 0, signed 0, fOne].getD fn fNan)
    else if neg && (fn == 2 || fn == 4) then some fNan
    else none

/-- The FP32 result for an input that is finite and not 0, and positive for log and reciprocal square
root. -/
def sfFinite (fn x : Nat) (q : Q) : Nat :=
  let far := !(q.abs.lt (Q.nat 128))
  if fn = 0 then exp2Q (expArg q)
  else if fn = 1 then exp2Q q
  else if fn = 2 then logQ q
  else if fn = 3 then recipQ q
  else if fn = 4 then rsqrtQ q
  else if fn = 5 then (if far then (if q.neg then 0 else fOne) else toF32 (sfCubic 5 q))
  else if fn = 6 then (if far then (if q.neg then fNegOne else fOne) else toF32 (sfCubic 6 q))
  else if fn ≤ 8 then (if far then (if q.neg then fNegZero else x) else toF32 (sfCubic fn q))
  else trigQ (fn == 10) q

/-- The lane's FP32 result for an FP32 input. -/
def sfLane (fn x : Nat) : Nat :=
  match sfSpecial fn x with
  | some c => c
  | none => match ofF32 x with
    | .fin q => sfFinite fn x q
    | _ => fNan

end Sys2Proof.Machine
end

