-- ==== Sys2Proof/Machine/Special.lean ====
section
/-! DEFINITION. Tiles of the special-function lanes: TSF, row statistics, normalisation and soft maximum (R131, R136 to R143, R156, R157). -/
namespace Sys2Proof.Machine
open Sys2Proof

/-- A non-zero exact value that FP32 gave as zero: it rounds to a zero of its sign in every format and counts
as ZEROED (R107). -/
def tinyVal (neg : Bool) : Val := .fin (Q.dy neg 1 (-2000))

/-- An FP32 result to be written, when its exact value is or is not zero. -/
def fromLane (c : Nat) (exactZero : Bool) : Val :=
  match ofF32 c with
  | .fin q => if !q.isZero then .fin q else if exactZero then Val.zero else tinyVal (bitOf c 31)
  | v => v

/-- The result of a TSF element: value, and whether a special input gave it (R136). log 1 is exactly 0. -/
def sfElt (fn x : Nat) : Val × Bool :=
  match sfSpecial fn x with
  | some c => (ofF32 c, true)
  | none => (fromLane (sfLane fn x) (fn == 2 && x == fOne), false)

/-! ### TSF -/

/-- R131: a source element as FP32. -/
def Opnd.f32 (o : Opnd) (d : Dev) (pm : Nat → Nat) (c : List Nat) : Nat := toF32 (o.val d pm c)

def Dev.tsf (d : Dev) (e : Env) (t : TI) (o a : Opnd) : Dev :=
  d.storeTile e o TFlags.none ((o.clipped t).cells.map (fun p => (p, sfElt t.op (a.f32 d e.pm (a.at' (o.offOf p))))))

/-! ### Row statistics (R137) -/

def Val.wide : Val → Val
  | .fin q => .fin q.wide
  | v => v
def Val.isFin : Val → Bool
  | .fin _ => true
  | _ => false
def Val.isZero : Val → Bool
  | .fin q => q.isZero
  | _ => false
/-- max(0, v). -/
def Val.posPart : Val → Val
  | .nan => .nan
  | .inf n => if n then Val.zero else .inf false
  | .fin q => if q.neg then Val.zero else .fin q
def wAdd (a b : Val) : Val := (a.add b).wide
def wSub (a b : Val) : Val := (a.add b.negate).wide
def wMul (a b : Val) : Val := (a.mul b).wide
def wDiv (a b : Val) : Val := (a.div b).wide

structure Stat where
  n : Val
  mu : Val
  m2 : Val
  deriving DecidableEq, Repr

def Stat.zero : Stat := { n := Val.zero, mu := Val.zero, m2 := Val.zero }
def oneVal : Val := .fin (Q.nat 1)

/-- Welford's update in one lane. -/
def Stat.push (s : Stat) (x : Val) : Stat :=
  let n := wAdd s.n oneVal
  let d := wSub x s.mu
  let mu := wAdd s.mu (wDiv d n)
  { n := n, mu := mu, m2 := wAdd s.m2 (wMul d (wSub x mu)).posPart }

/-- Chan's merge; a side with n = 0 is skipped. -/
def Stat.merge (a b : Stat) : Stat :=
  if a.n.isZero then b
  else if b.n.isZero then a
  else
    let n := wAdd a.n b.n
    let d := wSub b.mu a.mu
    { n := n, mu := wAdd a.mu (wMul d (wDiv b.n n)),
      m2 := wAdd (wAdd a.m2 b.m2) (wMul (wMul d d) (wDiv (wMul a.n b.n) n)).posPart }

def pairUp {α : Type} (f : α → α → α) : List α → List α
  | a :: b :: t => f a b :: pairUp f t
  | l => l
/-- The 64 lanes merged pairwise in six levels. -/
def treeMerge {α : Type} (f : α → α → α) (l : List α) (d : α) : α :=
  (pairUp f (pairUp f (pairUp f (pairUp f (pairUp f (pairUp f l)))))).headD d

/-- Values of lane i: element k of a row goes to lane k mod 64. -/
def laneVals (xs : List (Nat × Val)) (i : Nat) : List Val := (xs.filter (fun x => x.1 % 64 == i)).map (·.2)

/-- The statistics of a row; a NaN or infinite element makes mean and variance NaN. -/
def rowStat (xs : List (Nat × Val)) : Stat :=
  let s := treeMerge Stat.merge ((List.range 64).map (fun i => (laneVals xs i).foldl Stat.push Stat.zero)) Stat.zero
  if xs.all (·.2.isFin) then s else { s with mu := .nan, m2 := .nan }

/-- The sum of squares of a row, in lane order and then the tree (Table 7.3, OP 1). -/
def rowSquares (xs : List (Nat × Val)) : Val :=
  treeMerge wAdd ((List.range 64).map (fun i => (laneVals xs i).foldl (fun s x => wAdd s (wMul x x)) Val.zero)) Val.zero

/-! ### TNORM (R138, R139) -/

/-- Offsets of a tile's rows: axes 1 to 4. -/
def Opnd.rowOffs (o : Opnd) : List (List Nat) := boxCoords [0, 0, 0, 0] (o.size.drop 1)

/-- The in-bounds elements of a source row, as (k, FP32 value), up to an entry's limit along axis 0 of a destination
that has the source's columns (R85); OP 2 has its own four. -/
def Env.rowVals (e : Env) (d : Dev) (t : TI) (a : Opnd) (r : List Nat) : List (Nat × Val) :=
  (List.range (clip (if t.op = 2 then none else t.cols) (a.bound.getD 0 0))).filterMap (fun k =>
    let p := a.at' (k :: r)
    if within a.bound p then some (k, ofF32 (a.f32 d e.pm p)) else none)

/-- The variance of a row without elements: the spec states none, and it is a free value by destination and row, so
that equal runs get equal results (R113, R130; log 30). -/
def Env.emptyVar (e : Env) (o : Opnd) (r : List Nat) : Val := ofF32 (Config.emptyVar o.di (o.desc.logical e.pm (o.at' (0 :: r)))).toNat

/-- r := rsqrt(v + 2^-PARAM), v in the wide form. -/
def normR (v : Val) (param : Nat) : Nat :=
  match wAdd v (.fin (Q.dy false 1 (-Int.ofNat param))) with
  | .nan => fNan
  | .inf n => if n then fNan else 0
  | .fin q => if q.isZero || q.neg then fNan else rsqrtQ q

/-- One element of OP 0 or OP 1, each step rounded once to FP32, with its exact value's zero and sign. -/
def normElt (x : Nat) (mu : Val) (r g b : Nat) : Val :=
  let c1 := toF32 ((ofF32 x).add mu.negate)
  let c := f32Add (f32Mul (f32Mul c1 r) g) b
  let exact := ((((ofF32 x).add mu.negate).mul (ofF32 r)).mul (ofF32 g)).add (ofF32 b)
  match ofF32 c, exact with
  | .fin q, .fin z => if q.isZero && !z.isZero then tinyVal z.neg else fromLane c true
  | v, _ => v

/-- Scale and shift of position k of a row (Table 7.3). -/
def Env.gammaBeta (e : Env) (d : Dev) (z : Option Opnd) (k j dflt : Nat) : Nat :=
  match z with
  | none => dflt
  | some z => z.f32 d e.pm (z.at' [k, j, 0, 0, 0])

/-- What a row gives: mean for OP 0, and r. `fr` is the row's free value. -/
def normRow (t : TI) (xs : List (Nat × Val)) (fr : Val) : Val × Nat :=
  if t.op = 0 then
    let s := rowStat xs
    (s.mu, normR (if s.n.isZero then fr else wDiv s.m2 s.n) t.param)
  else
    let n : Val := .fin (Q.nat xs.length)
    (Val.zero, normR (if xs.isEmpty then fr else wDiv (rowSquares xs) n.wide) t.param)

/-- R139: a row's record from I3. -/
def Env.record (e : Env) (d : Dev) (z : Opnd) (r : List Nat) : Stat :=
  { n := z.val d e.pm (z.at' (0 :: r)), mu := z.val d e.pm (z.at' (1 :: r)), m2 := z.val d e.pm (z.at' (3 :: r)) }

/-- The elements that a row writes. -/
def Env.normElts (e : Env) (d : Dev) (t : TI) (o a : Opnd) (z : Option Opnd) (r : List Nat) : List Elt :=
  let xs := e.rowVals d t a r
  let fr := e.emptyVar o r
  if t.op = 2 then
    let own := rowStat xs
    let s := match z with
      | none => own
      | some z => (e.record d z r).merge own
    let ys := [s.n, s.mu, if s.n.isZero then fr else wDiv s.m2 s.n, s.m2]
    (ys.zipIdx.take (clip t.cols 4)).filterMap (fun y => let p := o.at' (y.2 :: r); if within o.bound p then some (p, y.1, false) else none)
  else
    let m := normRow t xs fr
    (List.range (clip t.cols (max (a.bound.getD 0 0) (o.size.getD 0 0)))).filterMap (fun k =>
      let p := o.at' (k :: r)
      if within o.bound p then
        some (p, normElt (a.f32 d e.pm (a.at' (k :: r))) m.1 m.2 (e.gammaBeta d z k 0 fOne) (if t.op = 0 then e.gammaBeta d z k 1 0 else 0), false)
      else none)

/-- TNORM. -/
def Dev.tnorm (d : Dev) (e : Env) (t : TI) (o a : Opnd) (z : Option Opnd) : Dev :=
  let rs := ({ a with size := [a.size.getD 0 0, clip t.rows (a.size.getD 1 0)] ++ a.size.drop 2 } : Opnd).rowOffs
  let fl : TFlags := { rowMasked := false, empty := rs.any (fun r => within o.bound (o.at' (0 :: r)) && (e.rowVals d t a r).isEmpty) }
  d.storeTile e o fl (rs.flatMap (e.normElts d t o a z))

/-! ### Mask maps (R156, R157) -/

/-- The sequence that a paged descriptor names in this run: PLAN_RUN W12 and W13. -/
def Env.seqKey (e : Env) (x : Desc) : Nat := padKey e.r.paddock (e.r.seqs.getD (x.buffer % 4) 0xFFFF)

/-- R156: whether the cell of query block qb and key block kb is absent. -/
def Dev.cellAbsent (d : Dev) (q : Seq) (qb : Nat) (kb : Int) : Bool :=
  let h := d.hdr q
  let mw := hMaskWords h
  if mw = 0 then false
  else if q.maxBlocks ≤ qb then true
  else
    let a := hMaskAddr h + qb * (8 + 4 * mw)
    let j := kb - Int.ofNat (d.hbm.readLE a 4)
    j < 0 || Int.ofNat (32 * mw) ≤ j || !bitOf (d.hbm.readLE (a + 8 + 4 * (j.toNat / 32)) 4) (j.toNat % 32)

/-- R154: the global block of tile coordinate t. -/
def pageBlock (h : List Byte) (t : Nat) : Int := Int.ofNat (hFirst h) - Int.ofNat (hBefore h) + Int.ofNat t

/-- R157: the cell of a paged descriptor's tile is absent. -/
def Env.tileAbsent (e : Env) (d : Dev) (w : Nat) : Bool :=
  match e.im.desc? (e.subst (opDesc w)) with
  | none => false
  | some x => match KV.find d.seqs (e.seqKey x) with
    | none => false
    | some q =>
      let c := x.coords e.pm (opTile w)
      d.cellAbsent q (c.getD 2 0) (pageBlock (d.hdr q) (c.getD 1 0))

/-! ### TSOFT (R140 to R143) -/

def Soft.blank : Soft := { members := [], lanes := [], special := [], unmasked := [] }

/-- -2^99 as FP32. -/
def fFloor : Nat := 0xF1000000
/-- -2^100 as FP32. -/
def fMasked : Nat := 0xF1800000
def fLt (a b : Nat) : Bool := (ofF32 a).lt (ofF32 b)

/-- A score under the mask: masked, or raised to -2^99 (R141, R142). -/
def scoreOf (absent : Bool) (x : Nat) : Bool × Nat :=
  if absent || x == fNegInf then (true, fMasked) else if fLt x fFloor then (false, fFloor) else (false, x)

/-- The online update of one lane: (m, l). -/
def softPush (st : Option (Nat × Nat)) (s : Nat) : Nat × Nat :=
  match st with
  | none => (s, f32Add 0 (sfLane 0 (f32Sub s s)))
  | some (m, l) =>
    let z := if fLt m s then (s, f32Mul l (sfLane 0 (f32Sub m s))) else (m, l)
    (z.1, f32Add z.2 (sfLane 0 (f32Sub s z.1)))

/-- Two lanes merge: each l rescaled to the larger maximum. -/
def softMerge (a b : Option (Nat × Nat)) : Option (Nat × Nat) :=
  match a, b with
  | none, b => b
  | a, none => a
  | some (ma, la), some (mb, lb) =>
    let m := if fLt ma mb then mb else ma
    some (m, f32Add (f32Mul la (sfLane 0 (f32Sub ma m))) (f32Mul lb (sfLane 0 (f32Sub mb m))))

/-- The in-bounds scores of a member: row number, column, position and score. -/
def Env.scores (e : Env) (d : Dev) (t : TI) (a : Opnd) : List (Nat × Nat × List Nat × Nat) :=
  let a' := a.clipped t
  (a'.rowOffs.zipIdx).flatMap (fun r => (List.range (a'.size.getD 0 0)).filterMap (fun k =>
    let p := a.at' (k :: r.1)
    if within a.bound p then some (r.2, p.getD 0 0, p, a.f32 d e.pm p) else none))

/-- One score into the group. -/
def Soft.score (g : Soft) (absent : Bool) (row col x : Nat) : Soft :=
  let z := scoreOf absent x
  let bad := !z.1 && (x == fInf || ofF32 x == .nan)
  let g := if z.1 || g.unmasked.contains row then g else { g with unmasked := row :: g.unmasked }
  if bad then (if g.special.contains row then g else { g with special := row :: g.special })
  else { g with lanes := KV.put g.lanes (row * 64 + col % 64) (softPush (KV.find g.lanes (row * 64 + col % 64)) z.2) }

/-- A member's scores enter the group. -/
def Env.softEnter (e : Env) (d : Dev) (g : Soft) (t : TI) (a : Opnd) : Soft :=
  let ab := opDesc t.i3 != 0xFFF && e.tileAbsent d t.i3
  let g := (e.scores d t a).foldl (fun g s => g.score ab s.1 s.2.1 s.2.2.2) g
  { g with members := g.members ++ [t] }

/-- The maximum and sum of a row. -/
def Soft.row (g : Soft) (r : Nat) : Nat × Nat :=
  (treeMerge softMerge ((List.range 64).map (fun i => KV.find g.lanes (r * 64 + i))) none).getD (fMasked, fOne)

/-- The probability that a score gives (R141 to R143). -/
def Soft.prob (g : Soft) (absent : Bool) (row x : Nat) (ml : Nat × Nat) : Val :=
  let z := scoreOf absent x
  if z.1 then Val.zero
  else if g.special.contains row then .nan
  else fromLane (f32Mul (sfLane 0 (f32Sub z.2 ml.1)) (sfLane 3 ml.2)) false

/-- What LAST writes for one member. -/
def Env.softElts (e : Env) (d : Dev) (g : Soft) (t : TI) (o a : Opnd) : List Elt :=
  let ab := opDesc t.i3 != 0xFFF && e.tileAbsent d t.i3
  let rows := (List.range 256).map g.row
  (e.scores d t a).filterMap (fun s =>
    let p := o.at' (a.offOf s.2.2.1)
    if within o.bound p then some (p, g.prob ab s.1 s.2.2.2 (rows.getD s.1 (fMasked, fOne)), false) else none)

/-- Some in-bounds row of the group has no unmasked position (R143). -/
def Env.rowMasked (e : Env) (d : Dev) (g : Soft) : Bool :=
  g.members.any (fun t => match e.opnd t 2 with
    | none => false
    | some a => (e.scores d t a).any (fun s => !g.unmasked.contains s.1))

/-- TSOFT: FIRST clears the group; LAST writes every member's destination. -/
def Dev.tsoft (d : Dev) (e : Env) (t : TI) (a : Opnd) : Dev :=
  let g := e.softEnter d (if t.flag 0 then Soft.blank else KV.getD d.soft e.core Soft.blank) t a
  if !t.flag 1 then { d with soft := KV.put d.soft e.core g }
  else
    let masked := e.rowMasked d g
    g.members.foldl (fun d' m => match e.opnd m 1, e.opnd m 2 with
      | some o, some b => d'.storeTile e o { rowMasked := masked && m == t, empty := false } (e.softElts d g m o b)
      | _, _ => d') { d with soft := KV.del d.soft e.core }

end Sys2Proof.Machine
end

