-- ==== Sys2Proof/Machine/ConvOps.lean ====
section
/-! DEFINITION. Convolution, pooling, the frequency path and the headland (R170 to R186). -/
namespace Sys2Proof.Machine
open Sys2Proof

/-! ### Padded positions (R174, R175, R177) -/

/-- One spatial axis of a record in a run: the record's axis, the image extent, the output extent, and what
an image position is less the operand's own position (R184). -/
structure AxisRun where
  ax : ConvAxis
  image : Nat
  outs : Nat
  shift : Int
  deriving DecidableEq, Repr

/-- Padded-input position that output o reads with tap f (R174). -/
def ConvAxis.pos (a : ConvAxis) (o f : Nat) : Int := Int.ofNat (o * a.stride) - Int.ofNat a.padB + Int.ofNat (f * a.dil)
/-- The padded positions in the windows of in-bounds outputs. -/
def AxisRun.window (r : AxisRun) : List Int := (List.range r.outs).flatMap (fun o => (List.range r.ax.f).map (fun f => r.ax.pos o f))
/-- R177: the image samples that are read. -/
def AxisRun.needed (r : AxisRun) (mode m : Nat) : Bool := r.window.any (fun x => padSample mode r.image x == some m)

/-- What stands at a padded position. -/
inductive PadPos where
  | sample (m : Nat)
  /-- a padded position under PAD_MODE 0 or 1 -/
  | pad
  /-- not read: zero (R177) -/
  | zero
  deriving DecidableEq, Repr

/-- R175, R177 along one axis. -/
def AxisRun.at' (r : AxisRun) (mode : Nat) (x : Int) : PadPos :=
  if 0 ≤ x ∧ x < Int.ofNat r.image then (if r.needed mode x.toNat then .sample x.toNat else .zero)
  else if !r.window.contains x then .zero
  else match padSample mode r.image x with
    | some m => .sample m
    | none => .pad

/-- A record in a run: its axes, the input operand and the constant's code and block scale. -/
structure ConvRun where
  c : Conv
  axes : List AxisRun
  code : Nat
  scale : Nat
  deriving DecidableEq, Repr

def ConvRun.axis (v : ConvRun) (a : Nat) : AxisRun :=
  v.axes.getD a { ax := v.c.axis a, image := 1, outs := 1, shift := 0 }

/-- R175: CONST in the input's format under R99 with nearest-even. -/
def constCode (x : Desc) (w : Nat) : Nat × Nat :=
  let i : WIn := { v := ofF32 w, draw := 0, special := false }
  let dst : Dst := { mode := 0, nonsat := x.nonsat }
  if x.fmt.block then
    let z := x.fmt.writeBlock dst (List.replicate 32 (some i))
    (((z.2.headD none).map (·.code)).getD 0, z.1)
  else ((x.fmt.writeScalar dst i).code, 256)

/-- The record as it runs for an output operand. -/
def Env.convRun (e : Env) (c : Conv) (x : Desc) (o : Opnd) : ConvRun :=
  let img := (e.im.desc? c.imageDesc).getD x
  let z := constCode x c.const
  { c := c, code := z.1, scale := z.2,
    axes := (List.range 3).map (fun a =>
      let v := c.axis a
      { ax := v, image := img.extent e.pv (a + 1), outs := o.bound.getD (a + 1) 0,
        shift := if v.split then Int.ofNat (o.origin.getD (a + 1) 0 * v.stride) - v.headland else 0 }) }

/-- A sample of the padded input as codes: the code and block scale that stand there, none when nothing is
read or supplied but zero. -/
structure Sample where
  code : Nat
  scale : Option Nat
  /-- an image sample -/
  image : Bool
  deriving DecidableEq, Repr

/-- What stands at padded positions along W, H and D. -/
def ConvRun.stands (v : ConvRun) (ps : List Int) : List PadPos := (List.range 3).map (fun a => (v.axis a).at' v.c.padMode (ps.getD a 0))

/-- R177: the position of the input operand that is fetched for padded positions; none where nothing is. -/
def ConvRun.fetched (v : ConvRun) (ch n : Nat) (ps : List Int) : Option (List Nat) :=
  let zs := v.stands ps
  if zs.any (fun z => z == .zero || z == .pad) then none
  else some (ch :: zs.zipIdx.map (fun z => match z.1 with
    | .sample m => (Int.ofNat m - (v.axis z.2).shift).toNat
    | _ => 0) ++ [n])

/-- The sample of channel ch and batch n at padded positions along W, H and D. -/
def ConvRun.sample (v : ConvRun) (d : Dev) (pm : Nat → Nat) (x : Opnd) (ch n : Nat) (ps : List Int) : Sample :=
  let sc := fun (s : Nat) => if x.desc.scaled then some s else none
  match v.fetched ch n ps with
  | some p =>
    { code := x.code d pm p, scale := x.scale d pm p, image := (List.range 3).all (fun a =>
        let q := ps.getD a 0
        0 ≤ q && q < Int.ofNat (v.axis a).image) }
  | none =>
    if v.c.padMode = 1 && !(v.stands ps).any (· == .zero) then { code := v.code, scale := sc v.scale, image := false }
    else { code := 0, scale := sc 0, image := false }

def Sample.val (s : Sample) (f : Fmt) : Val := f.scaled s.code s.scale

/-! ### TCONV (R178, R182, R183) -/

/-- Taps in order: W fastest, then H, then D. -/
def Conv.taps (c : Conv) : List (List Nat) := boxCoords [0, 0, 0] [(c.axis 0).f, (c.axis 1).f, (c.axis 2).f]

/-- Padded positions that an output position reads with a tap. -/
def Conv.padPos (c : Conv) (o tap : List Nat) : List Int :=
  (List.range 3).map (fun a => (c.axis a).pos (o.getD a 0) (tap.getD a 0))

/-- The channels of the input tile that a TCONV works on for a filter's. -/
def convChans (x g : Opnd) : List Nat :=
  (rangeFrom (x.origin.getD 0 0) (x.size.getD 0 0)).filter (fun c => c < max (x.bound.getD 0 0) (g.bound.getD 0 0))

/-- The blocks that one output element of a KIND 0 TCONV receives: by tap, then by channel. -/
def ConvRun.blocks (v : ConvRun) (d : Dev) (pm : Nat → Nat) (x g : Opnd) (o : List Nat) (co : Nat) : List BlockIn :=
  v.c.taps.flatMap (fun tap =>
    let pairs := (convChans x g).map (fun ch =>
      (v.sample d pm x ch (x.origin.getD 4 0) (v.c.padPos o tap), ch :: tap ++ [co]))
    if x.desc.scaled then
      ((List.range (ceilDiv pairs.length 32)).map (fun j => (pairs.drop (32 * j)).take 32)).filterMap (fun ps =>
        ps.head?.map (fun h => scaledBlock x.desc.fmt g.desc.fmt (h.1.scale.getD 0) ((g.scale d pm h.2).getD 0)
          (ps.map (fun z => (z.1.code, g.code d pm z.2)))))
    else pairs.map (fun z =>
      let w := (z.1.val x.desc.fmt).mul (g.val d pm z.2)
      { val := w, bexp := productExp w }))

/-- The values of a pooling window that take part (R182). -/
def ConvRun.poolVals (v : ConvRun) (d : Dev) (pm : Nat → Nat) (x : Opnd) (ch n : Nat) (o : List Nat) : List Val :=
  (v.c.taps.map (fun tap => v.sample d pm x ch n (v.c.padPos o tap))).filterMap (fun s =>
    if s.image || v.c.includePad then some (s.val x.desc.fmt) else none)

/-- R182: the maximum of exact values; a NaN among them gives NaN. -/
def maxVal : List Val → Val
  | [] => .inf true
  | [v] => v
  | v :: t => match v, maxVal t with
    | .nan, _ => .nan
    | _, .nan => .nan
    | a, b => if a.lt b then b else a

def oneBlock (v : Val) : BlockIn := { val := v, bexp := productExp v }

/-- The accumulator's number for an output position of the tile: offsets along W, H, D and the channel. -/
def convKey (o : Opnd) (off : List Nat) : Nat :=
  accKey (off.getD 1 0 + o.size.getD 1 1 * (off.getD 2 0 + o.size.getD 2 1 * off.getD 3 0)) (off.getD 0 0)

/-- Every position of the output tile (R177: the tile is computed whole). -/
def Opnd.wholeCells (o : Opnd) : List (List Nat) := boxCoords o.origin o.size

/-- What a TCONV adds to the accumulator. KIND 0: the tile's blocks, nothing where a source is ABSENT. KIND 2: each
window's positions. KIND 3: the in-bounds positions of the source tile. Each sample of a pool is a block of one (R183). -/
def Env.convIn (e : Env) (d : Dev) (v : ConvRun) (o x : Opnd) (g : Option Opnd) : List Contrib :=
  if v.c.kind = 3 then
    (List.range (o.size.getD 0 0)).map (fun ch =>
      let ps := (x.cells.filter (fun p => p.getD 0 0 == x.origin.getD 0 0 + ch))
      (convKey o [ch, 0, 0, 0, 0], ps.map (fun p => oneBlock (x.val d e.pm p)), ps.length))
  else o.wholeCells.map (fun p =>
    let key := convKey o (o.offOf p)
    match g with
    | some g => (key, if e.isAbsent d x || e.isAbsent d g then [] else v.blocks d e.pm x g (p.drop 1) (p.getD 0 0), 0)
    | none =>
      let vs := v.poolVals d e.pm x (p.getD 0 0) (x.origin.getD 4 0) (p.drop 1)
      (key, vs.map oneBlock, vs.length))

/-- R183: the accumulated value over its number of terms. A global average without terms: the spec states no
value (log 30). -/
def meanOf (a : AccElem) (exact : Bool) (later : List Int) (free : Val) (kind : Nat) : Val :=
  if a.terms = 0 then (if kind = 2 then Val.zero else free)
  else (a.result exact later).times { neg := false, num := 1, den := a.terms }

/-- R183: what a maximum over no positions is written as: -Inf where the format has it, else the code of its largest
finite magnitude with the sign, which takes no part in the choice of the block's scale (DEDUCED, log 48). -/
def Fmt.lowest (f : Fmt) : Nat := if f.hasInf then f.infCode true else f.encode true f.maxN f.maxG
def patchEmpty (f : Fmt) (empties : List (List Nat)) (ys : List EncElt) : List EncElt :=
  ys.map (fun y => if empties.contains y.1 then (y.1, WElem.plain f.lowest, y.2.2) else y)

/-- KIND 1: the tile's maxima. -/
def Dev.convMax (d : Dev) (e : Env) (v : ConvRun) (t : TI) (o x : Opnd) : Dev :=
  let f := x.desc.tensorScale.div o.desc.tensorScale
  let vs := (o.clipped t).cells.map (fun p => (p, v.poolVals d e.pm x (p.getD 0 0) (x.origin.getD 4 0) (p.drop 1)))
  let empties := vs.filterMap (fun z => if z.2.isEmpty then some z.1 else none)
  let ys := e.encodeTile o (vs.map (fun z => (z.1, if z.2.isEmpty then Val.zero else (maxVal z.2).times f, false)))
  (d.setAcc e.core []).storeEnc e o { rowMasked := false, empty := !empties.isEmpty } (patchEmpty o.desc.fmt empties ys)

/-- What an instruction that continues a group adds to the accumulator (R102). -/
def Env.groupIn (e : Env) (d : Dev) (t : TI) : List Contrib :=
  match e.opnd t 1, e.opnd t 2 with
  | some o, some x =>
    if t.cls = cMm then (e.opnd t 3).elim [] (e.mmIn d t o x)
    else (e.im.convs[t.param]?).elim [] (fun c => e.convIn d (e.convRun c x.desc o) o x (e.opnd t 3))
  | _, _ => []

/-- R102, R104: the block exponents that the rest of a continued group brings to an element, as memory stands at the
instruction that rounds. An entry of a TBATCH has no rest. -/
def Env.later (e : Env) (d : Dev) (t : TI) : Nat → List Int :=
  if !e.r.mode mExact || !t.flag 1 || !t.ent.isEmpty then fun _ => []
  else
    let cs := e.ahead.flatMap (e.groupIn d)
    fun key => (cs.filter (fun c => c.1 == key)).flatMap (fun c => c.2.1.filterMap (·.bexp))

/-- TCONV: the accumulator, then, with OUT, the rounded tile. -/
def Dev.tconv (d : Dev) (e : Env) (t : TI) (c : Conv) (o x : Opnd) (g : Option Opnd) : Dev :=
  let v := e.convRun c x.desc o
  let exact := e.r.mode mExact
  if c.kind = 1 then d.convMax e v t o x
  else
    let later := e.later d t
    let acc := updAcc exact (e.accumulator d) t.clears (e.convIn d v o x g)
    let d := d.setAcc e.core acc
    let get := fun (p : List Nat) => KV.getD acc (convKey o (o.offOf p)) AccElem.zero
    let cells := (o.clipped t).cells
    let empty := c.kind != 0 && cells.any (fun p => (get p).terms == 0)
    let fl : TFlags := { rowMasked := false, empty := empty }
    if !t.flag 1 then d.account e o (statusOf TFlags.none []) []
    else
      let tg := (g.map (fun g => g.desc.tensorScale)).getD (Q.nat 1)
      let f := (x.desc.tensorScale.mul tg).div o.desc.tensorScale
      let free := fun (p : List Nat) => ofF32 (Config.emptyMean o.di (o.desc.logical e.pm p)).toNat
      let xs := cells.map (fun p =>
        let later := later (convKey o (o.offOf p))
        let w := if c.kind = 0 then (get p).result exact later else meanOf (get p) exact later (free p) c.kind
        (p, w.times f, false))
      d.storeTile e o fl xs

/-- R177: the positions of the input that a TCONV fetches: of a pool or convolution those of its windows, of a global
average the source tile. -/
def Env.convReads (e : Env) (c : Conv) (o x : Opnd) (g : Option Opnd) : List (List Nat) :=
  if c.kind = 3 then x.cells
  else
    let v := e.convRun c x.desc o
    (o.wholeCells.flatMap (fun p => c.taps.flatMap (fun tap =>
      (g.elim [p.getD 0 0] (convChans x)).filterMap (fun ch => v.fetched ch (x.origin.getD 4 0) (c.padPos (p.drop 1) tap))))).eraseDups

/-! ### TFFT (R179 to R181) -/

/-- Points of a transform: W fastest. -/
def Conv.points (c : Conv) : List (List Nat) := boxCoords [0, 0, 0] [2 ^ (c.axis 0).log2n, 2 ^ (c.axis 1).log2n, 2 ^ (c.axis 2).log2n]

/-- A complex number as multiples of 2^-512. -/
abbrev Fx2 := Int × Int
def Fx2.mul (a b : Fx2) : Fx2 := (fxMul a.1 b.1 - fxMul a.2 b.2, fxMul a.1 b.2 + fxMul a.2 b.1)

/-- e^(2 pi i / 2^n), by half angles. -/
def unitRoot : Nat → Fx2
  | 0 => (fx1, 0)
  | 1 => (-fx1, 0)
  | 2 => (0, fx1)
  | n + 1 => let c := (unitRoot n).1; (fxSqrt ((fx1 + c) / 2), fxSqrt ((fx1 - c) / 2))
/-- e^(2 pi i k / 2^n). -/
def twiddle (n k : Nat) : Fx2 := (List.range n).foldl (fun z j => if bitOf k j then z.mul (unitRoot (n - j)) else z) (fx1, 0)

/-- The exact transform at a point, of finite values: points of the input with their values. The inverse divides by the
number of points. -/
def Conv.exactAt (c : Conv) (inverse : Bool) (xs : List (List Nat × Q × Q)) (k : List Nat) : Q × Q :=
  let z := xs.foldl (fun (s : Fx2) x =>
    let w := (List.range 3).foldl (fun (w : Fx2) a => w.mul (twiddle (c.axis a).log2n (k.getD a 0 * x.1.getD a 0))) (fx1, 0)
    let t := Fx2.mul (fxOf x.2.1, fxOf x.2.2) (if inverse then w else (w.1, -w.2))
    (s.1 + t.1, s.2 + t.2)) (0, 0)
  let n := if inverse then Int.ofNat xs.length else 1
  (ofFx (z.1 / n), ofFx (z.2 / n))

/-- Table 5.6, TFFT: 2^-21 times log2 of the points times the norm of the input, to 512 bits. -/
def fftBound (xs : List (List Nat × Q × Q)) : Q :=
  let s := xs.foldl (fun s x => s + fxMul (fxOf x.2.1) (fxOf x.2.1) + fxMul (fxOf x.2.2) (fxOf x.2.2)) 0
  (ofFx (fxSqrt s)).mul (Q.dy false xs.length.log2 (-21))

/-- A word of the unit's answer, held to the bound about the exact value. -/
def fftHold (y b : Q) (w : Word) : Nat :=
  match ofF32 w.toNat with
  | .fin q => if b.lt (Q.abs (q.sub y)) then toF32 (.fin y) else w.toNat
  | _ => toF32 (.fin y)

/-- R181: the unit's transform of points. Its order of operations is fixed by the sizes alone and is not in the spec:
Config.fft stands for it, held to the TFFT row of Table 5.6 where every point is finite (log 48). -/
def Conv.transform (c : Conv) (inverse : Bool) (pts : List (Nat × Nat)) : List (Nat × Nat) :=
  let r := Config.fft inverse (c.axis 0).log2n (c.axis 1).log2n (c.axis 2).log2n
    (pts.flatMap (fun p => [BitVec.ofNat 32 p.1, BitVec.ofNat 32 p.2]))
  let raw := (List.range pts.length).map (fun i => (r.getD (2 * i) 0, r.getD (2 * i + 1) 0))
  let fin := pts.filterMap (fun p => match ofF32 p.1, ofF32 p.2 with
    | .fin a, .fin b => some (a, b)
    | _, _ => none)
  if fin.length ≠ pts.length then raw.map (fun w => (w.1.toNat, w.2.toNat))
  else
    let xs := c.points.zip fin
    let b := fftBound xs
    (c.points.zip raw).map (fun z => let y := c.exactAt inverse xs z.1; (fftHold y.1 b z.2.1, fftHold y.2 b z.2.2))

/-- Writes the spectrum of channel ch and output o as elements 2 ch and 2 ch + 1. -/
def specElts (c : Conv) (ch o : Nat) (f : Q) (pts : List (Nat × Nat)) : List Elt :=
  (c.points.zip pts).flatMap (fun z =>
    [((2 * ch) :: z.1 ++ [o], (ofF32 z.2.1).times f, false), ((2 * ch + 1) :: z.1 ++ [o], (ofF32 z.2.2).times f, false)])

/-- The tap that stands at a filter point: f with Fe - 1 - f * Dl = k. -/
def ConvAxis.tapAt (a : ConvAxis) (k : Nat) : Option Nat := (List.range a.f).find? (fun f => f * a.dil + k == a.fe - 1)

/-- The filter as points of a transform for one pair of channels. -/
def Env.filterPts (e : Env) (d : Dev) (c : Conv) (g : Opnd) (ci co : Nat) : List (Nat × Nat) :=
  c.points.map (fun k =>
    match (c.axis 0).tapAt (k.getD 0 0), (c.axis 1).tapAt (k.getD 1 0), (c.axis 2).tapAt (k.getD 2 0) with
    | some a, some b, some z => (g.f32 d e.pm [ci, a, b, z, co], 0)
    | _, _, _ => (0, 0))

/-- Position of block coordinates: first stride-1 position along each axis. -/
def Conv.blockBase (c : Conv) (j : List Nat) : List Nat := (List.range 3).map (fun a => j.getD (a + 1) 0 * (c.axis a).blockLen)

/-- R180: the block lies wholly beyond the bound output extents `outs`. -/
def Conv.blockBeyond (c : Conv) (j outs : List Nat) : Bool :=
  (List.range 3).any (fun a => outs.getD a 0 == 0 || (outs.getD a 0 - 1) * (c.axis a).stride < (c.blockBase j).getD a 0)

/-- OP 0 of the input: block j, channels of the tile. -/
def Env.inputElts (e : Env) (d : Dev) (c : Conv) (v : ConvRun) (x : Opnd) (j : List Nat) (f : Q) : List Elt :=
  let base := c.blockBase j
  let ch0 := j.getD 0 0 * x.desc.tileExt 0
  (List.range (x.desc.tileExt 0)).flatMap (fun i =>
    let pts := c.points.map (fun k =>
      let s := v.sample d e.pm x (ch0 + i) (j.getD 4 0) ((List.range 3).map (fun a => Int.ofNat (base.getD a 0 + k.getD a 0) - Int.ofNat (c.axis a).padB))
      (toF32 (s.val x.desc.fmt), 0))
    specElts c i 0 f (c.transform false pts))

def cMulF32 (a b : Nat × Nat) : Nat × Nat :=
  (f32Sub (f32Mul a.1 b.1) (f32Mul a.2 b.2), f32Add (f32Mul a.1 b.2) (f32Mul a.2 b.1))

/-- A complex element of a spectrum. -/
def Opnd.cplx (o : Opnd) (d : Dev) (pm : Nat → Nat) (ch : Nat) (k : List Nat) (n : Nat) : Nat × Nat :=
  (o.f32 d pm ((2 * ch) :: k ++ [n]), o.f32 d pm ((2 * ch + 1) :: k ++ [n]))

/-- OP 2: channels summed in increasing order. -/
def Env.productElts (e : Env) (d : Dev) (c : Conv) (x g : Opnd) (f : Q) : List Elt :=
  (List.range (g.desc.extent e.pm 4)).flatMap (fun o =>
    specElts c o 0 f (c.points.map (fun k =>
      (List.range (x.desc.extent e.pm 0 / 2)).foldl (fun s ch =>
        let p := cMulF32 (x.cplx d e.pm ch k 0) (g.cplx d e.pm ch k o)
        (f32Add s.1 p.1, f32Add s.2 p.2)) (0, 0))))

/-- OP 1: the output positions of block j. -/
def Env.inverseElts (e : Env) (d : Dev) (c : Conv) (y x : Opnd) (j : List Nat) (f : Q) : List Elt :=
  let base := c.blockBase j
  let ch0 := j.getD 0 0 * y.desc.tileExt 0
  let outs := (List.range 3).map (fun a => (List.range (y.bound.getD (a + 1) 0)).filter (fun o =>
    base.getD a 0 ≤ o * (c.axis a).stride && o * (c.axis a).stride < base.getD a 0 + (c.axis a).blockLen))
  (List.range (y.desc.tileExt 0)).flatMap (fun i =>
    let pts := c.transform true (c.points.map (fun k => x.cplx d e.pm i k 0))
    let tab := c.points.zip pts
    (outs.getD 2 []).flatMap (fun z => (outs.getD 1 []).flatMap (fun h => (outs.getD 0 []).filterMap (fun w =>
      let p := [ch0 + i, w, h, z, j.getD 4 0]
      let k := (List.range 3).map (fun a => (c.axis a).fe - 1 + (p.getD (a + 1) 0 * (c.axis a).stride - base.getD a 0))
      if within y.bound p then
        (tab.find? (fun q => q.1 == k)).map (fun q => (p, (fromLane q.2.1 true).times f, false))
      else none))))

/-- The block coordinates that a TILE has in a record's grid (R180). -/
def Env.blockCoords (e : Env) (c : Conv) (x : Desc) (tile : Nat) : List Nat := coordsIn (e.im.blockGrid c x) tile

/-- The bound output extents of a record along W, H and D. -/
def Env.outExtents (e : Env) (c : Conv) : List Nat :=
  match e.im.desc? c.outDesc with
  | none => [0, 0, 0]
  | some y => (List.range 3).map (fun a => y.extent e.pv (a + 1))

/-- R89, R180: the instruction works on a block wholly beyond the bound extents. -/
def Env.fftBeyond (e : Env) (t : TI) (c : Conv) (o x : Opnd) : Bool :=
  if t.op = 0 ∧ opDesc t.i2 = c.inDesc then
    let j := e.blockCoords c x.desc (opTile t.i2)
    c.blockBeyond j (e.outExtents c)
  else if t.op = 1 then
    let j := e.blockCoords c o.desc (opTile t.i1)
    c.blockBeyond j (e.outExtents c) || o.bound.getD 0 0 ≤ j.getD 0 0 * o.desc.tileExt 0 || o.bound.getD 4 0 ≤ j.getD 4 0
  else o.beyond

/-- R177: the positions that a TFFT fetches: of a block of the input those of its windows, else the source tile. -/
def Env.fftReads (e : Env) (t : TI) (c : Conv) (o x : Opnd) : List (List Nat) :=
  if t.op = 0 ∧ opDesc t.i2 = c.inDesc then
    let y := (e.im.desc? c.outDesc).getD o.desc
    let v := e.convRun c x.desc (e.whole c.outDesc y 0)
    let j := e.blockCoords c x.desc (opTile t.i2)
    let base := c.blockBase j
    c.points.flatMap (fun k => (rangeFrom (j.getD 0 0 * x.desc.tileExt 0) (x.desc.tileExt 0)).filterMap (fun ch =>
      v.fetched ch (j.getD 4 0) ((List.range 3).map (fun a => Int.ofNat (base.getD a 0 + k.getD a 0) - Int.ofNat (c.axis a).padB))))
  else x.cells

/-- A spectrum as a destination: OP 0 and OP 2 never round stochastically (R181). -/
def Opnd.spectrum (o : Opnd) : Opnd := { o with desc := { o.desc with round := if o.desc.round = 2 then 0 else o.desc.round } }

/-- TFFT. -/
def Dev.tfft (d : Dev) (e : Env) (t : TI) (c : Conv) (o x : Opnd) (g : Option Opnd) : Dev :=
  let f := x.desc.tensorScale.div o.desc.tensorScale
  let xs :=
    if t.op = 0 then
      (if opDesc t.i2 = c.filtDesc then
        (List.range (x.size.getD 4 0)).flatMap (fun co => (List.range (x.size.getD 0 0)).flatMap (fun ci =>
          specElts c ci co f (c.transform false (e.filterPts d c x (x.origin.getD 0 0 + ci) (x.origin.getD 4 0 + co)))))
      else
        let y := (e.im.desc? c.outDesc).getD o.desc
        e.inputElts d c (e.convRun c x.desc (e.whole c.outDesc y 0)) x (e.blockCoords c x.desc (opTile t.i2)) f)
    else if t.op = 1 then e.inverseElts d c o x (e.blockCoords c o.desc (opTile t.i1)) f
    else match g with
      | some g => e.productElts d c x g ((x.desc.tensorScale.mul g.desc.tensorScale).div o.desc.tensorScale)
      | none => []
  d.storeTile e (if t.op = 1 then o else o.spectrum) TFlags.none xs

/-! ### TXCH (R184 to R186) -/

/-- The position of an own-tile sample in the receiving core's extended tile; none outside its range.
`rt` is the receiving tile's coordinates. -/
def xchPos (t : TI) (own : Opnd) (rt p : List Nat) : Option (List Nat) :=
  let w := Int.ofNat t.param
  let q := (List.range 5).map (fun a =>
    if 1 ≤ a ∧ a ≤ 3 ∧ t.flag (a - 1) then
      Int.ofNat (p.getD a 0) - (Int.ofNat (rt.getD a 0 * own.desc.tileExt a) - w)
    else if a = 4 then 0
    else Int.ofNat (p.getD a 0))
  let ok := (List.range 5).all (fun a =>
    let i := q.getD a 0
    0 ≤ i && (!(1 ≤ a && a ≤ 3 && t.flag (a - 1)) || i < Int.ofNat (own.desc.tileExt a) + 2 * w))
  if ok then some (q.map Int.toNat) else none

/-- R89: the receiving tile, by its coordinates in the own tile's grid, lies wholly beyond the bound extents. -/
def Env.xchBeyond (e : Env) (t : TI) (own : Opnd) : Bool :=
  !within own.bound (List.zipWith (· * ·) (own.desc.coords e.pm (opTile t.i1)) own.desc.tile)

/-- TXCH: in-bounds samples of the own tile, with their block scales, into another core's extended tile. -/
def Dev.txch (d : Dev) (e e2 : Env) (t : TI) (x : Desc) (own : Opnd) : Dev :=
  let rt := own.desc.coords e.pm (opTile t.i1)
  let o := e2.whole (opDesc t.i1) x 0
  let ys := own.cells.filterMap (fun p => (xchPos t own rt p).map (fun q =>
    (q, WElem.plain (own.code d e.pm p), (own.scale d e.pm p).getD 256)))
  (d.putElts e2 o ys).account e o (statusOf TFlags.none ys) ys

end Sys2Proof.Machine
end

