-- ==== Sys2Proof/Machine/TileRows.lean ====
section
/-! DEFINITION. Tile instructions as they execute: the rows TLOAD to TCHAIN (R78 to R92, R154 to R159, R213, R370). -/
namespace Sys2Proof.Machine
open Sys2Proof

/-- How an instruction at the front of its queue goes. -/
inductive TileOut where
  /-- it cannot go on yet: for answers to its writes, or for a remote page that one of these devices sends -/
  | wait (peers : List Nat)
  /-- skipped: it leaves the queue and is not counted (R87, R89) -/
  | skip
  /-- executed -/
  | done (d : Dev)
  /-- the run ends with a status -/
  | fail (d : Dev) (st : Status)
  /-- the run ends with ST_MEM_UNCORRECTABLE at an address (R39, R213) -/
  | mem (d : Dev) (a : Nat)
  deriving DecidableEq, Repr

/-- R34, R68, R78: what runs now on queue `u` of plan shed k: none while the step issues nothing there. -/
def Dev.env (d : Dev) (f k u : Nat) : Option Env :=
  match KV.find d.flights f, KV.find d.runs f with
  | some x, some r =>
    if x.phase = .running ∧ x.opcode = 0x11 ∧ r.started ∧ r.stepOn ∧ !r.suspended then
      match d.runPlan r, KV.find r.sheds k with
      | some p, some sr =>
        if u ≤ fftUnit ∧ (d.shed sr.phys).power = .run ∧ !d.issuePaused sr.phys then
          some { im := d.planImg p, f := f, r := r, p := p, k := k, x := sr, c := if u = fftUnit then 0 else u }
        else none
      | _, _ => none
    else none
  | _, _ => none

def Run.updShed (r : Run) (k : Nat) (g : ShedRun → ShedRun) : Run := { r with sheds := KV.upd r.sheds k g }
def Dev.updShedRun (d : Dev) (f k : Nat) (g : ShedRun → ShedRun) : Dev := d.updRun f (fun r => r.updShed k g)

/-- One member of a chain has gone by (R91). -/
def ShedRun.unchain (x : ShedRun) (u : Nat) : ShedRun :=
  match KV.find x.chain u with
  | none => x
  | some n => { x with chain := if n ≤ 1 then KV.del x.chain u else KV.put x.chain u (n - 1) }

/-- The number of a queue of a plan shed, under which a wait for a page is kept. -/
def waitKey (k u : Nat) : Nat := k * 128 + u

/-- The front instruction of a queue has finished: it leaves, and the controller issues on. -/
def Dev.retireTile (d : Dev) (f k u : Nat) : Dev :=
  (d.updRun f (fun r => Run.updShed { r with pageWait := KV.del r.pageWait (waitKey k u) } k (fun x => (x.dequeue u).unchain u))).pumpRun f

/-- The instruction that stands at the front of a queue, of class `cls`. -/
def Env.front (e : Env) (u cls : Nat) : Option TI :=
  match e.x.queue u with
  | t :: _ => if t.cls = cls then some t else none
  | [] => none

/-- An entry that does nothing (R87). -/
def TI.idle (t : TI) : Bool := t.cols == some 0 || t.rows == some 0

/-- R162, R166: the bytes that a failing step wrote are undefined: free values. -/
def Dev.scramble (d : Dev) (f : Nat) : Dev :=
  match KV.find d.runs f with
  | none => d
  | some r => r.wrote.foldl (fun d w =>
      let z := d.freeBytes w.2.2
      if w.1 = 0 then { z.1 with sram := z.1.sram.writes w.2.1 z.2 }
      else if w.1 = 1 then { z.1 with hbm := z.1.hbm.writes w.2.1 z.2 }
      else { z.1 with host := z.1.host.writes w.2.1 z.2 }) d

/-- R162: what of a failing step's pages and remote signals is still unanswered or queued goes no further. R159 and R81
let both leave as the step goes on; what a peer has accepted stands (log 45). -/
def Dev.withdraw (d : Dev) (f : Nat) : Dev :=
  let mine := fun (fl : Option Nat) (p : Pkt) => fl == some f && (p.kind == kPage || p.kind == kSignal)
  { d with sent := d.sent.filter (fun x => !mine x.flight x.pkt), outq := d.outq.filter (fun x => !mine x.flight x.pkt) }

/-- A run ends inside a step. -/
def Dev.failStep (d : Dev) (f : Nat) (st : Status) : Dev :=
  if st = .staleTable ∨ st = .pageExhausted then ((d.scramble f).withdraw f).failFlight f st else d.failFlight f st

/-- What an outcome makes of the state. -/
def Dev.tileEnd (d : Dev) (e : Env) (u : Nat) : TileOut → Dev
  | .wait ps => if ps.isEmpty then d else d.updRun e.f (fun r => { r with pageWait := KV.put r.pageWait (waitKey e.k u) ps })
  | .skip => d.retireTile e.f e.k u
  | .done d' => ((if u = fftUnit then d' else d'.useCore e.core).countTile e).retireTile e.f e.k u
  | .fail d' st => d'.failStep e.f st
  | .mem d' a => d'.finishMem e.f a

/-- A tile row: the instruction at the front of queue u of plan shed k, of class `cls`, executes. -/
def Dev.tileRow (d : Dev) (f k u cls : Nat) (body : Env → TI → TileOut) : Dev :=
  match d.env f k u with
  | none => d
  | some e => match e.front u cls with
    | none => d
    | some t => d.tileEnd e u (if t.idle then .skip else body e t)

/-- The accesses of an instruction: the error that the environment reports, and `bad`, the first poisoned byte it reads
(R213, Table 11.8). -/
def Env.reads (e : Env) (d : Dev) (nv : NonVol) (mf : MemFault) (bad : Option Nat) (go : Dev → TileOut) : TileOut :=
  let z := d.memFault nv e.f mf
  match z.2.orElse (fun _ => bad) with
  | some a => .mem z.1 a
  | none => go z.1

/-! ### Pages (R154, R155, R158, R159) -/

/-- Branch, layer and page index of a paged descriptor. -/
def Desc.branch (x : Desc) : Nat := fld x.offset 28 4
def Desc.layer (x : Desc) : Nat := fld x.offset 0 12
def Desc.pageIdx (x : Desc) : Nat := 2 * fld x.offset 16 8 + fld x.offset 15 1

/-- Tokens of local block b that may be read or written: a main sequence ends at TOKENS, a branch after its
four blocks (R155). -/
def rowsOfBlock (tokens branch b : Nat) : Nat :=
  if branch = 0 then min 256 (tokens - 256 * b) else if b < tokens / 256 + 4 then 256 else 0

/-- An operand whose tile is the page at `base`, with the tokens that may be touched. -/
def Opnd.onPage (o : Opnd) (h : List Byte) (base rows : Nat) : Opnd :=
  { o with loc := .hbm base, sloc := .hbm (base + 256 * hRow h),
           bound := [o.bound.getD 0 0, min (o.bound.getD 1 0) (o.origin.getD 1 0 + rows)] ++ o.bound.drop 2 }
/-- An operand that supplies zeros. -/
def Opnd.zeros (o : Opnd) : Opnd := { o with bound := [0, 0, 0, 0, 0] }

/-- The sequence that an operand reaches, its key, and the global block of the operand's tile. -/
def Env.pageSeq (e : Env) (d : Dev) (o : Opnd) : Option (Nat × Seq × Int) :=
  (KV.find d.seqs (e.seqKey o.desc)).map (fun q =>
    (e.seqKey o.desc, q, pageBlock (d.hdr q) ((o.desc.coords e.pm o.tile).getD 1 0)))

/-- How a paged source is read: R154's walk in the step that runs. -/
def Env.pageRead (e : Env) (d : Dev) (o : Opnd) (go : Opnd → TileOut) : TileOut :=
  match e.pageSeq d o with
  | none => .fail d .staleTable
  | some (k, q, kb) =>
    let h := d.hdr q
    match d.walk q kb o.desc.layer o.desc.branch o.desc.pageIdx e.r.stepNo with
    | .wait => .wait ((List.range (hPeers h)).map (fun i => (hPeer h i).2.1))
    | .stale => .fail (d.markStale k) .staleTable
    | .none => go o.zeros
    | .beyond => go o.zeros
    | .page a =>
      let b := kb - Int.ofNat (hFirst h)
      go (o.onPage h a (if 0 ≤ b ∧ b < Int.ofNat q.maxBlocks then rowsOfBlock (hTokens h) o.desc.branch b.toNat else 256))

/-- R154, R162: the page that a write needs: the entry filled, or its shared page copied; the tail page's copy
in a new branch page. Answers the page's address; none when the pool is exhausted. -/
def Dev.writablePage (d : Dev) (k : Nat) (q : Seq) (x : Desc) (b a : Nat) : Option (Dev × Walk) :=
  let h := d.hdr q
  let w := d.ent a
  let sealed := fun (d : Dev) => (d.sealList k false, d.resolve q (d.ent a))
  if eKind w = 0 then
    (d.makeRoom q.paddock k (hPrio h) 1).bind (fun z => (z.1.fillEntry k q.paddock a).map (fun d =>
      let main := q.entryAt (q.mainRec b x.layer) x.pageIdx
      let tail := x.branch != 0 && b == hTokens h / 256 && hTokens h % 256 != 0 && b < q.maxBlocks
      match (if tail then d.resolve q (d.ent main) else .none), d.resolve q (d.ent a) with
      | .page src, .page dst => sealed { d with hbm := d.hbm.writes dst (d.hbm.reads src pageBytes) }
      | _, _ => sealed d))
  else if isShared d q.paddock a then
    (d.makeRoom q.paddock k (hPrio h) 1).bind (fun z => (z.1.ownPage k q.paddock a).map sealed)
  else some (d, d.resolve q w)

/-- How a paged destination is written: a remote block and blocks beyond the sequence are masked; tokens
beyond TOKENS are masked. `go` gets the operand, and the local block when the page is a main page. -/
def Env.pageWrite (e : Env) (d : Dev) (o : Opnd) (go : Dev → Opnd → Option (Nat × Seq × Nat) → TileOut) : TileOut :=
  match e.pageSeq d o with
  | none => .fail d .staleTable
  | some (k, q, kb) =>
    let h := d.hdr q
    let b := kb - Int.ofNat (hFirst h)
    if b < 0 ∨ Int.ofNat q.maxBlocks ≤ b then go d o.zeros none
    else
      let rows := rowsOfBlock (hTokens h) o.desc.branch b.toNat
      if rows = 0 then go d o.zeros none
      else match d.pageEntry q b.toNat o.desc.layer o.desc.branch o.desc.pageIdx true with
        | none => go d o.zeros none
        | some a => match d.writablePage k q o.desc b.toNat a with
          | none => .fail d .pageExhausted
          | some (d, .page base) =>
            let q' := (KV.find d.seqs k).getD q
            let main := o.desc.branch == 0 || b.toNat < hTokens h / 256
            go d (o.onPage h base rows) (if main then some (k, q', b.toNat) else none)
          | some (d, _) => .fail (d.markStale k) .staleTable

/-! ### TLOAD and TSTORE (R370) -/

/-- R370: the move copies bit for bit. -/
def bitMove (o a : Opnd) : Bool :=
  o.desc.format == a.desc.format && o.desc.tensorScale.eq a.desc.tensorScale &&
    (!o.desc.fmt.block || o.origin.getD 0 0 % 32 == a.origin.getD 0 0 % 32)

/-- The block scale of a position, read at its block's first element. -/
def Opnd.blockScale (a : Opnd) (d : Dev) (pm : Nat → Nat) (p : List Nat) : Nat :=
  (a.scale d pm (p.getD 0 0 / 32 * 32 :: p.drop 1)).getD 256

/-- The move of a source tile to a destination tile. -/
def Dev.moveTile (d : Dev) (e : Env) (t : TI) (o a : Opnd) : Dev :=
  let cells := (o.clipped t).cells
  let src := fun (p : List Nat) => a.at' (o.offOf p)
  if bitMove o a then
    let ys := cells.map (fun p => (p, WElem.plain (a.code d e.pm (src p)), a.blockScale d e.pm (src p)))
    (d.putElts e o ys).account e o (statusOf TFlags.none ys) ys
  else
    let f := a.desc.tensorScale.div o.desc.tensorScale
    d.storeTile e o TFlags.none (cells.map (fun p => (p, (a.val d e.pm (src p)).times f, false)))

/-- R158: an absent cell under MASK_SPARSE. -/
def Env.sparse (e : Env) (d : Dev) (t : TI) (a : Opnd) : Bool := e.r.mode mSparse && a.desc.paged && e.tileAbsent d t.i2

def Env.loadBody (e : Env) (d : Dev) (nv : NonVol) (mf : MemFault) (t : TI) : TileOut :=
  match e.opnd t 1, e.opnd t 2 with
  | some o, some a =>
    if o.beyond then .skip
    else if e.sparse d t a then
      .done ((if e.im.placeOf o.desc = 0 ∧ !d.absent.contains (e.mark o) then { d with absent := e.mark o :: d.absent } else d).account e o
        TileStatus.zero [])
    else
      let go := fun (a : Opnd) => e.reads d nv mf (a.poisoned d e.pm) (fun d => .done (d.moveTile e t o a))
      if a.desc.paged then e.pageRead d a go else go a
  | _, _ => .skip

def execTload (f k c : Nat) (mf : MemFault) (s : State) : Res := onDevR s fun nv _ d =>
  d.tileRow f k c cLoad (fun e t => e.loadBody d nv mf t)

/-- R159: the page of a main block goes to its peers. -/
def Env.sendMain (e : Env) (d : Dev) (x : Desc) : Option (Nat × Seq × Nat) → TileOut
  | none => .done d
  | some (_, q, b) =>
    match d.sendPage e.f e.unit q b x.layer x.pageIdx e.r.stepNo with
    | (d, none) => .done d
    | (d, some st) => .fail d st

def Env.storeBody (e : Env) (d : Dev) (nv : NonVol) (mf : MemFault) (t : TI) : TileOut :=
  match e.opnd t 1, e.opnd t 2 with
  | some o, some a =>
    if o.beyond then .skip
    else match e.peerFails d o with
      | some st => .fail d st
      | none => e.reads d nv mf (a.poisoned d e.pm) (fun d =>
        if o.desc.paged then e.pageWrite d o (fun d o m => e.sendMain (d.moveTile e t o a) o.desc m)
        else .done (d.moveTile e t o a))
  | _, _ => .skip

def execTstore (f k c : Nat) (mf : MemFault) (s : State) : Res := onDevR s fun nv _ d =>
  d.tileRow f k c cStore (fun e t => e.storeBody d nv mf t)

/-! ### TMM, TCONV, TFFT, TSF, TNORM, TSOFT -/

/-- R87: an entry with K = 0 reads neither source. -/
def Env.mmBody (e : Env) (d : Dev) (nv : NonVol) (mf : MemFault) (t : TI) : TileOut :=
  match e.opnd t 1, e.opnd t 2, e.opnd t 3 with
  | some c, some a, some b =>
    if c.beyond then .skip
    else if t.klim = some 0 then .done (d.tmm e t c a b (e.later d t))
    else e.reads d nv mf ((a.poisoned d e.pm).orElse (fun _ => b.poisoned d e.pm)) (fun d => .done (d.tmm e t c a b (e.later d t)))
  | _, _, _ => .skip

def execTmm (f k c : Nat) (mf : MemFault) (s : State) : Res := onDevR s fun nv _ d =>
  d.tileRow f k c cMm (fun e t => e.mmBody d nv mf t)

/-- The first poisoned byte of what is fetched: positions of the first source, and the second source whole. -/
def Env.poisonIn (e : Env) (d : Dev) (x : Opnd) (cells : List (List Nat)) (g : Option Opnd) : Option Nat :=
  (x.poisonedAt d e.pm cells).orElse (fun _ => g.bind (fun g => g.poisoned d e.pm))

def Env.convBody (e : Env) (d : Dev) (nv : NonVol) (mf : MemFault) (t : TI) : TileOut :=
  match e.im.convs[t.param]?, e.opnd t 1, e.opnd t 2 with
  | some c, some o, some x => if o.beyond then .skip
      else e.reads d nv mf (e.poisonIn d x (e.convReads c o x (e.opnd t 3)) (e.opnd t 3)) (fun d => .done (d.tconv e t c o x (e.opnd t 3)))
  | _, _, _ => .skip

def execTconv (f k c : Nat) (mf : MemFault) (s : State) : Res := onDevR s fun nv _ d =>
  d.tileRow f k c cConv (fun e t => e.convBody d nv mf t)

def Env.fftBody (e : Env) (d : Dev) (nv : NonVol) (mf : MemFault) (t : TI) : TileOut :=
  match e.im.convs[t.param]?, e.opnd t 1, e.opnd t 2 with
  | some c, some o, some x => if e.fftBeyond t c o x then .skip
      else e.reads d nv mf (e.poisonIn d x (e.fftReads t c o x) (e.opnd t 3)) (fun d => .done (d.tfft e t c o x (e.opnd t 3)))
  | _, _, _ => .skip

/-- The FFT unit's queue. -/
def execTfft (f k : Nat) (mf : MemFault) (s : State) : Res := onDevR s fun nv _ d =>
  d.tileRow f k fftUnit cFft (fun e t => e.fftBody d nv mf t)

def Env.sfBody (e : Env) (d : Dev) (nv : NonVol) (mf : MemFault) (t : TI) : TileOut :=
  match e.opnd t 1, e.opnd t 2 with
  | some o, some a => if o.beyond then .skip else e.reads d nv mf none (fun d => .done (d.tsf e t o a))
  | _, _ => .skip

def execTsf (f k c : Nat) (mf : MemFault) (s : State) : Res := onDevR s fun nv _ d =>
  d.tileRow f k c cSf (fun e t => e.sfBody d nv mf t)

def Env.normBody (e : Env) (d : Dev) (nv : NonVol) (mf : MemFault) (t : TI) : TileOut :=
  match e.opnd t 1, e.opnd t 2 with
  | some o, some a => if o.beyond then .skip else e.reads d nv mf none (fun d => .done (d.tnorm e t o a (e.opnd t 3)))
  | _, _ => .skip

def execTnorm (f k c : Nat) (mf : MemFault) (s : State) : Res := onDevR s fun nv _ d =>
  d.tileRow f k c cNorm (fun e t => e.normBody d nv mf t)

def Env.softBody (e : Env) (d : Dev) (nv : NonVol) (mf : MemFault) (t : TI) : TileOut :=
  match e.opnd t 1, e.opnd t 2 with
  | some o, some a => if o.beyond then .skip else e.reads d nv mf none (fun d => .done (d.tsoft e t a))
  | _, _ => .skip

def execTsoft (f k c : Nat) (mf : MemFault) (s : State) : Res := onDevR s fun nv _ d =>
  d.tileRow f k c cSoft (fun e t => e.softBody d nv mf t)

/-! ### TXCH (R185, R186) -/

/-- The environment of another core of the run. -/
def Env.other (e : Env) (k c : Nat) : Option Env := (KV.find e.r.sheds k).map (fun x => { e with k := k, x := x, c := c })

def Env.xchBody (e : Env) (d : Dev) (nv : NonVol) (mf : MemFault) (t : TI) : TileOut :=
  match e.im.desc? (e.subst (opDesc t.i1)), e.opnd t 2, e.other (fld t.i3 21 5) (fld t.i3 26 6) with
  | some x, some own, some e2 =>
    if e.xchBeyond t own then .skip else e.reads d nv mf (own.poisoned d e.pm) (fun d => .done (d.txch e e2 t x own))
  | _, _, _ => .skip

def execTxch (f k c : Nat) (mf : MemFault) (s : State) : Res := onDevR s fun nv _ d =>
  d.tileRow f k c cXch (fun e t => e.xchBody d nv mf t)

/-! ### Control: TBATCH, TSIG, TWAIT, TCHAIN (R80, R84, R86, R91) -/

/-- A row of an instruction that the controller of plan shed k stands at and carries out itself. -/
def Dev.ctrlRow (d : Dev) (f k cls : Nat) (body : Env → TI → Dev) : Dev :=
  match d.env f k 0 with
  | none => d
  | some e =>
    let t := e.x.cur e.im k
    if e.x.markers = e.r.step ∧ e.x.pc < e.im.count k ∧ e.x.batch.isNone ∧ t.cls = cls ∧ t.held then body e t else d

/-- The controller goes on past its instruction. -/
def Dev.ctrlNext (d : Dev) (e : Env) (g : ShedRun → ShedRun) : Dev :=
  (d.updShedRun e.f e.k (fun x => g (x.next (e.im.shedSegs e.k) e.pv))).pumpRun e.f

/-- R84: entries that a TBATCH runs. -/
def batchCount (t : TI) (pv : Nat → Nat) : Nat := if t.flag 1 then pv (fld t.i1 0 6) else fld t.i1 0 13

def Dev.locBytes (d : Dev) (l : Loc) (n : Nat) : List Byte := let m := d.locMem l; m.1.reads m.2 n

/-- The bytes of a TBATCH's list: list number k lies k * 131,072 bytes on (R84). A list whose buffer lies in the crib is
that of logical core 0: the rule names no core (DESIGN CHOICE, log 66). -/
def Env.listBytes (e : Env) (d : Dev) (t : TI) : Loc × List Byte :=
  match e.im.desc? (opDesc t.i2) with
  | none => (.sram 0, [])
  | some x =>
    let l := ({ e with c := 0 }.loc x).plus (opTile t.i2 * 131072)
    (l, d.locBytes l (32 * batchCount t e.pv))

/-- The number under which a list's CRC is kept. -/
def listKey (k : Nat) (t : TI) (n : Nat) : Nat := (k * 2 ^ 32 + t.i2) * 8192 + n

def batchEntries (bs : List Byte) : List (List Nat) := (List.range (bs.length / 32)).map (fun i => wordsAt bs (32 * i) 8)

/-- The HBM bytes that a place names. -/
def Loc.hbmRange (l : Loc) (n : Nat) : List (Nat × Nat) := match l with
  | .hbm a => [(a, n)]
  | _ => []

/-- R86: the list is read again and its CRC compared; then its entries issue, the controller staying at the TBATCH until
the last of them has. -/
def execTbatch (f k : Nat) (mf : MemFault) (s : State) : Res := onDevR s fun nv _ d =>
  d.ctrlRow f k cBatch fun e t =>
    let n := batchCount t e.pv
    let z := e.listBytes d t
    d.withReads nv f mf (z.1.hbmRange (32 * n)) fun d =>
      if KV.find e.r.lists (listKey k t n) ≠ some (crc32c z.2) then d.failStep f .staleTable
      else (d.updShedRun f k (fun x => { x with batch := some (0, batchEntries z.2) })).pumpRun f

/-- R80: a counter of a plan shed of this run goes up. -/
def Run.signal (r : Run) (k ctr inc : Nat) : Run :=
  r.updShed k (fun x => { x with counters := KV.put x.counters ctr ((KV.getD x.counters ctr 0 + inc) % 2 ^ 32) })

/-- A remote signal (Table 12.6). -/
def signalPkt (e : Env) (t : TI) : Pkt :=
  { kind := kSignal, vc := 1, src := 0, dst := fld t.i1 21 11, paddock := e.r.paddock, desc := 0xFFF, format := 0, tag := e.r.tag,
    length := 0, seq := 0, step := e.r.stepNo, offset := t.i2 * 2 ^ 32 + fld t.i1 16 5 * 2 ^ 16 + fld t.i1 8 8 * 2 ^ 8, crc := 0, payload := [] }

/-- Peer writes of the preceding instructions that wait for a port or are not answered (R247). -/
def Env.writesOpen (e : Env) (d : Dev) (all : Bool) : Bool :=
  let mine := fun (fl : Option Nat) (kind unit : Nat) => fl == some e.f && kind == kWrite &&
    (if all then 1 + e.k * 64 ≤ unit && unit < 65 + e.k * 64 else unit == e.unit)
  d.sent.any (fun x => mine x.flight x.pkt.kind x.unit) || d.outq.any (fun x => mine x.flight x.pkt.kind x.unit)

/-- What a TSIG does: the local counter, or the packet. `.wait` while writes are open. -/
def Env.signal (e : Env) (d : Dev) (t : TI) : TileOut :=
  if e.writesOpen d (t.flag 0) then .wait []
  else if t.flag 2 then
    match d.send (some e.f) 0 (signalPkt e t) with
    | (d, none) => .done d
    | (d, some st) => .fail d st
  else .done (d.updRun e.f (fun r => r.signal (fld t.i1 16 5) (fld t.i1 8 8) t.i2))

/-- A TSIG of a core acts when it comes to the front of the core's queue. -/
def Dev.coreSig (d : Dev) (f k c : Nat) : Dev :=
  match d.env f k c with
  | none => d
  | some e => match e.front c cSig with
    | none => d
    | some t => match e.signal d t with
      | .done d => d.retireTile f k c
      | .fail d st => d.failFlight f st
      | _ => d

/-- A TSIG with ALL acts once every queue of the shed is empty; one with STEP is the step's marker. -/
def Dev.ctrlSig (d : Dev) (f k : Nat) : Dev :=
  d.ctrlRow f k cSig fun e t =>
    if t.flag 1 then d.ctrlNext e (fun x => { x with markers := x.markers + 1 })
    else if !e.x.drained then d
    else match e.signal d t with
      | .done d => d.ctrlNext e id
      | .fail d st => d.failFlight f st
      | _ => d

def execTsig (f k : Nat) (c : Option Nat) (s : State) : Res := onDev s fun d =>
  match c with
  | none => d.ctrlSig f k
  | some c => d.coreSig f k c

/-- Whether the counter of a TWAIT has reached its threshold, compared unsigned. -/
def Env.reachedCtr (e : Env) (t : TI) : Bool := t.i2 ≤ KV.getD e.x.counters (fld t.i1 8 8) 0

def execTwait (f k : Nat) (s : State) : Res := onDev s fun d =>
  d.ctrlRow f k cWait fun e t =>
    if e.x.waiting then d
    else if e.reachedCtr t then d.ctrlNext e id
    else d.updShedRun f k (fun x => { x with waiting := true })

def execTwaitRelease (f k : Nat) (s : State) : Res := onDev s fun d =>
  d.ctrlRow f k cWait fun e t =>
    if e.x.waiting && e.reachedCtr t then d.ctrlNext e (fun x => { x with waiting := false }) else d

/-- R91: the next PARAM instructions of the core are a chain. -/
def execTchain (f k c : Nat) (s : State) : Res := onDev s fun d =>
  match d.env f k c with
  | none => d
  | some e => match e.front c cChain with
    | none => d
    | some t => (d.updShedRun f k (fun x => let y := x.dequeue c; { y with chain := KV.put y.chain c t.param })).pumpRun f

end Sys2Proof.Machine
end

