-- ==== Sys2Proof/Machine/PlanCmds.lean ====
section
/-! DEFINITION. Commands on loaded plans: PLAN_LOAD, PLAN_UNLOAD, PLAN_ABORT, WINDOW_SET, PREFETCH_SCHEDULE, CARRYOVER_SET, GUARD_POLICY, FALLBACK_BUDGET (R47, R63, R64, R72, R120, R124, R129, R221, R222, R225, R231). -/
namespace Sys2Proof.Machine
open Sys2Proof

/-- The key of the plan that a plan command names. -/
def Dev.plan? (d : Dev) (x : Flight) : Option Plan := KV.find d.plans x.planKey
def Dev.updPlan (d : Dev) (k : Nat) (g : Plan → Plan) : Dev := { d with plans := KV.upd d.plans k g }

/-- R49: the handle names a loaded plan. -/
def checkPlan (d : Dev) (x : Flight) : List (Bool × Status) := [((d.plan? x).isNone, .badParam)]
/-- R221, R225: the handle names a plan with an installed layer table. -/
def checkTable (d : Dev) (x : Flight) : List (Bool × Status) := [(((d.plan? x).bind (·.table)).isNone, .badParam)]

/-! ### PLAN_LOAD (R63, R64, R129) -/

def checkPlanLoad (d : Dev) (p : Paddock) (pad : Nat) (x : Flight) : List (Bool × Status) :=
  let src := fld (x.w 3) 0 2
  let a := x.d 4
  let n := x.d 6
  [(src == 0 && !inMap p.hostMap a n, .notInPaddock), (src == 1 && !d.hbmOk p a n, .notInPaddock),
   (src == 2 && a + n ≤ hayTop && !d.hayReadable pad a n, .notInPaddock), (src == 3 || (src == 2 && hayTop < a + n), .badParam)]

/-- R64: the lowest range of the store, at a multiple of 4 KiB from its base, with room for an image. -/
def Dev.storeRoom (d : Dev) (n : Nat) : Option Nat :=
  let v := d.feature 0x0100
  let need := roundUp n 4096
  let starts := sortNat (regionBase v :: d.plans.vals.map (fun p => p.base + roundUp p.len 4096))
  starts.find? (fun a => a + need ≤ regionBase v + regionLen v &&
    d.plans.vals.all (fun p => !overlaps a need p.base (roundUp p.len 4096)))

/-- A plan as it is loaded: every layer NARROW once a table comes, and the defaults of R120, R124, R221. -/
def Plan.fresh (pad handle base len : Nat) : Plan :=
  { paddock := pad, handle := handle, base := base, len := len, table := none, depth := 3, pinned := [], pinnedNext := [], fetches := [], nSat := 10,
    nZero := 6, cleanLimit := 4, rho := 0x3FC00000, budgetW3 := 0, window := [], running := 0, failed := [], carryOn := [],
    carryAddr := none, carry := [] }

/-- R72, R282: a RESERVED paddock, or an ordinary member of its rotation set. -/
def Dev.needsBuckets (d : Dev) (pad : Nat) : Bool :=
  (d.pad pad).elim false (fun p => d.pads.vals.any (fun q => q.cls == .reserved && q.shedMask == p.shedMask))

/-- R63, R72, R282: the image is refused. -/
def Dev.loadBad (d : Dev) (x : Flight) (bs : List Byte) : Bool :=
  KV.has d.plans x.planKey || 256 ≤ (KV.keep d.plans (fun _ p => p.paddock == x.paddock)).length || !planOk bs ||
    (d.needsBuckets x.paddock && (readPlan bs).buckets.isEmpty)

def planLoad (nv : NonVol) (h : Hay) (d : Dev) (f : Nat) (x : Flight) (bad : Option Nat) (mf : MemFault) : Hay × Dev :=
  let z := d.memFault nv f mf
  let d := z.1
  let src := fld (x.w 3) 0 2
  let a := x.d 4
  let n := x.d 6
  match (if src = 2 then h.firstBad a n bad else none) with
  | some b => (h.markFailed b, d.finish f .hayloftReadFail 0 0)
  | none =>
    match z.2.orElse (fun _ => if src = 1 then d.poisoned a n else none) with
    | some w => (h, d.finishMem f w)
    | none =>
      let bs := if src = 2 then hayReads h d a n else d.readSpace (spaceOf (1 - src)) a n
      if d.loadBad x bs then (h, d.finish f .badParam 0 0)
      else match d.storeRoom n with
        | none => (h, d.finish f .badParam 0 0)
        | some base =>
          let p := Plan.fresh x.paddock (fld (x.w 2) 0 16) base n
          (h, Dev.settle64 { d.hbmWrite base bs with plans := KV.put d.plans x.planKey p, restSince := d.now } f .ok n)

def execPlanLoad (f : Nat) (bad : Option Nat) (mf : MemFault) (s : State) : Res := onAll s fun nv h d =>
  match KV.find d.flights f with
  | none => (nv, h, d)
  | some x => if x.phase = .running ∧ x.opcode = 0x10 then (nv, planLoad nv h d f x bad mf) else (nv, h, d)

/-! ### PLAN_UNLOAD, PLAN_ABORT (R47, R68) -/

/-- R47: no run of the handle is in flight by now (COMMAND_START holds the command until then). -/
def execPlanUnload (f : Nat) (s : State) : Res := onDev s fun d => d.onFlight f 0x13 fun x =>
  if (d.plan? x).isNone then d.finish f .badParam 0 0
  else Dev.finish { d with plans := KV.del d.plans x.planKey } f .ok 0 0

/-- The runs that a PLAN_ABORT names: of its paddock, by handle or by queue and tag. -/
def Flight.aborts (x y : Flight) : Bool :=
  y.opcode == 0x11 && y.paddock == x.paddock && y.phase != .finished &&
    (if bitOf (x.w 2) 16 then y.queue == fld (x.w 3) 0 6 && y.tag == fld (x.w 3) 16 16 else fld (y.w 2) 0 16 == fld (x.w 2) 0 16)

/-- A run is aborted at a tile boundary; one that still waits leaves with nothing done. -/
def Dev.abortRun (d : Dev) (id : Nat) : Dev :=
  match KV.find d.flights id with
  | none => d
  | some y => if y.phase = .waiting then d.finish id .aborted 0 0 else d.failFlight id .aborted

def execPlanAbort (f : Nat) (s : State) : Res := onDev s fun d => d.onFlight f 0x12 fun x =>
  let ids := d.flightsWhere (fun _ y => x.aborts y)
  (ids.foldl Dev.abortRun d).finish f .ok ids.length 0

/-! ### WINDOW_SET (R221) -/

def execWindowSet (f : Nat) (s : State) : Res := onDev s fun d => d.onFlight f 0x22 fun x =>
  match (d.plan? x).bind (·.table) with
  | none => d.finish f .badParam 0 0
  | some t =>
    let n := if fld (x.w 3) 0 4 = 0 then 3 else fld (x.w 3) 0 4
    (d.updPlan x.planKey (fun p => { p with depth := n })).finish f .ok n t.windowMib

/-! ### PREFETCH_SCHEDULE (R222, Table 11.5) -/

def checkPrefetch (d : Dev) (p : Paddock) (x : Flight) : List (Bool × Status) :=
  [(!d.hbmOk p (x.d 4) (32 * fld (x.w 6) 0 16), .notInPaddock), (1024 < fld (x.w 6) 0 16, .badParam)] ++ checkPlan d x

def readPin (bs : List Byte) (o : Nat) : PinEntry :=
  { issueStep := fld (w32 bs o) 0 16, needStep := fld (w32 bs o) 16 16, src := leAt bs (o + 8) 8, source := fld (w32 bs (o + 4)) 0 2,
    dest := leAt bs (o + 16) 8, blocks := w32 bs (o + 24) }

/-- An entry obeys Table 11.5 and lies in the paddock. -/
def Dev.pinOk (d : Dev) (p : Paddock) (pad : Nat) (bs : List Byte) (o : Nat) : Bool :=
  let e := readPin bs o
  let n := e.blocks * 4096
  fld (w32 bs (o + 4)) 2 30 == 0 && w32 bs (o + 28) == 0 && 1 ≤ e.blocks && aligned e.dest 4096 && d.hbmOk p e.dest n &&
    ((e.source == 1 && e.src + n ≤ hayTop && d.hayReadable pad e.src n) || (e.source == 2 && inMap p.hostMap e.src n))

def risingSteps : List Nat → Bool
  | a :: b :: t => a ≤ b && risingSteps (b :: t)
  | _ => true

def Dev.prefetch (d : Dev) (p : Paddock) (f : Nat) (x : Flight) : Dev :=
  let n := fld (x.w 6) 0 16
  let bs := d.hbm.reads (x.d 4) (32 * n)
  let os := (List.range n).map (· * 32)
  if (d.plan? x).isNone || os.any (fun o => !d.pinOk p x.paddock bs o) || !risingSteps (os.map (fun o => (readPin bs o).issueStep)) then
    d.finish f .badParam 0 0
  else
    let k := fld (x.w 2) 16 2
    (d.updPlan x.planKey (fun q => { q with
      pinnedNext := if n = 0 then KV.del q.pinnedNext k else KV.put q.pinnedNext k (os.map (readPin bs)) })).finish f .ok n 0

def execPrefetchSchedule (f : Nat) (s : State) : Res := onDev s fun d => d.onFlight f 0x23 fun x =>
  match d.pad x.paddock with
  | none => d.finish f .notInPaddock 0 0
  | some p => match d.poisoned (x.d 4) (32 * fld (x.w 6) 0 16) with
    | some a => d.finishMem f a
    | none => d.prefetch p f x

/-! ### CARRYOVER_SET (R225) -/

/-- The fields are refused: misaligned, outside the paddock's HBM, or past LAYERS. -/
def Dev.carryBad (d : Dev) (p : Paddock) (x : Flight) (q : Plan) (t : LayerTable) : Bool :=
  !aligned (x.d 5) mib2 || t.layers.length < fld (x.w 3) 0 16 + fld (x.w 3) 16 16 ||
    !d.hbmOk p (x.d 5) (t.layers.length * (d.planImg q).carryEntry t)

def checkCarry (d : Dev) (p : Paddock) (x : Flight) : List (Bool × Status) :=
  checkTable d x ++ [(match d.plan? x with
    | some q => (match q.table with | some t => d.carryBad p x q t | none => true)
    | none => true, .badParam)]

/-- The layers with carry-over on, after first to first + count - 1 are set. -/
def setCarry (on : List Nat) (first count : Nat) (enable : Bool) : List Nat :=
  let rest := on.filter (fun l => l < first || first + count ≤ l)
  sortNat (if enable then rest ++ rangeFrom first count else rest)

def execCarryoverSet (f : Nat) (s : State) : Res := onDev s fun d => d.onFlight f 0x24 fun x =>
  match d.pad x.paddock, d.plan? x with
  | some p, some q =>
    (match q.table with
      | none => d.finish f .badParam 0 0
      | some t =>
        if d.carryBad p x q t then d.finish f .badParam 0 0
        else
          let on := setCarry q.carryOn (fld (x.w 3) 0 16) (fld (x.w 3) 16 16) (bitOf (x.w 4) 0)
          (d.updPlan x.planKey (fun q => { q with
            carryOn := on, carryAddr := some (x.d 5), carry := if q.carryAddr = some (x.d 5) then q.carry else [] })).finish f .ok on.length 0)
  | _, _ => d.finish f .badParam 0 0

/-! ### GUARD_POLICY, FALLBACK_BUDGET (R120, R124) -/

/-- Table 6.3: rho is +0.0, or finite and above 1.0. -/
def rhoOk (w : Nat) : Bool := w == 0 || (match ofF32 w with
  | .fin q => (Q.nat 1).lt q
  | _ => false)

def checkGuardPolicy (d : Dev) (x : Flight) : List (Bool × Status) :=
  checkPlan d x ++ [(30 < fld (x.w 3) 0 8 || 30 < fld (x.w 3) 8 8 || !rhoOk (x.w 4), .badParam)]

def orDefault (v dflt : Nat) : Nat := if v = 0 then dflt else v

def execGuardPolicy (f : Nat) (s : State) : Res := onDev s fun d => d.onFlight f 0xA0 fun x =>
  if (d.plan? x).isNone then d.finish f .badParam 0 0
  else (d.updPlan x.planKey (fun p => { p with
    nSat := orDefault (fld (x.w 3) 0 8) 10, nZero := orDefault (fld (x.w 3) 8 8) 6, cleanLimit := orDefault (fld (x.w 3) 16 8) 4,
    rho := orDefault (x.w 4) 0x3FC00000 })).finish f .ok 0 0

/-- R124: the budget in force for a table of n layers. -/
def budgetOf (w3 n : Nat) : Nat := min (orDefault w3 (ceilDiv n 8)) n

def execFallbackBudget (f : Nat) (s : State) : Res := onDev s fun d => d.onFlight f 0xA1 fun x =>
  match d.plan? x with
  | none => d.finish f .badParam 0 0
  | some p =>
    let w := fld (x.w 3) 0 16
    (d.updPlan x.planKey (fun p => { p with budgetW3 := w })).finish f .ok
      (match p.table with | some t => budgetOf w t.layers.length | none => w) 0

end Sys2Proof.Machine
end

