-- ==== Sys2Proof/Machine/Guard.lean ====
section
/-! DEFINITION. The precision guard at a pass boundary: guard vectors, norms, severity, promotion and demotion, and the guard records (R115 to R129). -/
namespace Sys2Proof.Machine
open Sys2Proof

/-! ### Guard vectors (R117 to R119) -/

/-- A sum in the wide form as one number of 64 bits, as the guard vector carries it: 24 bits of
significand, 16 of exponent, and marks for an infinity and NaN. DESIGN CHOICE (log 31). -/
def wideCode : Val → Nat
  | .nan => 2 ^ 63 + 2 ^ 62
  | .inf _ => 2 ^ 63
  | .fin q => if q.isZero then 0 else q.toGrid (q.ilog2 - 23) 0 0 + 2 ^ 24 * ((q.ilog2 + 32768) % 65536).toNat
def ofWideCode (c : Nat) : Val :=
  if bitOf c 62 then .nan
  else if bitOf c 63 then .inf false
  else .fin (Q.dy false (fld c 0 24) (Int.ofNat (fld c 24 16) - 32768 - 23))

/-- Insertion by a number, after equals. -/
def insertBy {α : Type} (key : α → Nat) (a : α) : List α → List α
  | [] => [a]
  | b :: t => if key a < key b then a :: b :: t else b :: insertBy key a t
def sortBy {α : Type} (key : α → Nat) (l : List α) : List α := l.foldl (fun s a => insertBy key a s) []

/-- R118: the squares of the elements that one core wrote to NORM_DESC, in increasing logical index. -/
def coreSquares (xs : List (Nat × Nat × Nat × Nat)) : Val :=
  (sortBy (·.1) xs).foldl (fun s x =>
    let v := ((fmtOf x.2.1).getD f32Fmt).scaled x.2.2.1 (if x.2.2.2 = 256 then none else some x.2.2.2)
    wAdd s (wMul v v)) Val.zero

/-- R118: the order in which per-core sums merge, by the reduction-algorithm version. -/
def mergeNorm (ver sheds : Nat) (part : Nat → Nat → Val) : Val :=
  if ver = 1 then
    treeMerge wAdd ((List.range sheds).map (fun k => treeMerge wAdd ((List.range 64).map (part k)) Val.zero)) Val.zero
  else if ver = 2 then
    ((List.range sheds).map (fun k => ((List.range 64).map (part k)).foldl wAdd Val.zero)).foldl wAdd Val.zero
  else
    ofWideCode (Config.mergeOrder ver
      ((List.range sheds).flatMap (fun k => (List.range 64).map (fun c => (k * 64 + c, wideCode (part k c)))))).1

/-- R117 to R119: layer i's vector in this pass: S, Z, N and the sum of squares. -/
def Run.guardVec (r : Run) (ver sheds i : Nat) : List Nat :=
  let c := KV.getD r.counts i LayerCount.blank
  [c.sat, c.zero, c.written, wideCode (mergeNorm ver sheds (fun k n => coreSquares (KV.getD c.norms (k * 64 + n) [])))]

/-! ### Severity (R121, R122) -/

/-- What one evaluation finds of a layer: Table 6.2's CAUSE, the severity in FP32, NORM, and whether it is
finite. -/
structure Verdict where
  cause : Nat
  sev : Nat
  norm : Nat
  finite : Bool
  deriving DecidableEq, Repr

def ratioF32 (a b : Nat) : Nat := if b = 0 then 0 else toF32 (.fin { neg := false, num := a, den := b })

/-- Table 6.2, W6: the root of the sum, clamped to the largest finite value. -/
def normCode : Val → Nat
  | .nan => 0x7FC00000
  | .inf _ => 0x7F7FFFFF
  | .fin q => min (sqrtF32 q) 0x7F7FFFFF

/-- R121: whether the ratio of norms leaves the band, and its term in FP32. -/
def normTest (rho norm : Nat) (sum : Q) : Bool × Nat :=
  match ofF32 rho, ofF32 norm with
  | .fin h, .fin y =>
    let c := sum
    let p := y.mul y
    let hh := h.mul h
    if c.isZero && p.isZero then (false, sqrtF32 ((Q.nat 1).div hh))
    else if c.isZero || p.isZero then (true, 0x7F800000)
    else let m := (c.div p).max (p.div c); (hh.lt m, sqrtF32 (m.div hh))
  | _, _ => (false, 0)

def Plan.judge (p : Plan) (l : Layer) (v : List Nat) : Verdict :=
  let s := v.getD 0 0 * 2 ^ p.nSat
  let z := v.getD 1 0 * 2 ^ p.nZero
  let n := v.getD 2 0
  let counts := b2n (n < s) + b2n (n < z) * 2
  let sum := ofWideCode (v.getD 3 0)
  match sum with
  | .fin q =>
    let t := if l.hasNorm && !l.changed then normTest p.rho l.norm q else (false, 0)
    { cause := counts + b2n t.1 * 4, sev := max (max (ratioF32 s n) (ratioF32 z n)) t.2, norm := normCode sum, finite := true }
  | w => { cause := counts + 8, sev := 0x7F800000, norm := normCode w, finite := false }

/-! ### Decisions (R122 to R125) -/

/-- A layer whose precision changes: FRESH is set, and the norm test waits for its next evaluation. -/
def Layer.setState (l : Layer) (st : Nat) : Layer := { l with state := st, clean := 0, severity := 0, fresh := true, changed := true }

/-- One evaluated layer before promotions. -/
def Plan.evalLayer (p : Plan) (l : Layer) (v : List Nat) : Layer :=
  let j := p.judge l v
  let l' : Layer := { l with cause := j.cause, norm := j.norm, hasNorm := j.finite, changed := false }
  if l.promoted then
    let c := if j.cause ≠ 0 then 0 else min (l.clean + 1) 255
    if p.cleanLimit ≤ c then l'.setState 0 else { l' with clean := c }
  else if j.cause ≠ 0 then { l' with state := 1, severity := max l.severity j.sev }
  else l'

/-- WAITING layers, largest held severity first, lower layer first at equal severity. -/
def backlogOf (ls : List Layer) : List Nat :=
  (sortBy (fun e => 2 ^ 32 - e.1.severity) (ls.zipIdx.filter (fun e => e.1.state == 1))).map (·.2)

/-- R124: promotes the first of the backlog, up to the budget. Answers the layers promoted. -/
def promote (ls : List Layer) (budget : Nat) : List Layer × Nat :=
  let who := (backlogOf ls).take budget
  (ls.zipIdx.map (fun e => if who.contains e.2 then e.1.setState 2 else e.1), who.length)

/-- The decisions of a boundary over the guard vectors. -/
def Plan.decide (p : Plan) (t : LayerTable) (carried : List Nat) (vec : Nat → List Nat) : LayerTable × Nat :=
  let ls := t.layers.zipIdx.map (fun e => if e.1.guarded && !carried.contains e.2 then p.evalLayer e.1 (vec e.2) else e.1)
  let z := promote ls (budgetOf p.budgetW3 ls.length)
  ({ t with layers := z.1 }, z.2)

/-! ### Records (Table 6.2) -/

/-- W4 to W7 of a record. -/
def Layer.guardBytes (l : Layer) : List Byte :=
  wordsLE [l.state * 2 ^ 30 + b2n l.fresh * 2 ^ 29 + l.clean * 2 ^ 16 + l.cause, l.severity, l.norm, 0]

/-- Writes W4 to W7 of record i. -/
def Dev.writeRecord (d : Dev) (t : LayerTable) (i : Nat) : Dev :=
  match t.layers[i]? with
  | none => d
  | some l => d.hbmWrite (t.addr + 16 + 32 * i + 16) l.guardBytes
def Dev.writeRecords (d : Dev) (t : LayerTable) : Dev := (List.range t.layers.length).foldl (fun d i => d.writeRecord t i) d

/-- R127: window slots of a former precision are discarded, and what a failed read said of the former copy
goes with them. -/
def Plan.settleWindow (p : Plan) (old t : LayerTable) : Plan :=
  let prom := fun (t : LayerTable) (i : Nat) => (t.layers[i]?).elim false Layer.promoted
  { p with table := some t, window := p.window.filter (fun w => w.wide == prom t w.layer),
           failed := p.failed.filter (fun i => prom old i == prom t i) }

/-! ### The end of a pass (R119 to R127) -/

/-- A run ends with ST_OK; with GUARD its pass is evaluated over the vectors. -/
def Dev.endPass (d : Dev) (f : Nat) (vec : Nat → List Nat) : Dev :=
  match KV.find d.runs f with
  | none => d
  | some r =>
    let d := if !r.mode mGuard then d
      else match KV.find d.plans r.plan with
        | none => d
        | some p => match p.table with
          | none => d
          | some t =>
            let z := p.decide t r.carried vec
            let d := Dev.writeRecords { d with plans := KV.put d.plans r.plan (p.settleWindow t z.1) } z.1
            let n := (backlogOf z.1.layers).length
            if n = 0 then d else d.postP evGuardBacklog p.paddock p.handle [n, z.2]
    d.finish f .ok r.tiles r.wideLayers

/-- The version that a command was fetched under (R112). -/
def Dev.verOf (d : Dev) (f : Nat) : Nat := (KV.find d.flights f).elim 0 (·.ver)

/-- R119: a device alone evaluates its own vectors. -/
def Dev.endPassAlone (d : Dev) (f : Nat) : Dev :=
  match KV.find d.runs f with
  | none => d
  | some r => d.endPass f (fun i => r.guardVec (d.verOf f) r.sheds.length i)

end Sys2Proof.Machine
end

