-- ==== Sys2Proof/Machine/Coll.lean ====
section
/-! DEFINITION. Collectives: groups, the two trees, headers and decisions, operations, switch slots and the guard gather (R119, R261 to R273). -/
namespace Sys2Proof.Machine
open Sys2Proof

/-! ### Shapes of a collective's data (Table 13.3, R265, R267, R269, R270) -/

/-- Bits of an element. A guard vector has 256 (R119). -/
def Coll.width (c : Coll) : Nat := if c.guardRun then 256 else (fmtOf c.format).elim 8 (·.bits)
def Coll.reduces (c : Coll) : Bool := c.op ≤ 2 || c.op == 5
/-- R268: the collectives that start with a header round. -/
def Coll.round (c : Coll) (g : Group) : Bool := !c.guardRun && (6 ≤ c.op || c.runv || (c.op ≤ 2 && g.switch != 0xFFFF))

/-- R267: of e elements, those on a tree: the first, and how many. -/
def treeFirst (tree : Bool) (e : Nat) : Nat := if tree then ceilDiv e 2 else 0
def treeElems (tree : Bool) (e : Nat) : Nat := if tree then e / 2 else ceilDiv e 2

/-- Member m's segment among n: its first element and its length. -/
def Coll.seg (c : Coll) (n m : Nat) : Nat × Nat :=
  if c.runv then ((c.counts.take m).sum, c.counts.getD m 0)
  else if c.op = 5 then
    let s := ceilDiv c.elems n
    (min (m * s) c.elems, min ((m + 1) * s) c.elems - min (m * s) c.elems)
  else (m * c.elems, c.elems)
/-- R270: in a COLL_RUNV all-to-all the second half of the table gives what the member receives. -/
def Coll.recvSeg (c : Coll) (n m : Nat) : Nat × Nat :=
  if c.runv && c.op == 6 then Coll.seg { c with counts := c.counts.drop n } n m else c.seg n m

/-- Bytes of one up-phase element: an FP32 partial, or a guard vector. -/
def Coll.upElem (c : Coll) : Nat := if c.guardRun then 32 else 4
/-- Bytes of member m's part of an all-gather on a tree. -/
def Coll.part (c : Coll) (tree : Bool) (n m : Nat) : Nat := ceilDiv (treeElems tree (c.seg n m).2 * c.width) 8
def Coll.partBase (c : Coll) (tree : Bool) (n m : Nat) : Nat := ((List.range m).map (c.part tree n)).sum

/-- R268: packets of a phase: with an embedded header the first carries 4,064 bytes. -/
def chunksOf (emb : Bool) (n : Nat) : List (Nat × Nat) :=
  if emb then (0, min n 4064) :: (pieces (n - 4064)).map (fun p => (4064 + p.1, p.2)) else pieces n

/-- The up-phase bytes of a member on a tree, for every operation but all-gather. -/
def Coll.upBytes (c : Coll) (g : Group) (tree : Bool) : Nat :=
  if c.op = 3 then
    (if (subtree tree g.members.length g.own).contains 0 then ceilDiv (treeElems tree c.elems * c.width) 8 else 0)
  else treeElems tree c.elems * c.upElem

/-- The elements of a tree whose shares belong to members of the subtree below m (R269). -/
def Coll.belowSpan (c : Coll) (tree : Bool) (n m : Nat) : Nat × Nat :=
  let ss := (subtree tree n m).map (c.seg n)
  let lo := (ss.map (·.1)).foldl min (2 ^ 64)
  let hi := (ss.map (fun s => s.1 + s.2)).foldl max 0
  let t0 := treeFirst tree c.elems
  (max lo t0, min hi (t0 + treeElems tree c.elems))

/-- The down-phase bytes that a member receives on a tree. -/
def Coll.downBytes (c : Coll) (g : Group) (tree : Bool) : Nat :=
  let n := g.members.length
  if c.op = 4 then ((List.range n).map (c.part tree n)).sum
  else if c.op = 5 then let s := c.belowSpan tree n g.own; (s.2 - s.1) * (c.width / 8)
  else ceilDiv (treeElems tree c.elems * c.width) 8

/-! ### Bit ranges of HBM -/

/-- n bits from bit `off` after an address, packed from bit 0. -/
def Dev.readBits (d : Dev) (a off n : Nat) : List Byte :=
  bytesLE (ceilDiv n 8) ((d.hbm.readLE (a + off / 8) (ceilDiv (off % 8 + n) 8) >>> (off % 8)) % 2 ^ n)
def Dev.writeBits (d : Dev) (a off n : Nat) (bs : List Byte) : Dev :=
  let k := ceilDiv (off % 8 + n) 8
  let b := a + off / 8
  d.hbmWrite b (bytesLE k (putFld (d.hbm.readLE b k) (off % 8) n (natLE bs)))

/-! ### Combining (R106, R267, Table 13.4) -/

/-- R267: max and min compare exactly; NaN wins, and +0 ranks above -0. -/
def f32Max (a b : Nat) : Nat :=
  match ofF32 a, ofF32 b with
  | .nan, _ => 0x7FC00000
  | _, .nan => 0x7FC00000
  | x, y => if x.lt y then b else if y.lt x then a else min a b
def f32Min (a b : Nat) : Nat :=
  match ofF32 a, ofF32 b with
  | .nan, _ => 0x7FC00000
  | _, .nan => 0x7FC00000
  | x, y => if x.lt y then a else if y.lt x then b else max a b

/-- R119: integers add exactly; sums of squares add in the wide form. -/
def guardAdd (a b : Nat) : Nat :=
  let f := fun (i : Nat) => (fld a (64 * i) 64 + fld b (64 * i) 64) % 2 ^ 64 * 2 ^ (64 * i)
  f 0 + f 1 + f 2 + wideCode (wAdd (ofWideCode (fld a 192 64)) (ofWideCode (fld b 192 64))) * 2 ^ 192

def Coll.add (c : Coll) (a b : Nat) : Nat :=
  if c.guardRun then guardAdd a b else if c.op = 1 then f32Max a b else if c.op = 2 then f32Min a b else f32Add a b

/-- Table 13.4; a missing child is left out. -/
def Coll.node (c : Coll) (ver : Nat) (kids : List Nat) (own : Nat) : Nat :=
  match kids with
  | [] => own
  | [l] => c.add l own
  | l :: r :: _ =>
    if ver = 1 then c.add (c.add l own) r
    else if ver = 2 then c.add l (c.add own r)
    else Config.combineOrder ver l own r

/-! ### Access to a collective in progress, by its command -/

def Dev.withColl (d : Dev) (id : Nat) (k : Group → Coll → Dev) : Dev :=
  match KV.find d.colls id with
  | none => d
  | some c => match KV.find d.groups c.group with
    | none => d
    | some g => k g c
def Dev.updColl (d : Dev) (id : Nat) (h : Coll → Coll) : Dev := { d with colls := KV.upd d.colls id h }

/-- Sends a packet of the collective to a member; a command whose packet has no port left ends (R254). -/
def Dev.collSend (d : Dev) (id m phase : Nat) (tree : Bool) (off : Nat) (bs : List Byte) : Dev :=
  d.withColl id fun g c =>
    match d.send (some id) 0 (collPkt g c (g.members.getD m 0) phase tree off bs) with
    | (d, none) => d
    | (d, some st) => d.failFlight id st

/-- R272: the lowest-numbered UP port toward the group's switch. -/
def Dev.switchPort (d : Dev) (g : Group) : Option Nat :=
  (List.range 16).find? (fun p => (d.port p).state == .up && ((d.port p).nb.elim false (fun nb => nb.node == g.switch)))
/-- R272: a packet to the switch; a member without a port toward it sends nothing. -/
def Dev.switchSend (d : Dev) (g : Group) (c : Coll) (phase off : Nat) (bs : List Byte) : Dev :=
  match d.switchPort g with
  | none => d
  | some p => d.transmitQuiet p (collPkt g c d.selfId phase false off bs)

/-! ### Headers (Table 13.5, R268) -/

def hdrBit (h : List Nat) (i : Nat) : Bool := bitOf (h.getD 1 0) i
def hdrWords (bs : List Byte) : List Nat := (List.range 8).map (fun i => w32 bs (4 * i))

def Dev.ownHeader (d : Dev) (g : Group) (c : Coll) : List Nat :=
  [g.digest, 2 ^ 19 + b2n (d.switchPort g).isSome * 2 ^ 18 + b2n c.det * 2 ^ 17 + b2n c.slotWanted * 2 ^ 16 + c.format * 256 +
    b2n c.runv * 128 + c.op, c.elems % 2 ^ 32, c.elems / 2 ^ 32, c.step, c.disagree, 0, 0]

/-- A node's header with a child's. -/
def mergeHeader (h k : List Nat) : List Nat :=
  let same := h.getD 0 0 == k.getD 0 0 && fld (h.getD 1 0) 0 16 == fld (k.getD 1 0) 0 16 && h.getD 2 0 == k.getD 2 0 &&
    h.getD 3 0 == k.getD 3 0 && h.getD 4 0 == k.getD 4 0
  [h.getD 0 0, b2n (same && hdrBit h 19 && hdrBit k 19) * 2 ^ 19 + b2n (hdrBit h 18 && hdrBit k 18) * 2 ^ 18 +
    b2n (hdrBit h 17 || hdrBit k 17) * 2 ^ 17 + b2n (hdrBit h 16 || hdrBit k 16) * 2 ^ 16 + fld (h.getD 1 0) 0 16,
    h.getD 2 0, h.getD 3 0, h.getD 4 0, (h.getD 5 0 + k.getD 5 0) % 2 ^ 32, 0, 0]

def treeKey (tree : Bool) (m : Nat) : Nat := b2n tree * 4096 + m

def Dev.subtreeHeader (d : Dev) (g : Group) (c : Coll) (tree : Bool) : List Nat :=
  (childrenOf tree g.members.length g.own).foldl (fun h k => mergeHeader h (KV.getD c.hdrs (treeKey tree k) [])) (d.ownHeader g c)
/-- Every child's header is here, and in a COLL_RUNV every member's count (R270). -/
def Coll.headerReady (c : Coll) (g : Group) (tree : Bool) : Bool :=
  (childrenOf tree g.members.length g.own).all (fun k => KV.has c.hdrs (treeKey tree k)) &&
    (!c.runv || c.countsSeen.length + 1 == g.members.length)

/-! ### Completion (R265, R273) -/

/-- R265: of a reduce-scatter's destination only the own share is defined. -/
def Dev.freeRest (d : Dev) (g : Group) (c : Coll) : Dev :=
  let b := c.width / 8
  let s := c.seg g.members.length g.own
  let keep := d.hbm.reads (c.dst + s.1 * b) (s.2 * b)
  (d.hbmWrite c.dst ((List.range (c.elems * b)).map (Config.undefinedShare c.elems))).hbmWrite (c.dst + s.1 * b) keep

/-- Every byte that the member is to receive is here. -/
def Coll.complete (c : Coll) (g : Group) : Bool :=
  let n := g.members.length
  let told := c.decision.isSome
  if c.onSlot then c.elems * (c.width / 8) ≤ c.slotDone
  else if c.op = 7 then told
  else if c.op = 6 then
    told && (List.range n).all (fun m => m == g.own || ceilDiv ((c.recvSeg n m).2 * c.width) 8 ≤ KV.getD c.directs m 0)
  else [false, true].all (fun t => (if c.round g then told else c.decided.contains (b2n t)) && c.downBytes g t ≤ KV.getD c.downDone (b2n t) 0)

/-- R273: a member that has its result; the guard gather ends with its run. -/
def Dev.collDone (d : Dev) (id : Nat) : Dev :=
  d.withColl id fun g c =>
    match KV.find d.flights id with
    | none => d
    | some x =>
      if !c.complete g || c.guardRun || x.phase != .running then d
      else
        let d := if c.op = 5 then d.freeRest g c else d
        let fell := c.slotWanted && !c.anyDet && !c.onSlot && c.op ≤ 5
        let d := d.updFlight id (fun x => { x with flags := setFlagIf fell x.flags fReductionFallback })
        d.settle id (if c.runv && c.counts.all (· == 0) then .empty else .ok) c.elems (if c.runv then c.disagree else c.slots)

/-! ### Down phase -/

/-- The root's result bytes of a tree, or those a DOWN packet brings, at a byte offset of the phase:
written to the destination. -/
def Dev.collStore (d : Dev) (id : Nat) (g : Group) (c : Coll) (tree : Bool) (off : Nat) (bs : List Byte) : Dev :=
  let n := g.members.length
  let w := c.width
  if c.guardRun then
    d.updRun id (fun r => { r with gathered := (List.range (bs.length / 32)).foldl (fun t i =>
      KV.put t (treeFirst tree c.elems + off / 32 + i) ((List.range 4).map (fun j => leAt bs (32 * i + 8 * j) 8))) r.gathered })
  else if c.op = 4 then
    (List.range n).foldl (fun d m =>
      let b := c.partBase tree n m
      let lo := max b off
      let hi := min (b + c.part tree n m) (off + bs.length)
      if lo < hi then
        let s := c.seg n m
        let room := treeElems tree s.2 * w - 8 * (lo - b)
        d.writeBits c.dst ((s.1 + treeFirst tree s.2) * w + 8 * (lo - b)) (min (8 * (hi - lo)) room) (sliceB bs (lo - off) (hi - lo))
      else d) d
  else if c.op = 5 then
    let b := w / 8
    let s := c.seg n g.own
    let a := treeFirst tree c.elems + off / b
    let lo := max s.1 a
    let hi := min (s.1 + s.2) (a + bs.length / b)
    if lo < hi then d.hbmWrite (c.dst + lo * b) (sliceB bs ((lo - a) * b) ((hi - lo) * b)) else d
  else
    d.writeBits c.dst (treeFirst tree c.elems * w + 8 * off) (min (8 * bs.length) (treeElems tree c.elems * w - 8 * off)) bs

/-- R269: what of a reduce-scatter's down bytes goes to a child. -/
def Dev.collShare (d : Dev) (id : Nat) (g : Group) (c : Coll) (tree : Bool) (off : Nat) (hdr bs : List Byte) (kid : Nat) : Dev :=
  let b := c.width / 8
  let t0 := treeFirst tree c.elems
  let s := c.belowSpan tree g.members.length kid
  let a := t0 + off / b
  let lo := max s.1 a
  let hi := min s.2 (a + bs.length / b)
  let part := if lo < hi then sliceB bs ((lo - a) * b) ((hi - lo) * b) else []
  let o := (lo - t0) * b
  if hdr.isEmpty then (if lo < hi then d.collSend id kid phDown tree o part else d)
  else if lo < hi ∧ o = 0 then d.collSend id kid phDown tree 0 (hdr ++ part)
  else
    let d := d.collSend id kid phDown tree 0 hdr
    if lo < hi then d.collSend id kid phDown tree o part else d

/-- What is left of a stretch of partial results when the elements from lo to hi have their result. -/
def cutOut (lo hi : Nat) (e : Nat × List Nat) : List (Nat × List Nat) :=
  [(e.1, e.2.take (lo - e.1)), (max e.1 hi, e.2.drop (hi - e.1))].filter (fun x => !x.2.isEmpty)

/-- The elements of a reduction for which this member stores `n` down bytes from byte `off` of a tree's phase. -/
def Coll.stored (c : Coll) (g : Group) (tree : Bool) (off n : Nat) : Nat × Nat :=
  let b := c.width / 8
  let a := treeFirst tree c.elems + off / b
  let s := if c.op = 5 then c.seg g.members.length g.own else (0, c.elems)
  (max s.1 a, min (s.1 + s.2) (a + n / b))

/-- Bytes of the down phase: passed to the children with the header that opens the phase, and stored. -/
def Dev.collDown (d : Dev) (id : Nat) (tree : Bool) (off : Nat) (hdr bs : List Byte) : Dev :=
  d.withColl id fun g c =>
    let d := (childrenOf tree g.members.length g.own).foldl (fun d k =>
      if c.op = 5 then d.collShare id g c tree off hdr bs k else d.collSend id k phDown tree off (hdr ++ bs)) d
    let d := d.collStore id g c tree off bs
    let e := c.stored g tree off bs.length
    d.updColl id (fun c => { c with
      partials := c.partials.flatMap (cutOut e.1 e.2),
      decided := if hdr.isEmpty then c.decided else (b2n tree :: c.decided).eraseDups,
      anyDet := if hdr.isEmpty then c.anyDet else c.anyDet || hdrBit (hdrWords hdr) 17,
      downDone := KV.put c.downDone (b2n tree) (KV.getD c.downDone (b2n tree) 0 + bs.length) })

/-! ### Decisions (R268, R270, R271, R272) -/

/-- A decision of "mismatch": passed down, and the command ends. -/
def Dev.collMismatch (d : Dev) (id : Nat) (tree : Bool) (h : List Nat) : Dev :=
  d.withColl id fun g c =>
    let d := (childrenOf tree g.members.length g.own).foldl (fun d k => d.collSend id k phDown tree 0 (wordsLE h)) d
    let d := if c.guardRun then d else d.updFlight id (fun x => { x with countA := c.elems % 2 ^ 32, countB := if c.runv then h.getD 5 0 else 0 })
    d.failFlight id .groupMismatch

/-- Part of a member's segment goes to its place in the destination. -/
def Dev.writeDirect (d : Dev) (g : Group) (c : Coll) (m off : Nat) (bs : List Byte) : Dev :=
  let s := c.recvSeg g.members.length m
  d.writeBits c.dst (s.1 * c.width + 8 * off) (min (8 * bs.length) (s.2 * c.width - 8 * off)) bs

/-- R269: every segment goes to its member directly, the own one is copied. -/
def Dev.collDirects (d : Dev) (id : Nat) : Dev :=
  d.withColl id fun g c =>
    let n := g.members.length
    let d := (rangeFrom 1 (n - 1)).foldl (fun d k =>
      let j := (g.own + k) % n
      let s := c.seg n j
      let bs := d.readBits c.src (s.1 * c.width) (s.2 * c.width)
      (pieces bs.length).foldl (fun d p => d.collSend id j phDirect false p.1 (sliceB bs p.1 p.2)) d) d
    let s := c.seg n g.own
    let t := c.recvSeg n g.own
    let own := d.readBits c.src (s.1 * c.width) (s.2 * c.width)
    let d := c.early.foldl (fun d e => d.writeDirect g c e.1 e.2.1 e.2.2) d
    if s.2 = 0 then d else d.writeBits c.dst (t.1 * c.width) (t.2 * c.width) own

/-- R272, step 4: the member's source goes to the switch. -/
def Dev.collToSwitch (d : Dev) (g : Group) (c : Coll) : Dev :=
  (pieces (c.elems * (c.width / 8))).foldl (fun d p => d.switchSend g c phSlotData p.1 (d.hbm.reads (c.src + p.1) p.2)) d

/-- The root's decision of a header round reaches this member; `h` is the header with DECISION. -/
def Dev.collDecision (d : Dev) (id : Nat) (h : List Nat) : Dev :=
  d.withColl id fun g c =>
    let w := h.getD 7 0
    if !bitOf w 0 then d.collMismatch id false h
    else
      let d := (childrenOf false g.members.length g.own).foldl (fun d k => d.collSend id k phDown false 0 (wordsLE h)) d
      let slot := bitOf w 1
      let d := d.updColl id (fun c => { c with
        decision := some w, anyDet := hdrBit h 17, slots := fld w 8 8, onSlot := slot, slotAskedAt := none,
        slotLast := if slot then some d.now else none })
      let d := if c.runv then d else d.updFlight id (fun x => { x with countB := fld w 8 8 })
      let d := if slot then d.collToSwitch g c else d
      if c.op = 6 then d.collDirects id else d

/-- R271: the conditions under which the root asks for slots. -/
def slotsWanted (g : Group) (c : Coll) (h : List Nat) : Bool :=
  c.op ≤ 2 && !c.runv && hdrBit h 16 && !hdrBit h 17 && g.switch != 0xFFFF && hdrBit h 18
/-- R272: slots of 16 MiB, at most 255. -/
def Coll.slotCount (c : Coll) : Nat := min 255 (ceilDiv (c.elems * (c.width / 8)) (16 * 2 ^ 20))

def withDecision (h : List Nat) (w : Nat) : List Nat := h.take 7 ++ [w]

/-- The root of tree A decides, or first asks the switch (R272, steps 1 to 3). -/
def Dev.collDecide (d : Dev) (id : Nat) (h : List Nat) : Dev :=
  d.withColl id fun g c =>
    if !hdrBit h 19 || h.getD 5 0 != 0 then d.collDecision id (withDecision h 0)
    else if slotsWanted g c h then
      (d.switchSend g c phSlotReq 0 (bytesLE 4 c.slotCount)).updColl id (fun c => { c with slotAskedAt := some d.now })
    else d.collDecision id (withDecision h 1)

/-- The answer to SLOT_REQ, or that none came. -/
def Dev.collSlotAnswer (d : Dev) (id granted : Nat) : Dev :=
  d.withColl id fun g c =>
    if c.slotAskedAt.isNone then d
    else
      let ok := granted == c.slotCount && granted != 0
      d.collDecision id (withDecision (d.subtreeHeader g c false) (if ok then 3 + granted * 256 else 1))

/-! ### Up phase -/

/-- A subtree's header is formed when every child's is here. -/
def Dev.collHeader (d : Dev) (id : Nat) (tree : Bool) : Dev :=
  d.withColl id fun g c =>
    if c.hdrSent.contains (b2n tree) || !c.headerReady g tree then d
    else
      let n := g.members.length
      let h := d.subtreeHeader g c tree
      let d := d.updColl id (fun c => { c with hdrSent := b2n tree :: c.hdrSent })
      let base := if c.op = 4 then c.partBase tree n g.own else 0
      match c.round g, parentOf tree n g.own with
      | true, some p => if tree then d else d.collSend id p phUp false 0 (wordsLE h)
      | true, none => if tree then d else d.collDecide id h
      | false, some p => if hdrBit h 19 then d else d.collSend id p phUp tree base (wordsLE h)
      | false, none => if hdrBit h 19 then d else d.collMismatch id tree (withDecision h 0)

/-- A tree may carry data. -/
def Dev.collOpen (d : Dev) (g : Group) (c : Coll) (tree : Bool) : Bool :=
  c.op ≤ 5 && !c.onSlot && (if c.round g then c.decision.isSome else c.hdrSent.contains (b2n tree) && hdrBit (d.subtreeHeader g c tree) 19)

/-- The header that opens a phase; empty after a header round. -/
def Dev.openHeader (d : Dev) (g : Group) (c : Coll) (tree down : Bool) : List Byte :=
  if c.round g then [] else wordsLE (withDecision (d.subtreeHeader g c tree) (b2n down))

/-- Element i of this member's own contribution to a reduction. -/
def Dev.ownElem (d : Dev) (id : Nat) (c : Coll) (i : Nat) : Nat :=
  if c.guardRun then
    match KV.find d.runs id with
    | none => 0
    | some r => natLE ((r.guardVec (d.verOf id) r.sheds.length i).flatMap (bytesLE 8))
  else toF32 (((fmtOf c.format).getD f32Fmt).decode (d.hbm.readLE (c.src + i * (c.width / 8)) (c.width / 8)))

/-- R267: the root rounds each result once into the element format. -/
def Coll.rounded (c : Coll) (v : Nat) : List Byte :=
  if c.guardRun then bytesLE 32 v
  else bytesLE (c.width / 8) (((fmtOf c.format).getD f32Fmt).writeScalar { mode := 0, nonsat := true } { v := ofF32 v, draw := 0, special := true }).code

/-- The parts that the children gave of an up-phase packet; none while one is missing. -/
def Coll.childParts (c : Coll) (tree : Bool) (off : Nat) : List Nat → Option (List (List Byte))
  | [] => some []
  | k :: ks =>
    match c.ups.find? (fun u => u.1 == treeKey tree k && u.2.1 == off) with
    | none => none
    | some u => (c.childParts tree off ks).map (u.2.2 :: ·)

/-- A node's values of an up-phase packet. -/
def Dev.nodeValues (d : Dev) (id : Nat) (c : Coll) (tree : Bool) (off n : Nat) (parts : List (List Byte)) : List Nat :=
  (List.range (n / c.upElem)).map (fun k => c.node (d.verOf id)
    (parts.map (fun p => leAt p (k * c.upElem) c.upElem)) (d.ownElem id c (treeFirst tree c.elems + off / c.upElem + k)))

/-- Packet i of the up phase at this node, once every child it waits for has given its part. -/
def Dev.collUp (d : Dev) (id : Nat) (tree : Bool) (i : Nat) : Dev :=
  d.withColl id fun g c =>
    let n := g.members.length
    let kids := childrenOf tree n g.own
    let need := if c.op = 3 then kids.filter (fun k => (subtree tree n k).contains 0 && (subtree tree n g.own).contains 0) else kids
    match (chunksOf (!c.round g) (c.upBytes g tree))[i]? with
    | none => d
    | some (off, len) =>
      match c.childParts tree off need with
      | none => d
      | some parts =>
        let d1 := d.updColl id (fun c => { c with
          upDone := KV.put c.upDone (b2n tree) (i + 1),
          ups := c.ups.filter (fun u => !(need.map (treeKey tree)).contains u.1 || u.2.1 != off) })
        let hdr := fun down => if i = 0 then d.openHeader g c tree down else []
        let own := d.readBits c.src (treeFirst tree c.elems * c.width + 8 * off) (min (8 * len) (treeElems tree c.elems * c.width - 8 * off))
        let vals := d.nodeValues id c tree off len parts
        let d1 := if c.reduces then d1.updColl id (fun c => { c with
          partials := c.partials ++ [(treeFirst tree c.elems + off / c.upElem, vals)] }) else d1
        match parentOf tree n g.own with
        | some p => d1.collSend id p phUp tree off (hdr false ++ (if c.op = 3 then (if g.own = 0 then own else parts.headD [])
            else vals.flatMap (bytesLE c.upElem)))
        | none =>
          if c.op = 3 then d1.collDown id tree off (hdr true) (if g.own = 0 then own else parts.headD [])
          else d1.collDown id tree (off / c.upElem * (c.width / 8)) (hdr true) (vals.flatMap c.rounded)

/-- All-gather: a member's own part, then what its children give, goes up; the root sends the whole down. -/
def Dev.collGather (d : Dev) (id : Nat) (tree : Bool) : Dev :=
  d.withColl id fun g c =>
    let n := g.members.length
    let emb := !c.round g
    let key := b2n tree
    let s := c.seg n g.own
    let own := d.readBits c.src (treeFirst tree s.2 * c.width) (treeElems tree s.2 * c.width)
    let base := c.partBase tree n g.own
    let mine := c.ups.filter (fun u => u.1 / 4096 == key)
    let sent := KV.getD c.upDone key 0 != 0
    match parentOf tree n g.own with
    | some p =>
      let d := d.updColl id (fun c => { c with upDone := KV.put c.upDone key 1, ups := c.ups.filter (fun u => u.1 / 4096 != key) })
      let d := if sent then d else (chunksOf emb own.length).foldl (fun d x =>
        d.collSend id p phUp tree (base + x.1) ((if x.1 = 0 then d.openHeader g c tree false else []) ++ sliceB own x.1 x.2)) d
      mine.foldl (fun d u => d.collSend id p phUp tree u.2.1 u.2.2) d
    | none =>
      let total := c.downBytes g tree
      if sent || (mine.map (fun u => u.2.2.length)).sum + own.length < total then d
      else
        let m : Memory := (mine.foldl (fun (m : Memory) u => m.writes u.2.1 u.2.2) []).writes base own
        let d := d.updColl id (fun c => { c with upDone := KV.put c.upDone key 1, ups := c.ups.filter (fun u => u.1 / 4096 != key) })
        (chunksOf emb total).foldl (fun d x =>
          d.collDown id tree x.1 (if x.1 = 0 then d.openHeader g c tree true else []) (m.reads x.1 x.2)) d

/-- The packets of the up phase that can be formed, in order, with fuel for their number. -/
def Dev.collUps (d : Dev) (id : Nat) (tree : Bool) : Nat → Dev
  | 0 => d
  | fuel + 1 =>
    match KV.find d.colls id with
    | none => d
    | some c =>
      let i := KV.getD c.upDone (b2n tree) 0
      let d' := d.collUp id tree i
      match KV.find d'.colls id with
      | none => d'
      | some c' => if KV.getD c'.upDone (b2n tree) 0 = i then d' else d'.collUps id tree fuel

def Dev.collTree (d : Dev) (id : Nat) (tree : Bool) : Dev :=
  d.withColl id fun g c =>
    if !d.collOpen g c tree then d
    else if c.op = 4 then d.collGather id tree
    else d.collUps id tree ((chunksOf (!c.round g) (c.upBytes g tree)).length + 1)

/-- Everything that a collective can do with what it has. -/
def Dev.collProgress (d : Dev) (id : Nat) : Dev :=
  let d := (d.collHeader id false).collHeader id true
  let d := (d.collTree id false).collTree id true
  d.collDone id

/-! ### Starting (R264, R265, R270) -/

def Coll.blank : Coll :=
  { group := 0, inst := 0, op := 0, runv := false, format := 0, elems := 0, src := 0, dst := 0, step := 0, slotWanted := false,
    det := false, counts := [], guardRun := false, hdrs := [], hdrSent := [], decided := [], decision := none, anyDet := false, ups := [],
    upDone := [], downDone := [], directs := [], countsSeen := [], disagree := 0, slots := 0, onSlot := false, slotAskedAt := none,
    slotLast := none, slotDone := 0, slotUndo := [], partials := [], early := [], fellBack := false, forwarded := false }

/-- R264: the group's next instance begins on this member. -/
def Dev.collEnter (d : Dev) (id : Nat) (gk : Nat) (g : Group) (c : Coll) : Dev :=
  { d with groups := KV.put d.groups gk { g with inst := (g.inst + 1) % 65536 }, colls := KV.put d.colls id { c with group := gk, inst := g.inst } }
/-- The member enters the instance and sends what it can. -/
def Dev.collBegin (d : Dev) (id : Nat) (gk : Nat) (g : Group) (c : Coll) : Dev :=
  let d := d.collEnter id gk g c
  let d := if c.runv then (List.range g.members.length).foldl (fun d j =>
      if j = g.own then d
      else d.collSend id j phCounts false 0 (bytesLE 8 (c.counts.getD (if c.op = 6 then j else g.own) 0))) d
    else d
  d.collProgress id

/-- The group that a command names. -/
def Flight.groupKey (x : Flight) : Nat := padKey x.paddock (fld (x.w 2) 0 16)
def collReduce (op : Nat) : Bool := op ≤ 2 || op == 5
/-- Table 13.3, R265: a format not allowed for the operation. -/
def collFmtBad (op fmt e : Nat) : Bool :=
  if op = 7 then fmt != 0
  else if collReduce op then !([0x30, 0x31, 0x40].contains fmt)
  else match fmtOf fmt with
    | none => true
    | some f => f.bits < 8 && e * f.bits % 8 != 0
def collBytes (fmt e : Nat) : Nat := ceilDiv (e * (fmtOf fmt).elim 8 (·.bits)) 8

/-- R265: the ranges lie in the paddock and are identical or disjoint. -/
def Dev.collRangesBad (d : Dev) (p : Paddock) (src srcN dst dstN : Nat) : Bool :=
  !d.hbmOk p src srcN || !d.hbmOk p dst dstN || (overlaps src srcN dst dstN && !(src == dst && srcN == dstN))

def Flight.collOp (x : Flight) : Nat := fld (x.w 3) 0 4
def Flight.collFmt (x : Flight) : Nat := fld (x.w 3) 8 8

def checkCollRun (d : Dev) (p : Paddock) (x : Flight) : List (Bool × Status) :=
  let e := x.d 8
  let op := x.collOp
  let f := x.collFmt
  match KV.find d.groups x.groupKey with
  | none => [(true, .badParam)]
  | some g =>
    let n := g.members.length
    let a := if op = 7 ∨ (op = 3 ∧ g.own ≠ 0) then 0 else collBytes f (if op = 6 then n * e else e)
    let b := if op = 7 then 0 else collBytes f (if op = 4 ∨ op = 6 then n * e else e)
    [(7 < op || collFmtBad op f e || 2 ^ 36 < e, .badParam),
     (op == 7 && ((rangeFrom 4 6).any (fun i => x.w i != 0)), .badParam),
     (d.collRangesBad p (x.d 4) a (x.d 6) b, .badParam),
     (bitOf (x.w 3) 16 && p.cls == .reserved, .modeRefused)]

def Flight.coll (x : Flight) (runv : Bool) (counts : List Nat) : Coll :=
  { Coll.blank with op := x.collOp, runv := runv, format := x.collFmt, elems := x.d 8, src := x.d 4, dst := x.d 6, step := fld (x.w 10) 0 24,
                    slotWanted := bitOf (x.w 3) 16, det := bitOf (x.w 3) 17, counts := counts }

/-- R114, R262, R265: the command begins; an error or an uncorrectable word of what it reads ends it, and the group
hears of it. -/
def Dev.collStart (d : Dev) (nv : NonVol) (f : Nat) (x : Flight) (c : Coll) (mf : MemFault) (reads : List (Nat × Nat)) : Dev :=
  match KV.find d.groups x.groupKey with
  | none => d.finish f .badParam 0 0
  | some g =>
    let z := d.memFault nv f mf
    match z.2.orElse (fun _ => reads.findSome? (fun r => d.poisoned r.1 r.2)) with
    | some a => (z.1.collEnter f x.groupKey g c).finishMem f a
    | none =>
      (z.1.updFlight f (fun x => { x with flags := setFlagIf c.det x.flags fDeterministic, countA := c.elems % 2 ^ 32 })).collBegin f x.groupKey g c

def execCollRun (f : Nat) (mf : MemFault) (s : State) : Res := onDevR s fun nv _ d => d.onFlight f 0x51 fun x =>
  if KV.has d.colls f then d
  else
    let c := x.coll false []
    if c.elems = 0 ∧ c.op ≠ 7 then d.finish f .empty 0 0
    else
      let g := KV.getD d.groups x.groupKey { paddock := 0, handle := 0, members := [], own := 0, switch := 0, digest := 0, inst := 0 }
      d.collStart nv f x c mf [(c.src, if c.op = 7 ∨ (c.op = 3 ∧ g.own ≠ 0) then 0 else collBytes c.format (if c.op = 6 then g.members.length * c.elems else c.elems))]

/-- R270: entries of the counts table. -/
def countEntries (op n : Nat) : Nat := if op = 6 then 2 * n else n

def checkCollRunv (d : Dev) (p : Paddock) (x : Flight) : List (Bool × Status) :=
  let op := x.collOp
  match KV.find d.groups x.groupKey with
  | none => [(true, .badParam)]
  | some g => [(!d.hbmOk p (x.d 11) (8 * countEntries op g.members.length), .notInPaddock),
    (!([4, 5, 6].contains op) || collFmtBad op x.collFmt (x.d 8) || 2 ^ 36 < x.d 8, .badParam)]

/-- R270: an uncorrectable counts table ends the command as an uncorrectable source does. -/
def Dev.collRunv (d : Dev) (nv : NonVol) (p : Paddock) (f : Nat) (x : Flight) (mf : MemFault) : Dev :=
  match KV.find d.groups x.groupKey with
  | none => d.finish f .badParam 0 0
  | some g =>
    let n := g.members.length
    let op := x.collOp
    let k := countEntries op n
    if (d.poisoned (x.d 11) (8 * k)).isSome then d.collStart nv f x (x.coll true []) mf [(x.d 11, 8 * k)]
    else
      let cs := (List.range k).map (fun i => d.hbm.readLE (x.d 11 + 8 * i) 8)
      let tot := (cs.take n).sum
      let a := collBytes x.collFmt (if op = 4 then cs.getD g.own 0 else tot)
      let b := collBytes x.collFmt (if op = 6 then (cs.drop n).sum else tot)
      if tot ≠ x.d 8 ∨ d.collRangesBad p (x.d 4) a (x.d 6) b = true then d.finish f .badParam 0 0
      else d.collStart nv f x (x.coll true cs) mf [(x.d 4, a)]

def execCollRunv (f : Nat) (mf : MemFault) (s : State) : Res := onDevR s fun nv _ d => d.onFlight f 0x52 fun x =>
  if KV.has d.colls f then d
  else match d.pad x.paddock with
    | none => d.finish f .notInPaddock 0 0
    | some p => d.collRunv nv p f x mf

/-! ### The guard gather (R119) -/

/-- A group's collectives run one at a time. -/
def Dev.groupFree (d : Dev) (gk : Nat) : Bool := !d.colls.any (fun e => e.2.group == gk)

/-- The gathered vectors are here and every packet of the run is answered: the pass is evaluated. -/
def Dev.gatherEnd (d : Dev) (f : Nat) : Dev :=
  d.withColl f fun g c =>
    if !c.guardRun || !c.complete g || d.owes f then d
    else match KV.find d.runs f with
      | none => d
      | some r => Dev.endPass { d with colls := KV.del d.colls f } f (fun i => KV.getD r.gathered i [])

/-- At the end of a pass with a guard group; false when the group is busy. -/
def Dev.gatherStart (d : Dev) (f gk layers step : Nat) : Option Dev :=
  match KV.find d.groups gk with
  | none => some (d.failFlight f .groupMismatch)
  | some g =>
    if !d.groupFree gk then none
    else some (((d.updRun f (fun r => { r with gathering := true, gathered := [] })).collBegin f gk g
      { Coll.blank with guardRun := true, elems := layers, step := step }).gatherEnd f)

/-! ### Collective packets received (R261, R262) -/

/-- The command that runs the instance a packet names. -/
def Dev.collOf (d : Dev) (p : Pkt) : Option Nat :=
  (d.colls.find? (fun e => e.2.group == padKey p.paddock p.desc && e.2.inst == p.tag &&
    (KV.find d.flights e.1).elim false (fun x => x.phase == .running || x.phase == .moving))).map (·.1)

def pktPhase (p : Pkt) : Nat := fld p.offset 60 4
def pktTree (p : Pkt) : Bool := bitOf p.offset 59
def pktMember (p : Pkt) : Nat := fld p.offset 48 11
def pktOff (p : Pkt) : Nat := fld p.offset 0 48
/-- R272: SRC = DST marks a packet of the switch. -/
def pktFromSwitch (p : Pkt) : Bool := p.src == p.dst

/-- UP: a child's header or part. -/
def Dev.collTakeUp (d : Dev) (id : Nat) (p : Pkt) : Dev :=
  d.withColl id fun g c =>
    let n := g.members.length
    let k := treeKey (pktTree p) (pktMember p)
    let off := (pktOff p)
    let add := fun (d : Dev) (bs : List Byte) => if c.op = 4 ∧ bs.isEmpty then d else d.updColl id (fun c => { c with ups := c.ups ++ [(k, off, bs)] })
    let opens := if c.round g then !(pktTree p) && !KV.has c.hdrs k
      else !KV.has c.hdrs k && off == (if c.op = 4 then c.partBase (pktTree p) n (pktMember p) else 0)
    if !(childrenOf (pktTree p) n g.own).contains (pktMember p) then d
    else if opens then
      let d := d.updColl id (fun c => { c with hdrs := KV.put c.hdrs k (hdrWords p.payload) })
      if c.round g then d else add d (p.payload.drop 32)
    else add d p.payload

/-- DOWN: the decision of a header round, a first packet with its header, or data. -/
def Dev.collTakeDown (d : Dev) (id : Nat) (p : Pkt) : Dev :=
  d.withColl id fun g c =>
    let h := hdrWords p.payload
    if c.round g then
      (if !(pktTree p) && c.decision.isNone then d.collDecision id h else d.collDown id (pktTree p) (pktOff p) [] p.payload)
    else if !c.decided.contains (b2n (pktTree p)) && (pktOff p) == 0 then
      (if bitOf (h.getD 7 0) 0 then d.collDown id (pktTree p) 0 (p.payload.take 32) (p.payload.drop 32) else d.collMismatch id (pktTree p) h)
    else d.collDown id (pktTree p) (pktOff p) [] p.payload

/-- DIRECT: part of a member's segment. Before the own decision it waits: an identical source is still to be sent. -/
def Dev.collTakeDirect (d : Dev) (id : Nat) (p : Pkt) : Dev :=
  d.withColl id fun g c =>
    let d := if c.decision.isSome then d.writeDirect g c (pktMember p) (pktOff p) p.payload
      else d.updColl id (fun c => { c with early := c.early ++ [(pktMember p, pktOff p, p.payload)] })
    d.updColl id (fun c => { c with directs := KV.put c.directs (pktMember p) (KV.getD c.directs (pktMember p) 0 + p.payload.length) })

/-- COUNTS (R270): a count that differs from the own table's makes this member disagree. -/
def Dev.collTakeCount (d : Dev) (id : Nat) (p : Pkt) : Dev :=
  d.withColl id fun g c =>
    let want := c.counts.getD (if c.op = 6 then g.members.length + (pktMember p) else (pktMember p)) 0
    if c.countsSeen.contains (pktMember p) then d
    else d.updColl id (fun c => { c with countsSeen := (pktMember p) :: c.countsSeen,
                                         disagree := if leAt p.payload 0 8 = want then c.disagree else 1 })

/-- An accepted UP, DOWN, DIRECT or COUNTS packet. -/
def Dev.collTake (d : Dev) (id : Nat) (p : Pkt) : Dev :=
  let d := if pktPhase p = phUp then d.collTakeUp id p else if pktPhase p = phDown then d.collTakeDown id p
    else if pktPhase p = phDirect then d.collTakeDirect id p else if pktPhase p = phCounts then d.collTakeCount id p else d
  (d.collProgress id).gatherEnd id

/-! ### Switch slots (R272) -/

/-- The slot results are discarded and the reduction runs again on the trees, from element 0. -/
def Dev.slotFall (d : Dev) (id : Nat) : Dev :=
  let d := (KV.find d.colls id).elim d (fun c => c.slotUndo.foldl (fun d u => d.hbmWrite (c.dst + u.1) u.2) d)
  let d := d.updColl id (fun c => { c with onSlot := false, fellBack := true, slotLast := none, slotDone := 0, slotUndo := [] })
  (d.updFlight id (fun x => if x.phase = .moving then { x with phase := .running } else x)).collProgress id

/-- A SLOT_RESULT payload is written to the destination as received. -/
def Dev.slotWrite (d : Dev) (id : Nat) (p : Pkt) : Dev :=
  d.withColl id fun _ c =>
    let room := c.elems * (c.width / 8) - (pktOff p)
    let bs := p.payload.take room
    let old := d.hbm.reads (c.dst + pktOff p) bs.length
    ((d.hbmWrite (c.dst + (pktOff p)) bs).updColl id (fun c => { c with slotUndo := (pktOff p, old) :: c.slotUndo, slotLast := some d.now, slotDone := c.slotDone + bs.length })).collDone id

def execSlotReplyTimeout (f dt : Nat) (s : State) : Res := onDev s fun d =>
  let d := d.advance dt
  match KV.find d.colls f with
  | none => d
  | some c => match c.slotAskedAt with
    | none => d
    | some t => if d.elapsed t 20000 then (d.collSlotAnswer f 0).collProgress f else d

def execSlotResultGapTimeout (f dt : Nat) (s : State) : Res := onDev s fun d =>
  let d := d.advance dt
  d.withColl f fun g c =>
    match c.slotLast with
    | none => d
    | some t =>
      if c.onSlot && !c.complete g && d.elapsed t 100000 then (d.switchSend g c phSlotAbort 0 []).slotFall f else d

/-! ### GROUP_DEFINE, GROUP_RELEASE (R263, R264) -/

def checkGroupDefine (d : Dev) (p : Paddock) (x : Flight) : List (Bool × Status) :=
  [(!d.hbmOk p (x.d 4) 16, .notInPaddock), (!aligned (x.d 4) 8, .badParam), (4095 < fld (x.w 2) 0 16, .badParam)]

/-- Byte `a` of a coordinate word. -/
def coordAx (w a : Nat) : Nat := fld w (8 * a) 8
/-- Coordinates of point k of a block. -/
def pointAt (lo span : Nat) (k : Nat) : List Nat :=
  List.zipWith (· + ·) ((List.range 4).map (coordAx lo)) (coordsIn ((List.range 4).map (fun a => coordAx span a + 1)) k)
def blockPoints (span : Nat) : Nat := (List.range 4).foldl (fun n a => n * (coordAx span a + 1)) 1

/-- R263: the members, with axis 0 fastest: points that share the own coordinates outside the mask. -/
def groupMembers (lo span mask coord : Nat) (ids : List Nat) : List Nat :=
  (ids.zipIdx.filter (fun e => e.1 != 0xFFFF &&
    (List.range 4).all (fun a => bitOf mask a || (pointAt lo span e.2).getD a 0 == coordAx coord a))).map (·.1)
/-- The device at the own point. -/
def ownEntry (lo span coord : Nat) (ids : List Nat) : Option Nat :=
  (ids.zipIdx.find? (fun e => (List.range 4).all (fun a => (pointAt lo span e.2).getD a 0 == coordAx coord a))).map (·.1)

def hasRepeat : List Nat → Bool
  | [] => false
  | a :: t => t.contains a || hasRepeat t

/-- R264. -/
def groupDigest (members : List Nat) (switch : Nat) : Nat := crc32c ((members ++ [switch]).flatMap (bytesLE 2))

def Dev.groupDefine (d : Dev) (p : Paddock) (f : Nat) (x : Flight) : Dev :=
  let a := x.d 4
  let lo := d.hbm.readLE a 4
  let span := d.hbm.readLE (a + 4) 4
  let w2 := d.hbm.readLE (a + 8) 4
  let n := blockPoints span
  let sw := fld w2 0 16
  match d.route with
  | none => d.finish f .badParam 0 0
  | some r =>
    if KV.has d.groups x.groupKey || 256 ≤ (KV.keep d.groups (fun _ g => g.paddock == x.paddock)).length || 65536 < n ||
        fld w2 16 16 != 0 || d.hbm.readLE (a + 12) 4 != 0 || sw < 0x0800 then d.finish f .badParam 0 0
    else if !d.hbmOk p a (16 + 2 * n) then d.finish f .notInPaddock 0 0
    else match d.poisoned a (16 + 2 * n) with
      | some w => d.finishMem f w
      | none =>
        let ids := (List.range n).map (fun i => d.hbm.readLE (a + 16 + 2 * i) 2)
        let ms := groupMembers lo span (fld (x.w 3) 0 4) r.coord ids
        if ownEntry lo span r.coord ids ≠ some r.self ∨ hasRepeat ms = true ∨ ids.any (fun i => 0x07FF < i && i != 0xFFFF) = true then
          d.finish f .badParam 0 0
        else
          let own := ms.findIdx (· == r.self)
          Dev.finish { d with groups := KV.put d.groups x.groupKey { paddock := x.paddock, handle := fld (x.w 2) 0 16, members := ms, own := own, switch := sw, digest := groupDigest ms sw, inst := 0 } } f .ok ms.length own

def execGroupDefine (f : Nat) (s : State) : Res := onDev s fun d => d.onFlight f 0x50 fun x =>
  match d.pad x.paddock with
  | none => d.finish f .notInPaddock 0 0
  | some p => match d.poisoned (x.d 4) 16 with
    | some w => d.finishMem f w
    | none => d.groupDefine p f x

def checkGroup (d : Dev) (x : Flight) : List (Bool × Status) := [(!KV.has d.groups x.groupKey, .badParam)]

def execGroupRelease (f : Nat) (s : State) : Res := onDev s fun d => d.onFlight f 0x53 fun x =>
  if !KV.has d.groups x.groupKey then d.finish f .badParam 0 0
  else if !d.groupFree x.groupKey then d
  else Dev.finish { d with groups := KV.del d.groups x.groupKey } f .ok 0 0

end Sys2Proof.Machine
end

