-- ==== Sys2Proof/Machine/LayerTab.lean ====
section
/-! DEFINITION. The layer table as PLAN_RUN reads, checks and installs it (R115, R116, R216 to R218; Tables 6.1, 6.2, 11.3, 11.4). -/
namespace Sys2Proof.Machine
open Sys2Proof

/-- R217: bytes of a table of n layers. -/
def tableBytes (n : Nat) : Nat := 16 + 32 * n + 32 + 48 * n

/-- Layer i of a table of n layers. -/
def readLayer (bs : List Byte) (n i : Nat) : Layer :=
  let w := fun j => w32 bs (16 + 32 * i + 4 * j)
  let v := fun j => w32 bs (48 + 32 * n + 48 * i + 4 * j)
  { firstStep := fld (w 0) 0 16, stepCount := fld (w 0) 16 16, guarded := bitOf (w 1) 31, normDesc := fld (w 1) 0 12,
    widenFirst := fld (w 2) 0 12, widenCount := fld (w 2) 16 8, twinOffset := fld (w 3) 0 12, state := 0, fresh := false, clean := 0, cause := 0,
    severity := 0, norm := 0, hasNorm := false, changed := false, narrowBuf := fld (v 0) 0 12, wideBuf := fld (v 0) 16 12,
    residDesc := fld (v 1) 16 12, carryDesc := fld (v 1) 0 12, narrowSrc := fld (v 2) 0 2, wideSrc := fld (v 2) 2 2, narrowBlocks := v 3,
    wideBlocks := v 8, narrowAddr := v 4 + 2 ^ 32 * v 5, wideAddr := v 6 + 2 ^ 32 * v 7 }

def readTable (addr : Nat) (bs : List Byte) (n : Nat) : LayerTable :=
  let h := 16 + 32 * n
  { addr := addr, group := fld (w32 bs 0) 0 16, layers := (List.range n).map (readLayer bs n), windowBase := leAt bs h 8,
    windowMib := w32 bs (h + 8), lateLimit := fld (w32 bs (h + 12)) 0 16 }

/-! ### The guard part (R116) -/

def LayerTable.disjoint : List Layer → Bool
  | [] => true
  | l :: t => t.all (fun m => l.firstStep + l.stepCount ≤ m.firstStep || m.firstStep + m.stepCount ≤ l.firstStep) && LayerTable.disjoint t

/-- R116: the twin of a widened descriptor. -/
def PlanImg.twinOk (im : PlanImg) (d off : Nat) : Bool :=
  match im.desc? d, im.desc? (d + off) with
  | some x, some y => [0x20, 0x21, 0x22].contains y.format && x.ext == y.ext && x.rank == y.rank && x.layout == y.layout
  | _, _ => false

/-- The guard checks. A WIDEN_COUNT above 64 is refused too, since Table 6.2 gives 1 to 64; WIDEN_FIRST is not judged
where WIDEN_COUNT is 0 (DESIGN CHOICE, log 66: R116 lists neither). -/
def LayerTable.guardOk (t : LayerTable) (d : Dev) (pad : Nat) (im : PlanImg) : Bool :=
  1 ≤ t.layers.length && t.layers.length ≤ 4096 && LayerTable.disjoint t.layers &&
    t.layers.all (fun l => 1 ≤ l.stepCount && l.firstStep + l.stepCount ≤ im.steps && l.widenCount ≤ 64 && (!l.guarded || 1 ≤ l.widenCount) &&
      l.normDesc < im.descs.length && (rangeFrom l.widenFirst l.widenCount).all (fun i => im.twinOk i l.twinOffset)) &&
    (t.group == 0xFFFF || KV.has d.groups (padKey pad t.group))

/-! ### Descriptors that a step names -/

/-- The descriptor words of an instruction that name one. -/
def TI.named (t : TI) : List Nat :=
  let m := descWords t.cls
  ([(m.1, t.i1), (m.2.1, t.i2), (m.2.2, t.i3)].filter (fun e => e.1 && opDesc e.2 != 0xFFF)).map (fun e => opDesc e.2)
/-- With the block scales of each. -/
def PlanImg.withScales (im : PlanImg) (ds : List Nat) : List Nat :=
  ds.flatMap (fun d => d :: (im.desc? d).elim [] (fun x => if x.scales = 0xFFF then [] else [x.scales]))

/-- (step, descriptor) pairs of a shed's instructions in issue order. -/
def PlanImg.stepDescs (im : PlanImg) : List TI → Nat → List (Nat × Nat)
  | [], _ => []
  | t :: ts, s => if t.isStep then im.stepDescs ts (s + 1) else (im.withScales t.named).map (fun d => (s, d)) ++ im.stepDescs ts s
/-- Every use of a descriptor by the plan, at the planned maxima. -/
def PlanImg.uses (im : PlanImg) : List (Nat × Nat) :=
  (List.range im.sheds).flatMap (fun k => im.stepDescs (im.expand im.pmax k) 0)

/-! ### The stream part (R217, R218) -/

/-- R218: one copy of a layer: its buffer, source, blocks and address. -/
def LayerTable.copyOk (_t : LayerTable) (d : Dev) (p : Paddock) (pad : Nat) (im : PlanImg) (us : List (Nat × Nat)) (l : Layer)
    (c : Nat × Nat × Nat × Nat) : Bool :=
  let n := c.2.2.1 * 4096
  (if c.2.1 = 1 then c.2.2.2 + n ≤ hayTop && d.hayReadable pad c.2.2.2 n
   else if c.2.1 = 2 then inMap p.hostMap c.2.2.2 n
   else if c.2.1 = 3 then d.hbmOk p c.2.2.2 n else true) &&
  (c.1 == 0xFFF || (match im.bufs[c.1]? with
    | none => false
    | some b =>
      b.place == 2 &&
        us.all (fun u => (im.desc? u.2).elim true (fun x => x.paged || x.buffer != c.1 || (l.firstStep ≤ u.1 && u.1 < l.firstStep + l.stepCount))) &&
        (c.2.1 == 0 || b.size ≤ n)))

def Layer.copies (l : Layer) : List (Nat × Nat × Nat × Nat) :=
  [(l.narrowBuf, l.narrowSrc, l.narrowBlocks, l.narrowAddr), (l.wideBuf, l.wideSrc, l.wideBlocks, l.wideAddr)]
/-- Copies that the main stream may fetch. -/
def Layer.streams (l : Layer) : List (Nat × Nat × Nat × Nat) := l.copies.filter (fun c => c.2.1 == 1 || c.2.1 == 2)

/-- R218: carry-over descriptors agree. -/
def PlanImg.carryOk (im : PlanImg) (l : Layer) : Bool :=
  l.carryDesc == 0xFFF || (match im.desc? l.carryDesc, im.desc? l.residDesc with
    | some x, some y => x.rank == y.rank && x.ext == y.ext
    | _, _ => false)

/-- R218, R225: a range reaches the carry-over cache of a loaded plan. -/
def Dev.carryHits (d : Dev) (a n : Nat) : Bool :=
  d.plans.vals.any (fun q => match q.carryAddr, q.table with
    | some b, some t => overlaps a n b (t.layers.length * (d.planImg q).carryEntry t)
    | _, _ => false)

/-- R218: the window. -/
def LayerTable.windowOk (t : LayerTable) (d : Dev) (p : Paddock) (pad : Nat) : Bool :=
  let cs := t.layers.flatMap Layer.streams
  let n := t.windowMib * 2 ^ 20
  if t.windowBase = 0 then cs.isEmpty
  else aligned t.windowBase mib2 && t.windowMib % 2 == 0 && d.hbmOk p t.windowBase n && !d.listHits pad t.windowBase n && !d.carryHits t.windowBase n &&
    cs.all (fun c => roundUp (c.2.2.1 * 4096) mib2 ≤ n)

def LayerTable.streamOk (t : LayerTable) (d : Dev) (p : Paddock) (pad : Nat) (im : PlanImg) : Bool :=
  let us := im.uses
  t.lateLimit ≤ 10000 && t.windowOk d p pad &&
    t.layers.all (fun l => (!l.guarded || l.wideSrc != 0) && im.carryOk l && l.copies.all (t.copyOk d p pad im us l))

/-- R216 to R218: the table at an address, when it may be installed. -/
def Dev.tableAt (d : Dev) (p : Paddock) (pad : Nat) (im : PlanImg) (addr : Nat) : Option LayerTable :=
  if !aligned addr 256 || !d.hbmOk p addr 16 then none
  else
    let n := fld (d.hbm.readLE addr 4) 16 16
    if n = 0 ∨ 4096 < n ∨ !d.hbmOk p addr (tableBytes n) then none
    else
      let bs := d.hbm.reads addr (tableBytes n)
      let t := readTable addr bs n
      if t.guardOk d pad im && t.streamOk d p pad im then some t else none

/-- R216: installation: the private copy is taken, and W4 to W7 of the records are cleared. -/
def Dev.installTable (d : Dev) (pk : Nat) (t : LayerTable) : Dev :=
  (List.range t.layers.length).foldl (fun d i => d.hbmWrite (t.addr + 32 + 32 * i) (List.replicate 16 0))
    (d.updPlan pk (fun p => { p with table := some t, running := 0, window := [], failed := [] }))

end Sys2Proof.Machine
end

