-- ==== Sys2Proof/Machine/RunCheck.lean ====
section
/-! DEFINITION. What the E9 checks of a PLAN_RUN when it fetches it, and the record it keeps of the run (R38, R65, R69 to R71, R86, R92, R104, R154, R162, R167, R176, R216). -/
namespace Sys2Proof.Machine
open Sys2Proof

/-! ### What the command names -/

/-- PLAN_RUN W12 and W13. -/
def Flight.runSeqs (x : Flight) : List Nat := [fld (x.w 12) 0 16, fld (x.w 12) 16 16, fld (x.w 13) 0 16, fld (x.w 13) 16 16]
/-- R65: the paddock's sheds in service, lowest first. -/
def Paddock.serving (p : Paddock) (nv : NonVol) : List Nat := (shedsOf p.shedMask).filter nv.inService

/-- External buffers with their indices (Table 4.2). -/
def PlanImg.extBufs (im : PlanImg) : List (Nat × Buf) := (im.bufs.zipIdx.map (fun e => (e.2, e.1))).filter (fun e => e.2.place == 2)
/-- R216: bytes of the argument block that the plan's buffers reach. -/
def PlanImg.argBytes (im : PlanImg) : Nat := 64 + (im.extBufs.map (fun e => 8 * (e.2.off + 1))).foldl max 0
/-- Descriptors of a buffer. -/
def PlanImg.ofBuf (im : PlanImg) (b : Nat) : List Desc := im.descs.filter (fun x => !x.paged && x.buffer == b)
def PlanImg.peerOnly (im : PlanImg) (b : Nat) : Bool := !(im.ofBuf b).isEmpty && (im.ofBuf b).all (·.peer)

/-- R72: the first timing bucket whose bound is at least the bound value of its parameter. -/
def PlanImg.bucketOf (im : PlanImg) (pv : Nat → Nat) : Option Nat :=
  (List.range im.buckets.length).find? (fun i => (im.buckets[i]?).elim false (fun b => pv im.bucketParam ≤ b.1))

/-- The record of a run as its checks read it (R69, R216). -/
def Dev.runRecord (d : Dev) (x : Flight) (im : PlanImg) : Run :=
  let es := (List.range im.params.length).map (fun i => (d.hbm.readLE (x.d 7 + 8 * i) 4, d.hbm.readLE (x.d 7 + 8 * i + 4) 4))
  { started := false, stepOn := false,
    slots := im.extBufs.foldl (fun t e => KV.put t e.2.off (d.hbm.readLE (x.d 10 + 64 + 8 * e.2.off) 8)) [],
    plan := x.planKey, paddock := x.paddock, stepBase := fld (x.w 6) 0 24, step := 0, steps := im.steps,
    bind := (List.range im.params.length).map (fun i => ((es.find? (fun e => fld e.1 0 6 == i)).map (·.2)).getD 0),
    args := x.d 10, modes := fld (x.w 3) 0 7, seed := x.d 4, tag := x.tag, seqs := x.runSeqs, sheds := [], tiles := 0, wideLayers := 0,
    carried := [], bucket := im.bucketOf (fun i => ((es.find? (fun e => fld e.1 0 6 == i)).map (·.2)).getD 0), layerCarry := none,
    layerEntry := none, counts := [], stepCounts := [], lists := [], signals := [], pins := [], stall := none, suspended := false, preempt := false,
    gathering := false, gathered := [], pageWait := [], wrote := [] }

/-- R69: every parameter appears exactly once. -/
def Dev.bindOk (d : Dev) (x : Flight) (im : PlanImg) : Bool :=
  let n := im.params.length
  let ws := (List.range n).map (fun i => d.hbm.readLE (x.d 7 + 8 * i) 4)
  fld (x.w 9) 0 16 == n && ws.all (· < 64) && (List.range n).all (fun i => (ws.filter (· == i)).length == 1)

/-! ### NOT_IN_PADDOCK (R38, R69, R216) -/

/-- A slot's buffer lies in the map of its space. -/
def Dev.slotOk (d : Dev) (p : Paddock) (r : Run) (b : Buf) : Bool :=
  let s := KV.getD r.slots b.off 0
  if fld s 62 2 = 0 then d.hbmOk p (fld s 0 62) b.size else if fld s 62 2 = 1 then inMap p.hostMap (fld s 0 62) b.size else true

def Dev.runNamed (d : Dev) (p : Paddock) (x : Flight) (r : Run) (im : PlanImg) : Bool :=
  (im.params.isEmpty || d.hbmOk p (x.d 7) (8 * im.params.length)) && d.hbmOk p (x.d 10) im.argBytes &&
    im.extBufs.all (fun e => im.peerOnly e.1 || d.slotOk p r e.2) && x.seqKeys.all (fun k => KV.has d.seqs k)

/-- The first poisoned byte of what the checks read (R213). -/
def Dev.runPoison (d : Dev) (x : Flight) (im : PlanImg) : Option Nat :=
  if d.poison.isEmpty then none
  else
    let t := d.hbm.readLE (x.d 10) 8
    ([(x.d 7, 8 * im.params.length), (x.d 10, im.argBytes), (t, if t = 0 then 0 else tableBytes (fld (d.hbm.readLE t 4) 16 16))].filterMap
      (fun e => d.poisoned e.1 e.2)).head?

/-! ### BAD_PARAM -/

/-- The instruction words of a plan shed that name a descriptor, with their place: 1 destination, 2, 3. -/
def TI.namedAt (t : TI) : List (Nat × Nat) :=
  let m := descWords t.cls
  ([(m.1, 1, t.i1), (m.2.1, 2, t.i2), (m.2.2, 3, t.i3)].filter (fun e => e.1 && opDesc e.2.2 != 0xFFF)).map (fun e => (e.2.1, opDesc e.2.2))

/-- R216: a host buffer is only the source of a TLOAD or the destination of a TSTORE. -/
def PlanImg.hostUseOk (im : PlanImg) (r : Run) : Bool :=
  let isHost := fun (d : Nat) => (im.desc? d).elim false (fun x => !x.paged && !x.peer &&
    (im.bufs[x.buffer]?).elim false (fun b => b.place == 2 && fld (KV.getD r.slots b.off 0) 62 2 == 1))
  (List.range im.sheds).all (fun k => (im.instrs k).all (fun t => t.namedAt.all (fun e =>
    (t.cls == cLoad && e.1 == 2) || (t.cls == cStore && e.1 == 1) || (im.withScales [e.2]).all (fun d => !isHost d))))

/-- R216: slot spaces, and those of descriptors with PEER. -/
def PlanImg.slotSpacesOk (im : PlanImg) (r : Run) : Bool :=
  im.extBufs.all (fun e =>
    let s := fld (KV.getD r.slots e.2.off 0) 62 2
    s ≤ 1 && (s == 0 || (im.ofBuf e.1).all (fun x => !x.peer)))

/-- Every paged descriptor that an instruction names. -/
def PlanImg.pagedNamed (im : PlanImg) : List Desc :=
  ((List.range im.sheds).flatMap (fun k => (im.instrs k).flatMap (fun t => t.named))).eraseDups.filterMap
    (fun i => (im.desc? i).bind (fun x => if x.paged then some x else none))

/-- R154: a paged descriptor agrees with the sequence it reaches. -/
def Dev.pagedRunOk (d : Dev) (r : Run) (x : Desc) : Bool :=
  let h := r.seqs.getD (x.buffer % 4) 0xFFFF
  h != 0xFFFF && (match KV.find d.seqs (padKey r.paddock h) with
    | none => false
    | some q =>
      let hb := d.hdr q
      x.format == hFmt hb && fmtBytes x.fmt.bits (x.extent r.pv 0) == hRow hb && fld x.offset 16 8 < q.groups && fld x.offset 0 12 < q.layers)

/-- R83: the run reaches an instruction. -/
def PlanImg.reached (im : PlanImg) (pv : Nat → Nat) (k i : Nat) : Bool :=
  ((im.shedSegs k).filter (fun s => s.holds i)).all (fun s => s.trips pv != 0)

/-- R176: the convolution records that the run reaches fit the bound extents. -/
def PlanImg.convRunOk (im : PlanImg) (pv : Nat → Nat) (c : Conv) : Bool :=
  match im.desc? c.inDesc, im.desc? c.outDesc, im.desc? c.imageDesc with
  | some x, some y, some img =>
    (List.range 3).all (fun a => (c.axis a).outExt (c.kind == 3) (img.extent pv (a + 1)) == y.extent pv (a + 1)) &&
      (if c.kind = 0 then (im.desc? c.filtDesc).elim false (fun g => x.extent pv 0 == g.extent pv 0 && y.extent pv 0 == g.extent pv 4)
       else x.extent pv 0 == y.extent pv 0) &&
      x.extent pv 4 == y.extent pv 4
  | _, _, _ => false

def PlanImg.convsRunOk (im : PlanImg) (pv : Nat → Nat) : Bool :=
  (List.range im.sheds).all (fun k => ((im.instrs k).zipIdx).all (fun e =>
    !(e.1.cls == cConv || e.1.cls == cFft) || !im.reached pv k e.2 || (im.convs[e.1.param]?).elim true (im.convRunOk pv)))

/-- R47: an unload of the handle was fetched before command `f`. -/
def Dev.unloading (d : Dev) (f pk : Nat) : Bool :=
  d.flights.any (fun e => e.1 < f && e.2.opcode == 0x13 && e.2.planKey == pk && e.2.phase != .finished)

/-- R116, R216, R218: the table that the run uses: none where there is an error; else the one to install,
if any. -/
def Dev.runTable (d : Dev) (p : Paddock) (x : Flight) (q : Plan) (im : PlanImg) : Option (Option LayerTable) :=
  let a := d.hbm.readLE (x.d 10) 8
  let guard := bitOf (x.w 3) mGuard
  match q.table with
  | some t => if (a = 0 ∨ a = t.addr) ∧ (!guard || t.guardOk d x.paddock im) = true then some none else none
  | none =>
    if a = 0 then (if guard then none else some none)
    else (d.tableAt p x.paddock im a).map some

def Dev.runParamsOk (d : Dev) (nv : NonVol) (p : Paddock) (f : Nat) (x : Flight) (q : Plan) (r : Run) (im : PlanImg) : Bool :=
  x.reservedOk && (!x.fenceOk || x.fence) && !d.unloading f x.planKey && im.sheds ≤ (p.serving nv).length &&
    (im.params.isEmpty || aligned (x.d 7) 8) && aligned (x.d 10) 8 &&
    im.slotSpacesOk r && im.hostUseOk r && d.bindOk x im && (d.runTable p x q im).isSome && im.pagedNamed.all (d.pagedRunOk r) && im.convsRunOk r.pv

/-! ### MODE_REFUSED (R92, R104, R167) -/

def Dev.runModeOk (p : Paddock) (x : Flight) (im : PlanImg) : Bool :=
  let m := fun i => bitOf (x.w 3) i
  (if p.cls = .maintenance then !im.chain || m mChained else !m mChained && !im.chain) && (!m mExact || im.exactOk) &&
    (m mSpec || im.pagedNamed.all (fun y => y.branch == 0))

/-! ### Pointer lists (R85, R86) -/

/-- R85, R86: an operand's tile, moved by an offset, stays inside its buffer. 'Any part of a tile' is judged over the
positions inside the bound extents, the only ones that R88 reads or writes (DESIGN CHOICE, log 66). -/
def Env.offsetOk (e : Env) (o : Opnd) (off : Nat) : Bool :=
  let b := o.desc.fmt.bits
  let lim := if o.desc.paged then pageBytes else ((e.im.bufs[o.desc.buffer]?).elim 0 (·.size)) - o.desc.offset * 256
  off % 32 == 0 && o.cells.all (fun c => off + ceilDiv ((o.elem e.pm c + 1) * b) 8 ≤ lim)

/-- One entry under its template. -/
def Env.entryOk (e : Env) (t : TI) (w : List Nat) : Bool :=
  let u : TI := { t with ent := w }
  let has3 := t.i3 != noOperand
  let within := fun (lim : Option Nat) (n : Nat) => match lim with | none => true | some l => decide (l ≤ n)
  fld (w.getD 7 0) 16 16 == 0 && (has3 || u.entOff 3 == 0) && (t.cls == cMm || fld (w.getD 7 0) 0 16 == 0xFFFF) &&
    (match e.opnd u 1 with
      | some o => within u.cols (o.desc.tileExt 0) && within u.rows (o.desc.tileExt 1)
      | none => true) &&
    (t.cls != cMm || within u.klim (e.im.reduction t)) &&
    [1, 2, 3].all (fun j => (j == 3 && !has3) || (e.opnd t j).elim (u.entOff j % 32 == 0) (fun o => e.offsetOk o (u.entOff j)))

/-- A list that the run reaches passes. One that runs past the end of its buffer fails like an entry: the spec names no
check of the list's own room (DESIGN CHOICE, log 66). -/
def Env.listOk (e : Env) (d : Dev) (t : TI) (template : TI) : Bool :=
  let z := e.listBytes d t
  let room := match e.im.desc? (opDesc t.i2) with
    | none => false
    | some x => x.offset * 256 + opTile t.i2 * 131072 + 32 * batchCount t e.pv ≤ (e.im.bufs[x.buffer]?).elim 0 (·.size)
  room && (batchEntries z.2).all (e.entryOk template)

/-- The TBATCH instructions among those that issue, each with its step and its template. -/
def batchesIn : List (TI × Option TI) → Nat → List (Nat × TI × TI)
  | [], _ => []
  | (t, some u) :: ts, s => (s, t, u) :: batchesIn ts s
  | (t, none) :: ts, s => batchesIn ts (if t.isStep then s + 1 else s)
def PlanImg.batches (im : PlanImg) (pv : Nat → Nat) (k : Nat) : List (Nat × TI × TI) := batchesIn (im.issued pv k) 0

/-- A plan shed as the checks see it in step n, with the descriptors that stand in during that step's layer (R123). -/
def Dev.checkEnv (_d : Dev) (nv : NonVol) (p : Paddock) (f : Nat) (q : Plan) (r : Run) (im : PlanImg) (k n : Nat) : Env :=
  let s := (p.serving nv).getD k 0
  { im := im, f := f, r := { r with step := n }, p := q, k := k, x := ShedRun.start [] s (nv.logical s), c := 0 }

/-- R86: every list that the run reaches, with the CRC kept of each; none when one fails. -/
def Dev.runLists (d : Dev) (nv : NonVol) (p : Paddock) (f : Nat) (q : Plan) (r : Run) (im : PlanImg) : Option (KV Nat) :=
  (List.range im.sheds).foldl (fun acc k =>
    (im.batches r.pv k).foldl (fun (acc : Option (KV Nat)) b =>
      let e := d.checkEnv nv p f q r im k b.1
      acc.bind (fun t => if e.listOk d b.2.1 b.2.2 then some (KV.put t (listKey k b.2.1 (batchCount b.2.1 r.pv)) (crc32c (e.listBytes d b.2.1).2)) else none)) acc)
    (some [])

/-- A poisoned byte of a list. -/
def Dev.listPoison (d : Dev) (nv : NonVol) (p : Paddock) (f : Nat) (q : Plan) (r : Run) (im : PlanImg) : Option Nat :=
  if d.poison.isEmpty then none
  else ((List.range im.sheds).flatMap (fun k => (im.batches r.pv k).filterMap (fun b =>
    match ((d.checkEnv nv p f q r im k b.1).listBytes d b.2.1).1 with
    | .hbm a => d.poisoned a (32 * batchCount b.2.1 r.pv)
    | _ => none))).head?

/-! ### The whole check -/

def Run.zeroBound (r : Run) : Bool := r.bind.any (· == 0)
def Run.oversized (r : Run) (im : PlanImg) : Bool := r.bind.zipIdx.any (fun e => im.pmax e.2 < e.1)

/-- The flags that a run shows once it has passed its checks (R104, R114). -/
def Run.startFlags (r : Run) (fl : Nat) : Nat := setFlagIf (r.mode mDet) (setFlagIf (r.mode mExact) fl fExact) fDeterministic

/-- R38 for a PLAN_RUN that names a loaded plan: the status and, for an uncorrectable read, its address;
else the record of the run, and the table to install. -/
def Dev.admitRun (d : Dev) (nv : NonVol) (p : Paddock) (f : Nat) (x : Flight) (q : Plan) : (Status × Nat) ⊕ (Run × Option LayerTable) :=
  let im := d.planImg q
  let r := d.runRecord x im
  if !d.runNamed p x r im then .inl (.notInPaddock, 0)
  else match d.runPoison x im with
    | some a => .inl (.memUncorrectable, a)
    | none =>
      if !d.runParamsOk nv p f x q r im then .inl (.badParam, 0)
      else if !Dev.runModeOk p x im then .inl (.modeRefused, 0)
      else if r.oversized im then .inl (.shapeExceedsPlan, 0)
      else match (if r.zeroBound then none else d.listPoison nv p f q r im) with
        | some a => .inl (.memUncorrectable, a)
        | none =>
          match (if r.zeroBound then some [] else d.runLists nv p f q r im) with
          | none => .inl (.badParam, 0)
          | some ls =>
            if x.seqKeys.any (fun k => (KV.find d.seqs k).elim false (·.stale)) then .inl (.staleTable, 0)
            else if x.seqKeys.any (fun k => d.seqBusy k x.queue f) then .inl (.seqBusy, 0)
            else .inr ({ r with lists := ls }, (d.runTable p x q im).getD none)

/-- A PLAN_RUN at its fetch: refused with a status, or its record made, its table installed, its flags set,
and its sheds woken (R297). -/
def Dev.planRunAdmit (d : Dev) (nv : NonVol) (p : Paddock) (f : Nat) (x : Flight) : Dev × Option (Status × Nat) :=
  match d.plan? x with
  | none =>
    if !d.hbmOk p (x.d 10) 64 || !(x.seqKeys.all (fun k => KV.has d.seqs k)) then (d, some (.notInPaddock, 0)) else (d, some (.badParam, 0))
  | some q =>
    match d.admitRun nv p f x q with
    | .inl e => (d, some e)
    | .inr (r, t) =>
      let d := match t with
        | some t => d.installTable x.planKey t
        | none => d
      let d := { d with runs := KV.put d.runs f r }
      ((d.updFlight f (fun y => { y with flags := r.startFlags y.flags })).wakeSheds (p.serving nv) .run, none)

end Sys2Proof.Machine
end

