-- ==== Sys2Proof/Machine/PlanRun.lean ====
section
/-! DEFINITION. A run from its start to its end: PLAN_RUN, the start of a step with late weights and carry-over, and PLAN_STEP_END (R65 to R68, R71, R80, R81, R114, R117, R126, R128, R162, R219 to R226, R286). -/
namespace Sys2Proof.Machine
open Sys2Proof

/-! ### Pass order (R220) -/

/-- Layers in the order of their steps. -/
def LayerTable.order (t : LayerTable) : List Nat :=
  sortBy (fun i => (t.layers[i]?).elim 0 (·.firstStep)) (List.range t.layers.length)
def LayerTable.posOf (t : LayerTable) (i : Nat) : Nat := t.order.findIdx (· == i)

def Layer.isFirst (l : Layer) (s : Nat) : Bool := s == l.firstStep
def Layer.isLast (l : Layer) (s : Nat) : Bool := s + 1 == l.firstStep + l.stepCount

/-- R225: the CRC of a run's shape binding. -/
def Run.bindCrc (r : Run) : Nat := crc32c (wordsLE r.bind)

/-! ### Sequence tables at step boundaries (R162) -/

def Run.seqKeys (r : Run) : List Nat := (r.seqs.filter (· != 0xFFFF)).eraseDups.map (padKey r.paddock)

/-- The first named sequence whose list is not what the E9 keeps. -/
def Dev.badSeq (d : Dev) (r : Run) : Option Nat :=
  r.seqKeys.find? (fun k => match KV.find d.seqs k with
    | none => true
    | some q => q.stale || !d.listOk q)

/-! ### Late weights (R222, R224) -/

/-- R224: layer i's current copy is not wholly in the window. -/
def Plan.lateMain (p : Plan) (i : Nat) (l : Layer) : Bool :=
  l.streamed && !p.window.any (fun w => w.layer == i && w.wide == l.promoted && w.ready)

/-- Pinned entries: (stream, index, entry). -/
def Plan.pins (p : Plan) : List (Nat × Nat × PinEntry) := p.pinned.flatMap (fun e => e.2.zipIdx.map (fun x => (e.1, x.2, x.1)))
/-- R222: an entry that the step waits for has not been fetched. -/
def Plan.latePin (p : Plan) (r : Run) : Bool :=
  p.pins.any (fun e => e.2.2.needStep == r.step && e.2.2.needStep != 0xFFFF && !r.pins.contains (e.1, e.2.1))

/-- R226: carry-over answers the late weight of layer i. -/
def Plan.answers (p : Plan) (r : Run) (i : Nat) (l : Layer) : Bool :=
  p.carryOn.contains i && l.carryDesc != 0xFFF && p.carryAddr.isSome && !r.mode mDet && !r.mode mSpec && !l.fresh && l.isFirst r.step &&
    !p.failed.contains i &&
    (KV.find p.carry i).elim false (fun c => c.wide == l.promoted && c.crc == r.bindCrc && c.answers < 2)

/-! ### A step answered by carry-over (R226) -/

/-- The environment of plan shed k's core 0. -/
def Dev.envOf (d : Dev) (f k : Nat) (r : Run) (p : Plan) : Option Env :=
  (KV.find r.sheds k).map (fun x => { im := d.planImg p, f := f, r := r, p := p, k := k, x := x, c := 0 })

/-- Step 1: the entry is added into RESID_DESC itself: R123 swaps descriptors in instructions alone. Answers the address
of an uncorrectable word. -/
def Dev.carryAdd (d : Dev) (e : Env) (l : Layer) : Dev × Option Nat :=
  match e.im.desc? l.residDesc, e.im.desc? l.carryDesc with
  | some x, some y =>
    let o := { e.whole l.residDesc x 0 with di := l.residDesc }
    let c := e.whole l.carryDesc y 0
    match (o.poisoned d e.pm).orElse (fun _ => c.poisoned d e.pm) with
    | some a => (d, some a)
    | none =>
      let xs : List Elt := o.cells.map (fun p =>
        (p, (((o.val d e.pm p).times x.tensorScale).add ((c.val d e.pm p).times y.tensorScale)).times ((Q.nat 1).div x.tensorScale), false))
      let ys := e.encodeTile o xs
      let d := d.putElts e o ys
      (if ys.any (fun y => y.2.1.clamped) then d.updFlight e.f (fun f => { f with flags := setFlag f.flags fSaturated }) else d, none)
  | _, _ => (d, none)

/-- The instructions of step s of a plan shed under the binding. -/
def stepTis (s : Nat) : List TI → Nat → List TI
  | [], _ => []
  | t :: ts, n => if t.isStep then (if n = s then [] else stepTis s ts (n + 1)) else if n = s then t :: stepTis s ts n else stepTis s ts n
def PlanImg.stepOf (im : PlanImg) (r : Run) (k s : Nat) : List TI := stepTis s (im.expand r.pv k) 0

/-- Step 2: one TSIG, applied without waiting. -/
def Dev.carrySig (d : Dev) (e : Env) (t : TI) : Dev × Option Status :=
  if t.flag 2 then d.send (some e.f) 0 (signalPkt e t)
  else (d.updRun e.f (fun r => r.signal (fld t.i1 16 5) (fld t.i1 8 8) t.i2), none)

/-- The main pages that a layer's TSTOREs write: sequence slot, page layer, page index. -/
def PlanImg.layerPages (im : PlanImg) (r : Run) (l : Layer) : List (Nat × Nat × Nat) :=
  ((List.range im.sheds).flatMap (fun k => (rangeFrom l.firstStep l.stepCount).flatMap (fun s =>
    (im.stepOf r k s).filterMap (fun t => if t.cls = cStore then (im.desc? (opDesc t.i1)).bind (fun x =>
      if x.paged && x.branch == 0 then some (x.buffer % 4, x.layer, x.pageIdx) else none) else none)))).eraseDups

/-- Step 3: every main page of the layer, with this step's number. -/
def Dev.carryPages (d : Dev) (e : Env) (l : Layer) : Dev × Option Status :=
  (e.im.layerPages e.r l).foldl (fun (z : Dev × Option Status) g =>
    match KV.find z.1.seqs (padKey e.r.paddock (e.r.seqs.getD g.1 0xFFFF)) with
    | none => z
    | some q => (List.range q.maxBlocks).foldl (fun (z : Dev × Option Status) b =>
        if z.2.isSome then z else z.1.sendPage e.f 0 q b g.2.1 g.2.2 e.r.stepNo) z) (d, none)

/-- Step 4: a shed passes its marker without issuing, with fuel for the instructions of the step. -/
def skipStep (im : PlanImg) (pv : Nat → Nat) (k : Nat) : Nat → ShedRun → ShedRun
  | 0, x => x
  | n + 1, x =>
    if im.count k ≤ x.pc then x
    else
      let y := x.next (im.shedSegs k) pv
      if (x.cur im k).isStep then { y with markers := y.markers + 1 } else skipStep im pv k n y

/-! ### A step opens (R68, R81, R222) -/

/-- The pinned fetches of a run whose ISSUE_STEP starts, each with a host source's bytes as they stand (R215, R222). -/
def Plan.pinStarts (p : Plan) (d : Dev) (f step : Nat) : List PinFetch :=
  (p.pins.filter (fun e => e.2.2.issueStep == step)).map (fun e =>
    { run := f, stream := e.1, entry := e.2.1, pin := e.2.2,
      seen := if e.2.2.source = 2 then d.host.reads e.2.2.src (e.2.2.blocks * 4096) else [] })

/-- A step starts: held signals are applied, and its pinned fetches begin. -/
def Dev.openStep (d : Dev) (f : Nat) : Dev :=
  match KV.find d.runs f with
  | none => d
  | some r =>
    (d.updPlan r.plan (fun p => { p with fetches := p.fetches ++ p.pinStarts d f r.step })).updRun f (fun r =>
      r.signals.foldl (fun r s => r.signal s.1 s.2.1 s.2.2) { r with stepOn := true, stall := none, stepCounts := [], wrote := [], signals := [] })

/-- One step of a layer answered by carry-over. -/
def Dev.carryStep (d : Dev) (f : Nat) (p : Plan) (l : Layer) : Dev :=
  let d := d.openStep f
  match (KV.find d.runs f).bind (fun r => d.envOf f 0 r p) with
  | none => d
  | some e =>
    let r := e.r
    match d.carryAdd e l with
    | (d, some a) => d.finishMem f a
    | (d, none) =>
      let sigs := (List.range e.im.sheds).flatMap (fun k => (e.im.stepOf r k r.step).filter (fun t => t.cls == cSig))
      let z := sigs.foldl (fun (z : Dev × Option Status) t => if z.2.isSome then z else z.1.carrySig e t) (d, none)
      let z := if z.2.isSome then z else z.1.carryPages e l
      match z with
      | (d, some st) => d.failFlight f st
      | (d, none) => d.updRun f (fun r => { r with
          sheds := KV.mapV r.sheds (fun k x => skipStep e.im r.pv k ((e.im.expand r.pv k).length + 1) x) })

/-! ### Layers and steps (R162, R224 to R226, R231) -/

/-- The first step of layer i starts: the layer is the running one, the carry-over address in force is fixed for it, and
its entry is no longer valid; `entry` is the one that answers the layer, if carry-over does (R225). -/
def Dev.layerBegin (d : Dev) (f : Nat) (r : Run) (p : Plan) (i : Nat) (entry : Option CarryEntry) : Dev :=
  (d.updPlan r.plan (fun p => { p with running := (p.table.elim 0 (·.posOf i)), carry := KV.del p.carry i })).updRun f
    (fun r => { r with layerCarry := p.carryAddr, layerEntry := entry })

/-- Carry-over begins to answer layer i: its fetch stops and its bytes are released. -/
def Dev.carryBegin (d : Dev) (f : Nat) (r : Run) (p : Plan) (i : Nat) : Dev :=
  let d := d.layerBegin f r p i ((KV.find p.carry i).map (fun c => { c with answers := c.answers + 1 }))
  let d := d.updPlan r.plan (fun p => { p with window := p.window.filter (fun w => w.layer != i) })
  (d.updRun f (fun r => { r with carried := i :: r.carried })).updFlight f (fun x => { x with flags := setFlag x.flags fCarryover })

/-- The sheds issue. -/
def Dev.stepStart (d : Dev) (f : Nat) (r : Run) (p : Plan) (layer : Option (Nat × Layer)) : Dev :=
  let d := match layer with
    | some (i, l) => if l.isFirst r.step then d.layerBegin f r p i none else d
    | none => d
  (d.openStep f).pumpRun f

/-- R224: the step waits for a weight. -/
def Dev.stepStall (d : Dev) (f : Nat) : Dev :=
  d.updRun f (fun r => { r with stall := some (r.stall.getD d.now) })

/-- The current step of a run begins, stalls, is answered by carry-over, or ends the run. -/
def Dev.stepBegin (d : Dev) (f : Nat) : Dev :=
  match KV.find d.runs f with
  | none => d
  | some r =>
    match d.runPlan r, d.badSeq r with
    | none, _ => d
    | some _, some k => (d.markStale k).failFlight f .staleTable
    | some p, none =>
      let layer := p.layerAt r.step
      let late := layer.elim false (fun e => p.lateMain e.1 e.2)
      match layer with
      | some (i, l) =>
        if r.carried.contains i then (if p.latePin r then d.stepStall f else d.carryStep f p l)
        else if late && p.failed.contains i && l.isFirst r.step then d.failFlight f .hayloftReadFail
        else if p.latePin r then d.stepStall f
        else if late then
          (if p.answers r i l then
            let d := d.carryBegin f r p i
            d.carryStep f ((KV.find d.plans r.plan).getD p) l
          else d.stepStall f)
        else d.stepStart f r p layer
      | none => if p.latePin r then d.stepStall f else d.stepStart f r p none

/-- A stalled step of any run of a plan looks again. -/
def Dev.stepRetry (d : Dev) (pk : Nat) : Dev :=
  (KV.keep d.runs (fun _ r => r.plan == pk && r.started && !r.stepOn && r.stall.isSome && !r.suspended)).keys.foldl Dev.stepBegin d

/-! ### PLAN_RUN (R65 to R67, R71, R82) -/

/-- R166: the named sequences come back into the pool; false when pages run out. -/
def Dev.swapInAll (d : Dev) (f : Nat) (ks : List Nat) : Dev × Bool :=
  ks.foldl (fun (z : Dev × Bool) k =>
    if !z.2 then z
    else match KV.find z.1.seqs k with
      | none => z
      | some q => match z.1.swapIn f k q true with
        | some y => (y.1, true)
        | none => (z.1, false)) (d, true)

/-- R80, R82: accumulators, soft-maximum groups and ABSENT marks of sheds are as at the start of a run. -/
def Dev.freshSheds (d : Dev) (ss : List Nat) : Dev :=
  { d with acc := KV.keep d.acc (fun k _ => !ss.contains (k / 72)), soft := KV.keep d.soft (fun k _ => !ss.contains (k / 72)),
           absent := d.absent.filter (fun a => !ss.contains (a.1 / 72)) }

def Dev.runStart (d : Dev) (nv : NonVol) (p : Paddock) (f : Nat) (r : Run) (q : Plan) : Dev :=
  let im := d.planImg q
  let ss := (p.serving nv).take im.sheds
  if ss.length < im.sheds then d.finish f .badParam 0 0
  else match d.swapInAll f r.seqKeys with
    | (d, false) => d.finish f .pageExhausted 0 0
    | (d, true) =>
      let d := d.freshSheds ss
      let d := d.updPlan r.plan (fun q => { q with pinned := q.pinnedNext, running := 0 })
      let sheds : KV ShedRun := ss.zipIdx.map (fun e => (e.2, ShedRun.start (im.shedSegs e.2) e.1 (nv.logical e.1)))
      (d.updRun f (fun r => { r with started := true, step := 0, sheds := sheds })).stepBegin f

/-- R285, R286: the paddock is IN, no switch of its set is decided or under way, and the run is not suspended. -/
def Dev.mayRun (d : Dev) (p : Paddock) (r : Run) : Bool := p.isIn && !KV.has d.switches p.shedMask && !r.suspended

def execPlanRun (f : Nat) (s : State) : Res := onDevR s fun nv _ d => d.onFlight f 0x11 fun x =>
  match KV.find d.runs f with
  | none => d
  | some r =>
    if r.started then d
    else if r.zeroBound then (d.updFlight f (fun x => { x with gtcStart := d.gtc.val, startNow := d.now })).finish f .empty 0 0
    else match d.pad x.paddock, d.runPlan r with
      | some p, some q => if d.mayRun p r then d.runStart nv p f r q else d
      | _, _ => d.finish f .badParam 0 0

/-! ### PLAN_STEP_END (R68) -/

/-- R117: a layer's totals over destinations of 8 bits or fewer. -/
def Run.addCounts (r : Run) (im : PlanImg) (i : Nat) : Run :=
  let c := KV.getD r.counts i LayerCount.blank
  { r with counts := KV.put r.counts i (r.stepCounts.foldl (fun (c : LayerCount) e =>
      if (im.desc? e.1).elim false (fun x => x.fmt.bits ≤ 8) then
        { c with sat := c.sat + e.2.1, zero := c.zero + e.2.2.1, written := c.written + e.2.2.2 }
      else c) c) }

/-- A layer's first completed step at its precision clears FRESH (R128). -/
def Dev.clearFresh (d : Dev) (pk i : Nat) : Dev :=
  match (KV.find d.plans pk).bind (·.table) with
  | none => d
  | some t =>
    if (t.layers[i]?).elim false (·.fresh) then
      let t' : LayerTable := { t with layers := t.layers.modify i (fun l => { l with fresh := false }) }
      (d.updPlan pk (fun p => { p with table := some t' })).writeRecord t' i
    else d

/-- What the end of a step does to its layer: FRESH, COUNT_B, the totals of the guard, and at its last
step the window, the carry-over entry and the running layer (R117, R126, R128, R220, R225). -/
def Dev.layerStep (d : Dev) (f : Nat) (r : Run) (p : Plan) (i : Nat) (l : Layer) : Dev :=
  let n := p.table.elim 1 (·.layers.length)
  let next := (p.table.elim 0 (·.posOf i) + 1) % n
  let carried := r.carried.contains i
  let d := if carried then d
    else
      let im := d.planImg p
      (d.clearFresh r.plan i).updRun f (fun r =>
        let r := if l.promoted && l.isFirst r.step then { r with wideLayers := r.wideLayers + 1 } else r
        if r.mode mGuard then r.addCounts im i else r)
  if !l.isLast r.step then d
  else d.updPlan r.plan (fun p => { p with
    running := next,
    window := if carried then p.window else p.window.filter (fun w => w.layer != i),
    carry := if l.carryDesc == 0xFFF || r.layerCarry.isNone || r.layerCarry != p.carryAddr then p.carry
      else KV.put p.carry i (r.layerEntry.getD { wide := l.promoted, crc := r.bindCrc, answers := 0 }) })

/-- Every shed has passed its marker, its queues are empty, and the peers have answered. -/
def Dev.stepDone (d : Dev) (f : Nat) (r : Run) : Bool :=
  r.sheds.all (fun e => e.2.markers == r.step + 1 && e.2.drained && e.2.batch.isNone) && !d.owes f

/-- R286. -/
def Dev.coupled (d : Dev) (r : Run) (p : Plan) : Bool :=
  let im := d.planImg p
  (List.range im.sheds).any (fun k => (im.instrs k).any (fun t => t.cls == cSig && t.flag 2)) || im.descs.any (·.peer) ||
    r.seqKeys.any (fun k => (KV.find d.seqs k).elim false (fun q =>
      let h := d.hdr q
      hPeers h != 0 || hBefore h != 0 || hAfter h != 0)) ||
    (r.mode mGuard && (p.table.elim false (fun t => t.group != 0xFFFF)))

/-- The next step, unless the run is to leave the sheds here (R286). -/
def Dev.stepNext (d : Dev) (f : Nat) : Dev :=
  match KV.find d.runs f with
  | none => d
  | some r =>
    match d.runPlan r with
    | none => d
    | some p =>
      let d := d.updRun f (fun r => { r with step := r.step + 1, stepOn := false, suspended := r.preempt, preempt := false })
      if r.preempt then (if d.coupled r p then d.failFlight f .preempted else d) else d.stepBegin f

/-- The guard gather that ends the run, as (group key, layers): R119. -/
def Run.gather (r : Run) (p : Plan) : Option (Nat × Nat) :=
  if !r.mode mGuard then none
  else p.table.bind (fun t => if t.group = 0xFFFF then none else some (padKey r.paddock t.group, t.layers.length))

def Dev.stepEnd (d : Dev) (f : Nat) (r : Run) (p : Plan) : Dev :=
  let last := r.step + 1 == r.steps
  let gather := if last then r.gather p else none
  if (gather.elim false (fun g => KV.has d.groups g.1 && !d.groupFree g.1)) then d
  else match d.badSeq r with
    | some k => (d.markStale k).failStep f .staleTable
    | none =>
      let d := match p.layerAt r.step with
        | some (i, l) => d.layerStep f r p i l
        | none => d
      if !last then d.stepNext f
      else match gather with
        | none => d.endPassAlone f
        | some g => (d.gatherStart f g.1 g.2 r.stepNo).getD d

def execPlanStepEnd (f : Nat) (s : State) : Res := onDev s fun d => d.onFlight f 0x11 fun _ =>
  match KV.find d.runs f with
  | none => d
  | some r =>
    match d.runPlan r with
    | none => d
    | some p => if r.started && r.stepOn && !r.suspended && !r.gathering && d.stepDone f r then d.stepEnd f r p else d

end Sys2Proof.Machine
end

