-- ==== Sys2Proof/Machine/Packets.lean ====
section
/-! DEFINITION. Furrow packets received and resent: the checks of R247, what each kind does, and answers (R55, R81, R160, R246 to R248, R256, R261, R262, R272). -/
namespace Sys2Proof.Machine
open Sys2Proof

/-! ### The checks of R247 -/

/-- R247, check 2: the exception for a packet of a group's switch (R272). -/
def Dev.switchPkt (d : Dev) (p : Nat) (pkt : Pkt) : Bool :=
  pktFromSwitch pkt && pkt.kind == kCollective && [phSlotReply, phSlotResult, phSlotAbort].contains (pktPhase pkt) &&
    d.groups.vals.any (fun g => g.paddock == pkt.paddock && g.switch != 0xFFFF &&
      (d.port p).nb.elim false (fun nb => nb.node == g.switch))

/-- R247, check 2. -/
def Dev.addressed (d : Dev) (p : Nat) (pkt : Pkt) : Bool :=
  match d.route with
  | none => false
  | some r => 1 ≤ pkt.kind && pkt.kind ≤ 8 && pkt.dst == r.self &&
      (if pkt.src == r.self then d.switchPkt p pkt else KV.has r.dests pkt.src)

/-- R247, check 3. -/
def Port.vcOk (x : Port) (pkt : Pkt) : Bool :=
  ((pkt.vc == 2) == (pkt.paddock == 0xFFF)) && (x.state != .fenced || (pkt.vc == 2 && pkt.paddock == 0xFFF))

/-- R247, check 4. -/
def Dev.ingressOk (d : Dev) (p : Nat) (pkt : Pkt) : Bool :=
  d.route.elim false (fun r => r.permits (r.ingress.getD p 0) pkt.paddock)

/-- The HBM range that a packet's bytes occupy here: a READ_DATA's lies where its COPY stores it. -/
def Dev.pktRange (d : Dev) (pkt : Pkt) : Option (Nat × Nat) :=
  if pkt.kind = kWrite then some (pkt.offset, pkt.payload.length)
  else if pkt.kind = kReadReq then some (pkt.offset, pkt.length)
  else if pkt.kind = kReadData then
    match d.sent.find? (fun x => x.pkt.kind == kReadReq && x.pkt.dst == pkt.src && x.pkt.vc == pkt.vc && x.pkt.tag == pkt.tag &&
        x.pkt.offset == pkt.offset) with
    | none => none
    | some x => match x.flight.bind (KV.find d.flights) with
      | none => none
      | some f => if fld (f.w 8) 4 4 = 0 then some (f.d 4 + (pkt.offset - f.d 2), pkt.payload.length) else none
  else none

/-- R247, check 5. -/
def Dev.mapOk (d : Dev) (pkt : Pkt) : Bool :=
  match d.pktRange pkt with
  | none => true
  | some (a, n) => (d.pad pkt.paddock).elim false (fun q => inMap q.hbmMap a n)

/-- R248: a number that is not the one after the last is a gap. -/
def Dev.noteSeq (d : Dev) (p : Nat) (pkt : Pkt) : Dev :=
  if pkt.kind = kResponse then d
  else
    let k := pkt.src * 4 + pkt.vc
    let gap := match KV.find d.recvSeq k with
      | none => false
      | some n => pkt.seq != (n + 1) % 2 ^ 32
    Dev.updPort { d with recvSeq := KV.put d.recvSeq k pkt.seq } p (fun x => if gap then { x with seqGaps := bump x.seqGaps } else x)

/-- A packet of kind `kind` that a port carrying traffic receives ends REST (R300) and is discarded and counted at the first
check it fails (R247), or handled. A packet of another valid kind is another row's (log 2). -/
def Dev.onPacket (d : Dev) (p : Nat) (pkt : Pkt) (kind : Nat) (g : Dev → Dev) : Dev :=
  if 16 ≤ p ∨ !((d.port p).state == .up || (d.port p).state == .fenced) then d
  else if pkt.kind ≠ kind ∧ 1 ≤ pkt.kind ∧ pkt.kind ≤ 8 then d
  else if !pktCrcOk pkt then d.endRest.updPort p (fun x => { x with crcDrops := bump x.crcDrops })
  else if !d.addressed p pkt then d.endRest.updPort p (fun x => { x with misaddressed := bump x.misaddressed })
  else
    let d := d.endRest.noteSeq p pkt
    if !(d.port p).vcOk pkt then d.updPort p (fun x => { x with fenceVcDrops := bump x.fenceVcDrops })
    else if !d.ingressOk p pkt || !d.mapOk pkt then d.updPort p (fun x => { x with fenceDrops := bump x.fenceDrops })
    else g d

/-! ### WRITE, READ_REQ, READ_DATA -/

/-- R247: the bytes are visible, then the answer goes. -/
def execWritePacket (p : Nat) (pkt : Pkt) (s : State) : Res := onDev s fun d =>
  d.onPacket p pkt kWrite fun d => (d.hbmWrite pkt.offset pkt.payload).respond p pkt 0

/-- Table 11.8: a poisoned word delivers no data. -/
def execReadReqPacket (p : Nat) (pkt : Pkt) (s : State) : Res := onDev s fun d =>
  d.onPacket p pkt kReadReq fun d =>
    if (d.poisoned pkt.offset pkt.length).isSome then d
    else (d.sendQuiet none { pkt with kind := kReadData, dst := pkt.src, src := 0, payload := d.hbm.reads pkt.offset pkt.length }).1

/-- A delivered piece counts toward the bytes moved (Table 2.17). -/
def Flight.addBytes (x : Flight) (n : Nat) : Flight :=
  let t := x.countA + 2 ^ 32 * x.countB + n
  { x with countA := t % 2 ^ 32, countB := t / 2 ^ 32 % 2 ^ 32 }

/-- The destination of a COPY from a peer takes one piece. -/
def Dev.copyPiece (d : Dev) (id : Nat) (x : Flight) (off : Nat) (bs : List Byte) : Dev :=
  let a := x.d 4 + off
  match fld (x.w 8) 4 4 with
  | 2 => match d.send (some id) 0 (copyWrite x a bs) with
    | (d, none) => d
    | (d, some st) => d.failFlight id st
  | ds => (d.put (spaceOf ds) a bs).updFlight id (fun x => x.addBytes bs.length)

def execReadDataPacket (p : Nat) (pkt : Pkt) (s : State) : Res := onDev s fun d =>
  d.onPacket p pkt kReadData fun d =>
    let mine := fun (x : Sent) => x.pkt.kind == kReadReq && x.pkt.dst == pkt.src && x.pkt.vc == pkt.vc && x.pkt.tag == pkt.tag &&
      x.pkt.offset == pkt.offset
    match d.sent.find? mine with
    | none => d
    | some y =>
      let d := { d with sent := d.sent.filter (fun x => !mine x) }
      match y.flight with
      | none => d
      | some id => match KV.find d.flights id with
        | none => d
        | some x => d.copyPiece id x (pkt.offset - x.d 2) pkt.payload

/-! ### PAGE (R160) -/

/-- The staging slot index of a global block. -/
def stagingIndex (h : List Byte) (maxBlocks k : Nat) : Option Nat :=
  let b : Int := Int.ofNat k - Int.ofNat (hFirst h)
  if 0 ≤ b ∧ b < Int.ofNat maxBlocks then none
  else
    let before : Int := Int.ofNat (hBefore h)
    let i : Int := if b < 0 then before + b else before + (b - Int.ofNat maxBlocks)
    if i < 0 ∨ before + Int.ofNat (hAfter h) ≤ i then none else some i.toNat

/-- The run and the sequence that can take a page. -/
def Dev.pageTaker (d : Dev) (pkt : Pkt) : Option (Nat × Seq) :=
  let k := padKey pkt.paddock pkt.tag
  if d.runs.vals.any (fun r => r.started && r.paddock == pkt.paddock && r.seqs.contains pkt.tag && pkt.tag != 0xFFFF &&
      (pkt.step + 2 ^ 24 - r.stepNo) % 2 ^ 24 ≤ 1)
  then (KV.find d.seqs k).map (fun q => (k, q)) else none

/-- Bytes of a page arrived in a staging slot, by step and layer: a page is whole when all that its sender sends are
here, and a slot that takes bytes of another page holds no whole page (R19). -/
def Seq.arrive (q : Seq) (key tag n whole : Nat) : Seq :=
  let old := KV.getD q.parts key (tag, 0)
  let have' := (if old.1 = tag then old.2 else 0) + n
  if whole ≤ have' then { q with parts := KV.del q.parts key, arrivals := KV.put q.arrivals key tag }
  else { q with parts := KV.put q.parts key (tag, have'),
                arrivals := if KV.find q.arrivals key = some tag then q.arrivals else KV.del q.arrivals key }

def Dev.takePagePacket (d : Dev) (p : Nat) (pkt : Pkt) : Dev :=
  match d.pageTaker pkt with
  | none => d.respond p pkt 1
  | some (k, q) =>
    let h := d.hdr q
    let l := pkt.desc
    let pg := fld pkt.offset 26 6
    let off := fld pkt.offset 0 18
    let whole := usedBytes (hFmt h) (hRow h)
    match stagingIndex h q.maxBlocks (fld pkt.offset 32 32) with
    | none => d.respond p pkt 1
    | some i =>
      if q.layers ≤ l ∨ 2 * q.groups ≤ pg ∨ whole < off + pkt.payload.length then d.respond p pkt 1
      else
        let a := hRemote h + (((l % 2) * (hBefore h + hAfter h) + i) * 2 * q.groups + pg) * pageBytes
        ((d.hbmWrite (a + off) pkt.payload).updSeq k (fun q => q.arrive (arriveKey q i l pg) (arriveTag pkt.step l) pkt.payload.length whole)).respond p pkt 0

def execPagePacket (p : Nat) (pkt : Pkt) (s : State) : Res := onDev s fun d =>
  d.onPacket p pkt kPage fun d => d.takePagePacket p pkt

/-! ### SIGNAL (R81) -/

/-- Applied for the current step, held for the next one, discarded otherwise. -/
def Dev.takeSignal (d : Dev) (p : Nat) (pkt : Pkt) : Dev :=
  let k := fld pkt.offset 16 5
  let ctr := fld pkt.offset 8 8
  let inc := fld pkt.offset 32 32
  match d.runs.find? (fun e => e.2.started && e.2.paddock == pkt.paddock) with
  | none => d.updPort p (fun x => { x with signalsDiscarded := bump x.signalsDiscarded })
  | some (id, r) =>
    if pkt.step = r.stepNo then d.updRun id (fun r => r.signal k ctr inc)
    else if pkt.step = (r.stepNo + 1) % 2 ^ 24 then d.updRun id (fun r => { r with signals := r.signals ++ [(k, ctr, inc)] })
    else d.updPort p (fun x => { x with signalsDiscarded := bump x.signalsDiscarded })

def execSignalPacket (p : Nat) (pkt : Pkt) (s : State) : Res := onDev s fun d =>
  d.onPacket p pkt kSignal fun d => (d.takeSignal p pkt).respond p pkt 0

/-! ### COLLECTIVE (R261, R262, R272) -/

/-- A collective packet of one of the phases of a row. -/
def Dev.onColl (d : Dev) (p : Nat) (pkt : Pkt) (phases : List Nat) (g : Dev → Nat → Dev) : Dev :=
  if pkt.kind = kCollective ∧ !phases.contains (pktPhase pkt) then d
  else d.onPacket p pkt kCollective fun d =>
    match d.collOf pkt with
    | none => d.respond p pkt 1
    | some id => g (d.respond p pkt 0) id

/-- UP, DOWN, DIRECT and COUNTS; a packet of a phase that only a switch takes, or of a reserved one, is answered as well
and does nothing (R261). -/
def execCollectivePacket (p : Nat) (pkt : Pkt) (s : State) : Res := onDev s fun d =>
  d.onColl p pkt [phUp, phDown, phDirect, phCounts, phSlotReq, phSlotData, 10, 11, 12, 13, 14, 15] fun d id => d.collTake id pkt

/-- R262: forwarded once; the command ends with the carried status. -/
def execCollFailPacket (p : Nat) (pkt : Pkt) (s : State) : Res := onDev s fun d =>
  d.onColl p pkt [phFail] fun d id => d.failFlight id (Status.ofCode (leAt pkt.payload 0 2))

/-- A packet of the switch. -/
def Dev.onSlot (d : Dev) (p : Nat) (pkt : Pkt) (phase : Nat) (g : Dev → Nat → Coll → Dev) : Dev :=
  d.onColl p pkt [phase] fun d id => match KV.find d.colls id with
    | none => d
    | some c => if pktFromSwitch pkt then g d id c else d

/-- R272, steps 2 and 3. -/
def execSlotReply (p : Nat) (pkt : Pkt) (s : State) : Res := onDev s fun d =>
  d.onSlot p pkt phSlotReply fun d id _ => (d.collSlotAnswer id (leAt pkt.payload 0 4)).collProgress id

/-- R272, step 4. -/
def execSlotResult (p : Nat) (pkt : Pkt) (s : State) : Res := onDev s fun d =>
  d.onSlot p pkt phSlotResult fun d id c => if c.onSlot then d.slotWrite id pkt else d

/-- R272, step 5. -/
def execSlotAbort (p : Nat) (pkt : Pkt) (s : State) : Res := onDev s fun d =>
  d.onSlot p pkt phSlotAbort fun d id c =>
    if c.onSlot then (match KV.find d.groups c.group with
      | none => d
      | some g => (d.switchSend g c phSlotAbort 0 []).slotFall id) else d

/-! ### MAILBOX (R55) -/

/-- A remote mailbox takes the message unless it is FULL, and wakes firmware that sleeps (R56). -/
def Dev.takeMailbox (d : Dev) (p : Nat) (pkt : Pkt) : Dev :=
  let m := pkt.desc % 8
  let r := KV.getD d.rxMbox m RxMbox.blank
  if r.mbox.full then d.respond p pkt 1
  else
    let x : MboxSt := { r.mbox with data := (List.range 12).map (fun i => BitVec.ofNat 32 (w32 pkt.payload (4 * i))), full := true }
    ((Dev.wakeFor { d with rxMbox := KV.put d.rxMbox m { mbox := x, src := pkt.src, seq := pkt.seq, port := p } } false (.remote m)).respond p pkt 0)

def execMailboxPacket (p : Nat) (pkt : Pkt) (s : State) : Res := onDev s fun d =>
  d.onPacket p pkt kMailbox fun d => d.takeMailbox p pkt

/-! ### RESPONSE (R246, R256) -/

/-- The packet that a response answers. -/
def answersTo (pkt : Pkt) (x : Sent) : Bool := x.pkt.dst == pkt.src && x.pkt.vc == pkt.vc && x.pkt.seq == pkt.seq && x.pkt.kind == pkt.format

def Dev.updTx (d : Dev) (k : Nat) (g : TxMbox → TxMbox) : Dev := { d with txMbox := KV.upd d.txMbox k g }
def txKey (x : Sent) : Nat := x.pkt.dst * 8 + x.pkt.desc % 8

/-- R55: the acknowledgement of the receiver's RXCTL read. -/
def TxMbox.released (t : TxMbox) : TxMbox := { t with mbox := { t.mbox with full := false } }

/-- ACCEPTED: the packet is answered, and F_RECOVERED set where it was replayed or held (R258); its bytes count for a COPY, and what waited for it looks again. -/
def Dev.accepted' (d : Dev) (x : Sent) : Dev :=
  let d := { d with sent := d.sent.filter (fun y => y != x) }
  let d := if x.pkt.kind = kMailbox then d.updTx (txKey x) (fun t => { t with delivered := some x.pkt.seq, refusedAt := none }) else d
  match x.flight with
  | none => d
  | some id =>
    let d := if x.recovered then d.updFlight id (fun f => { f with flags := setFlag f.flags fRecovered }) else d
    let d := if x.pkt.kind = kWrite then d.updFlight id (fun f => if f.opcode = 0x20 then f.addBytes x.pkt.payload.length else f) else d
    d.gatherEnd id

/-- BUSY: the packet is refused and will be sent again. -/
def Dev.refused (d : Dev) (x : Sent) : Dev :=
  let d := { d with sent := d.sent.map (fun y => if y == x then { y with busy := true, at' := d.now } else y) }
  if x.pkt.kind = kMailbox then d.updTx (txKey x) (fun t => { t with refusedAt := some d.now }) else d

/-- RELEASED: the message of a remote mailbox has been read. -/
def Dev.mboxReleased (d : Dev) (pkt : Pkt) : Dev :=
  { d with txMbox := KV.mapV d.txMbox (fun k t => if k / 8 = pkt.src ∧ t.delivered = some pkt.seq ∧ t.mbox.full then t.released else t) }

def Dev.takeResponse (d : Dev) (p : Nat) (pkt : Pkt) : Dev :=
  match fld pkt.offset 0 2, d.sent.find? (answersTo pkt) with
  | 0, some x => d.accepted' x
  | 1, some x => (d.refused x).updPort p (fun y => { y with busyReceived := bump y.busyReceived })
  | 2, _ => d.mboxReleased pkt
  | _, _ => d

def execResponsePacket (p : Nat) (pkt : Pkt) (s : State) : Res := onDev s fun d =>
  d.onPacket p pkt kResponse fun d => d.takeResponse p pkt

/-! ### Resending -/

/-- Sends a refused packet again under a new number: R254 and R257 end its command where no port is left.
A packet whose command is over is sent no more, but for a FAIL packet. -/
def Dev.resend (d : Dev) (x : Sent) : Dev :=
  let e := { d with sent := d.sent.filter (fun y => y != x) }
  if x.flight.isNone && !(x.pkt.kind == kCollective && pktPhase x.pkt == phFail) then e
  else match e.send x.flight x.unit x.pkt with
    | (e, none) => e
    | (e, some st) => x.flight.elim e (fun id => e.failFlight id st)

/-- A packet of a kind to `dst` that was refused, or could not be sent, 2 µs ago or more. -/
def Dev.resendOf (d : Dev) (kind dst seq : Nat) : Dev :=
  match d.sent.find? (fun x => x.pkt.kind == kind && x.pkt.dst == dst && x.pkt.seq == seq && x.busy) with
  | none => d
  | some x => if d.elapsed x.at' 2000 then d.resend x else d

/-- R160. -/
def execPageResend (dst seq dt : Nat) (s : State) : Res := onDev s fun d => (d.advance dt).resendOf kPage dst seq
/-- R262. -/
def execCollResend (dst seq dt : Nat) (s : State) : Res := onDev s fun d => (d.advance dt).resendOf kCollective dst seq

/-- R55: every 10 µs while refused. -/
def execMboxRemoteResend (v m dt : Nat) (s : State) : Res := onDev s fun d =>
  let d := d.advance dt
  match KV.find d.txMbox (v * 8 + m) with
  | none => d
  | some t => match t.refusedAt with
    | none => d
    | some r =>
      if t.mbox.full && d.elapsed r 10000 then
        Dev.sendMbox (({ d with sent := d.sent.filter (fun x => !isMboxPkt v m x.pkt) }).updTx (v * 8 + m) (fun t => { t with refusedAt := none })) v m
      else d

/-- R55: not delivered 1 ms after GO. -/
def execMboxRemoteTimeout (v m dt : Nat) (s : State) : Res := onDev s fun d =>
  let d := d.advance dt
  match KV.find d.txMbox (v * 8 + m) with
  | none => d
  | some t =>
    if t.mbox.full && t.delivered.isNone && d.elapsed t.goAt 1000000 then
      d.abortTx (v * 8 + m)
    else d

end Sys2Proof.Machine
end

