-- ==== Sys2Proof/Machine/Weights.lean ====
section
/-! DEFINITION. The streaming window, pinned fetches and the weight-late limit (R220, R222, R224, R231). -/
namespace Sys2Proof.Machine
open Sys2Proof

/-! ### The window (R220) -/

/-- The layer at distance `k` from the running layer, across the end of the pass. -/
def LayerTable.atDist (t : LayerTable) (running k : Nat) : Nat := t.order.getD ((running + k) % t.layers.length) 0
/-- The distance of a layer from the running layer. -/
def LayerTable.dist (t : LayerTable) (running i : Nat) : Nat := (t.posOf i + t.layers.length - running) % t.layers.length

/-- Size of a layer's current copy, rounded up to 2 MiB. -/
def Layer.winSize (l : Layer) : Nat := roundUp (l.copy.2.2.1 * 4096) mib2

/-- A run of the plan that has started. -/
def Dev.runOf (d : Dev) (pk : Nat) : Option Run := (d.runs.find? (fun e => e.2.plan == pk && e.2.started)).map (·.2)
/-- The running layer's position: between runs, the first layer of the next pass. -/
def Dev.runningPos (d : Dev) (pk : Nat) (p : Plan) : Nat := if (d.runOf pk).isSome then p.running else 0

/-- A layer is one that the main stream fetches: streamed, not resident, not failed, not carried over. -/
def Dev.wantsFetch (d : Dev) (pk : Nat) (p : Plan) (t : LayerTable) (i : Nat) : Bool :=
  (t.layers[i]?).elim false Layer.streamed && !p.window.any (fun w => w.layer == i) && !p.failed.contains i &&
    !(t.dist (d.runningPos pk p) i == 0 && (d.runOf pk).elim false (fun r => r.carried.contains i))

/-- The next layer to fetch and its distance: the first such layer from the running layer on. -/
def Dev.nextFetch (d : Dev) (pk : Nat) (p : Plan) (t : LayerTable) : Option (Nat × Nat) :=
  ((List.range t.layers.length).map (fun k => (k, t.atDist (d.runningPos pk p) k))).find? (fun e => d.wantsFetch pk p t e.2)

/-- The lowest address of the window with `n` free bytes. -/
def winRoom (t : LayerTable) (ws : List WinSlot) (n : Nat) : Option Nat :=
  let top := t.windowBase + t.windowMib * 2 ^ 20
  (sortNat (t.windowBase :: ws.map (fun w => w.addr + w.size))).find? (fun a =>
    a + n ≤ top && ws.all (fun w => !overlaps a n w.addr w.size))

/-- A step waits for a layer's copy. -/
def Dev.waitsFor (d : Dev) (pk i : Nat) (p : Plan) : Bool :=
  d.runs.any (fun e => e.2.plan == pk && e.2.started && e.2.stall.isSome && (p.layerAt e.2.step).elim false (fun l => l.1 == i))

/-- Discards resident layers after distance `k`, latest first, until `n` bytes are free; fuel is their number. -/
def discardFor (t : LayerTable) (running k n : Nat) : Nat → List WinSlot → List WinSlot
  | 0, ws => ws
  | fuel + 1, ws =>
    if (winRoom t ws n).isSome then ws
    else
      let far := ws.foldl (fun m w => max m (t.dist running w.layer)) 0
      if far ≤ k then ws else discardFor t running k n fuel (ws.filter (fun w => t.dist running w.layer != far))

/-- R231: a copy can be fetched again once its failed blocks have been written. -/
def Hay.clean (h : Hay) (l : Layer) : Bool := l.copy.2.1 != 1 || (h.firstBad l.copy.2.2.2 (l.copy.2.2.1 * 4096) none).isNone

/-- The source, address and bytes of a layer's copy at a precision. -/
def Layer.copyAt (l : Layer) (wide : Bool) : Nat × Nat × Nat :=
  if wide then (l.wideSrc, l.wideAddr, l.wideBlocks * 4096) else (l.narrowSrc, l.narrowAddr, l.narrowBlocks * 4096)

/-- R215: a host copy's bytes as a fetch begins; the Hayloft's do not change under it (R228). -/
def Dev.seenAt (d : Dev) (c : Nat × Nat × Nat) : List Byte := if c.1 = 2 then d.host.reads c.2.1 c.2.2 else []

def weightStart (h : Hay) (d : Dev) (pk : Nat) : Dev :=
  match KV.find d.plans pk with
  | none => d
  | some p0 => match p0.table with
    | none => d
    | some t =>
      let p : Plan := { p0 with failed := p0.failed.filter (fun i => !((t.layers[i]?).elim true h.clean)) }
      let d := d.updPlan pk (fun _ => p)
      if p.window.any (fun w => !w.ready) then d
      else match d.nextFetch pk p t with
        | none => d
        | some (k, i) =>
          if p.depth < k then d
          else
            let l := t.layers.getD i (readLayer [] 0 0)
            let n := l.winSize
            let ws := if (winRoom t p.window n).isNone && d.waitsFor pk i p
              then discardFor t (d.runningPos pk p) k n p.window.length p.window else p.window
            match winRoom t ws n with
            | none => d
            | some a => d.updPlan pk (fun p => { p with window := ws ++ [{ layer := i, wide := l.promoted, addr := a, size := n, ready := false, seen := d.seenAt (l.copyAt l.promoted) }] })

def execWeightFetchStart (pk : Nat) (s : State) : Res := onDevR s fun _ h d => weightStart h d pk

/-- R215: a 4 KiB block of a host copy arrives as it was when the fetch began or as it is now; one that the paddock's
window table no longer covers is not read, and what arrives in its place is free (log 67). `k` counts the free values. -/
def Dev.hostBlock (d : Dev) (map : List (Nat × Nat)) (a k : Nat) (old : List Byte) : List Byte :=
  if !inMap map a 4096 then (rangeFrom (k + 1) 4096).map Config.freeByte
  else if Config.pick k % 2 = 0 then old else d.host.reads a 4096

/-- The bytes of a copy from its source, 1 the Hayloft, 2 host memory, at the end of a fetch. -/
def sourceBytes (h : Hay) (d : Dev) (pad : Nat) (c : Nat × Nat × Nat) (seen : List Byte) : Dev × List Byte :=
  if c.1 = 1 then (d, hayReads h d c.2.1 c.2.2)
  else
    let map := (d.pad pad).elim [] (·.hostMap)
    let n := c.2.2 / 4096
    ({ d with free := d.free + 4097 * n }, (List.range n).flatMap (fun i =>
      d.hostBlock map (c.2.1 + 4096 * i) (d.free + 4097 * i) (sliceB seen (4096 * i) 4096)))

def weightDone (h : Hay) (d : Dev) (pk layer : Nat) (bad : Option Nat) : Hay × Dev :=
  match KV.find d.plans pk with
  | none => (h, d)
  | some p => match p.table.bind (fun t => t.layers[layer]?), p.window.find? (fun w => w.layer == layer && !w.ready) with
    | some l, some w =>
      let c := l.copyAt w.wide
      (match (if c.1 = 1 then h.firstBad c.2.1 c.2.2 bad else none) with
        | some b => (h.markFailed b, (d.updPlan pk (fun p => { p with window := p.window.filter (fun v => v != w), failed := layer :: p.failed })).stepRetry pk)
        | none =>
          let z := sourceBytes h d p.paddock c w.seen
          (h, ((z.1.hbmWrite w.addr z.2).updPlan pk (fun p => { p with window := p.window.map (fun v => if v == w then { v with ready := true } else v) })).stepRetry pk))
    | _, _ => (h, d)

def execWeightFetchDone (pk layer : Nat) (bad : Option Nat) (s : State) : Res := onHay s fun h d => weightDone h d pk layer bad

/-! ### Pinned streams (R222) -/

/-- The pinned fetch under way that a run, a stream and an entry name, and its plan. -/
def Dev.pinFetch (d : Dev) (f stream entry : Nat) : Option (Nat × Plan × PinFetch) :=
  d.plans.findSome? (fun e => (e.2.fetches.find? (fun x => x.run == f && x.stream == stream && x.entry == entry)).map (fun x => (e.1, e.2, x)))

/-- R222, R224: a fetch that a run has started finishes, whether or not the run still goes on. -/
def pinnedDone (h : Hay) (d : Dev) (f stream entry : Nat) (bad : Option Nat) : Hay × Dev :=
  match d.pinFetch f stream entry with
  | none => (h, d)
  | some (pk, p, x) =>
    let e := x.pin
    let d := d.updPlan pk (fun p => { p with fetches := p.fetches.filter (· != x) })
    match (if e.source = 1 then h.firstBad e.src (e.blocks * 4096) bad else none) with
    | some b => (h.markFailed b, d.failFlight f .hayloftReadFail)
    | none =>
      let z := sourceBytes h d p.paddock (e.source, e.src, e.blocks * 4096) x.seen
      (h, ((z.1.hbmWrite e.dest z.2).updRun f (fun r => { r with pins := r.pins ++ [(stream, entry)] })).stepRetry pk)

def execPinnedFetchDone (f stream entry : Nat) (bad : Option Nat) (s : State) : Res := onHay s fun h d => pinnedDone h d f stream entry bad

/-! ### The limit (R224) -/

/-- LATE_LIMIT in ns: 50 ms when it is 0 or no table is installed. -/
def Plan.lateNs (p : Plan) : Nat := orDefault (p.table.elim 0 (·.lateLimit)) 50 * 1000000

def execWeightLateLimit (f dt : Nat) (s : State) : Res := onDev s fun d =>
  let d := d.advance dt
  match KV.find d.runs f with
  | none => d
  | some r => match r.stall, d.runPlan r with
    | some t, some p => if !r.stepOn && !r.suspended && d.elapsed t p.lateNs then d.failFlight f .weightLate else d
    | _, _ => d

end Sys2Proof.Machine
end

