-- ==== Sys2Proof/Machine/Media.lean ====
section
/-! DEFINITION. Media engines: streams, the output ring, rate control, encoding, decoding and closing (chapter 10, R189 to R210). What the codecs themselves make of a picture are constants of Config. -/
namespace Sys2Proof.Machine
open Sys2Proof

/-! ### Streams (R189) -/

/-- Word `i` of a stream's open command. -/
def Stream.w (q : Stream) (i : Nat) : Nat := q.words.getD i 0
def Flight.streamId (x : Flight) : Nat := fld (x.w 2) 0 16
def Dev.updStream (d : Dev) (h : Nat) (g : Stream → Stream) : Dev := { d with streams := KV.upd d.streams h g }
def Dev.updEngine (d : Dev) (e : Nat) (g : Engine → Engine) : Dev := { d with engines := KV.upd d.engines e g }

/-- R189: a handle not open completes with ST_BAD_PARAM, one of another paddock with ST_NOT_IN_PADDOCK. -/
def checkStream (d : Dev) (x : Flight) (enc : Option Bool) : List (Bool × Status) :=
  match KV.find d.streams x.streamId with
  | none => [(true, .badParam)]
  | some q => [(q.paddock != x.paddock, .notInPaddock), (enc.elim false (fun b => b != q.enc), .badParam)]

/-- R189: a free handle of the kind. Which one is open (log 28). -/
def Dev.newStream (d : Dev) (enc : Bool) : Option Nat :=
  pickOf d.free ((rangeFrom (if enc then 0 else 32) 32).filter (fun h => !KV.has d.streams h))
def Dev.engineFull (d : Dev) (e : Nat) : Bool := 8 ≤ (KV.keep d.streams (fun _ q => q.engine == e)).length

def Stream.blank : Stream :=
  { paddock := 0, enc := true, engine := 0, words := [], next := 0, coded := 0, keyNext := false, refs := [], sinceKey := 0, costs := [],
    debtE := 0, debtK := 0, ringTail := 0, units := [], pics := [], skip := false, ordinal := 0, job := none, ready := [], closing := none }

def Flight.nats (x : Flight) : List Nat := x.words.map (·.toNat)

/-- Opens a stream for a command and completes it with the handle. -/
def Dev.openStream (d : Dev) (f : Nat) (x : Flight) (enc : Bool) (e : Nat) : Dev :=
  match d.newStream enc with
  | none => d.finish f .badParam 0 0
  | some h =>
    let q : Stream := { Stream.blank with paddock := x.paddock, enc := enc, engine := e, words := x.nats }
    Dev.finish { d with streams := KV.put d.streams h q, free := d.free + 1 } f .ok h 0

/-! ### Sizes (R190, R191, R205) -/

def sizeOk (w h : Nat) : Bool := w % 2 == 0 && h % 2 == 0 && 64 ≤ w && w ≤ 8192 && 64 ≤ h && h ≤ 4352

/-- Rows and columns of the chroma planes: 1 for 4:2:0, 2 for 4:2:2, 3 for 4:4:4; 4:0:0 has none. -/
def chromaDims (fmt w h : Nat) : Nat × Nat :=
  match fmt with
  | 0 => (0, 0)
  | 1 => (ceilDiv w 2, ceilDiv h 2)
  | 2 => (ceilDiv w 2, h)
  | _ => (w, h)

/-- Samples of a picture in HBM, row by row, without the pitch. -/
def Dev.readPlanes (d : Dev) (a pitch fmt w h depth : Nat) : List Byte :=
  let c := chromaDims fmt w h
  let plane := fun (base pw ph : Nat) => (List.range ph).flatMap (fun y => (List.range pw).flatMap (fun x =>
    bytesLE 2 (d.hbm.readLE (base + y * pitch + 2 * x) 2 % 2 ^ depth)))
  plane a w h ++ plane (a + pitch * h) c.1 c.2 ++ plane (a + 2 * pitch * h) c.1 c.2

/-- Writes one plane's rows at a pitch; bits above the depth are zero. -/
def Dev.writePlane (d : Dev) (a pitch pw ph depth : Nat) (bs : List Byte) : Dev :=
  (List.range ph).foldl (fun d y => d.hbmWrite (a + y * pitch)
    ((List.range pw).flatMap (fun x => bytesLE 2 (leAt bs (2 * (y * pw + x)) 2 % 2 ^ depth)))) d
def Dev.writePlanes (d : Dev) (a pitch fmt w h depth : Nat) (bs : List Byte) : Dev :=
  let c := chromaDims fmt w h
  ((d.writePlane a pitch w h depth bs).writePlane (a + pitch * h) pitch c.1 c.2 depth (bs.drop (2 * w * h))).writePlane
    (a + 2 * pitch * h) pitch c.1 c.2 depth (bs.drop (2 * w * h + 2 * c.1 * c.2))

/-! ### ENC_OPEN (R190, R192, R196) -/

def Stream.codec (q : Stream) : Nat := fld (q.w 2) 8 1
def Stream.width (q : Stream) : Nat := fld (q.w 3) 0 16
def Stream.height (q : Stream) : Nat := fld (q.w 3) 16 16
def Stream.ring (q : Stream) : Nat := q.w 7 + 2 ^ 32 * q.w 8
def Stream.ringBytes (q : Stream) : Nat := q.w 9
def Stream.eth (q : Stream) : Bool := bitOf (q.w 10) 0
/-- Table 10.1: the chroma format and depth that a profile codes. -/
def profileOf (codec prof : Nat) : Option (Nat × Nat) :=
  match codec, prof with
  | 0, 0 => some (1, 8)
  | 0, 1 => some (1, 10)
  | 0, 2 => some (2, 10)
  | 0, 3 => some (3, 10)
  | 1, 0 => some (1, 10)
  | 1, 1 => some (3, 10)
  | _, _ => none
def Stream.profile (q : Stream) : Nat × Nat := (profileOf q.codec (fld (q.w 2) 16 4)).getD (1, 8)

/-- What a level admits: ten times its number, luma samples of a picture, largest width and height, luma samples a second,
and kb/s in the main and the high tier, 0 where the level has no high tier. -/
structure Level where
  id : Nat
  pic : Nat
  maxW : Nat
  maxH : Nat
  rate : Nat
  main : Nat
  high : Nat
  deriving DecidableEq, Repr

/-- HEVC bounds each side by the root of 8 times the picture size. -/
def hevcLevel (id pic rate main high : Nat) : Level := { id := id, pic := pic, maxW := Nat.sqrt (8 * pic), maxH := Nat.sqrt (8 * pic), rate := rate, main := main, high := high }
def av1Level (id pic w h rate main high : Nat) : Level := { id := id, pic := pic, maxW := w, maxH := h, rate := rate, main := main, high := high }

/-- The levels of both codecs up to 6.1, lowest first. PRESUMED from ITU-T H.265 and the AV1 specification, which R192
leaves the numbers to (log 56). -/
def levelsOf (codec : Nat) : List Level :=
  if codec = 0 then
    [hevcLevel 10 36864 552960 128 0, hevcLevel 20 122880 3686400 1500 0, hevcLevel 21 245760 7372800 3000 0,
     hevcLevel 30 552960 16588800 6000 0, hevcLevel 31 983040 33177600 10000 0, hevcLevel 40 2228224 66846720 12000 30000,
     hevcLevel 41 2228224 133693440 20000 50000, hevcLevel 50 8912896 267386880 25000 100000, hevcLevel 51 8912896 534773760 40000 160000,
     hevcLevel 52 8912896 1069547520 60000 240000, hevcLevel 60 35651584 1069547520 60000 240000, hevcLevel 61 35651584 2139095040 120000 480000]
  else
    [av1Level 20 147456 2048 1152 4423680 1500 0, av1Level 21 278784 2816 1584 8363520 3000 0, av1Level 30 665856 4352 2448 19975680 6000 0,
     av1Level 31 1065024 5504 3096 31950720 10000 0, av1Level 40 2359296 6144 3456 70778880 12000 30000,
     av1Level 41 2359296 6144 3456 141557760 20000 50000, av1Level 50 8912896 8192 4352 267386880 30000 100000,
     av1Level 51 8912896 8192 4352 534773760 40000 160000, av1Level 52 8912896 8192 4352 1069547520 60000 240000,
     av1Level 60 35651584 16384 8704 1069547520 60000 240000, av1Level 61 35651584 16384 8704 2139095040 120000 480000]

/-- Thousandths by which a profile scales a level's kb/s. PRESUMED as above. -/
def profileScale (codec prof : Nat) : Nat :=
  match codec, prof with
  | 0, 2 => 1667
  | 0, 3 => 2500
  | 1, 1 => 2000
  | _, _ => 1000

/-- The levels in order, each in its main tier and then in its high tier; AV1 uses the high tier of a level that has one
(Table 10.1). -/
def tiersOf (codec : Nat) : List (Level × Bool) :=
  (levelsOf codec).flatMap (fun l => if l.high = 0 then [(l, false)] else if codec = 0 then [(l, false), (l, true)] else [(l, true)])

/-- R192: the level and tier that the encoder signals: the lowest whose limits allow the size, the picture rate (at most
300 pictures/s, PRESUMED) and the peak bit rate. -/
def levelFor (codec prof w h num den peak : Nat) : Option (Nat × Bool) :=
  ((tiersOf codec).find? (fun e => w * h ≤ e.1.pic && w ≤ e.1.maxW && h ≤ e.1.maxH && w * h * num ≤ e.1.rate * den && num ≤ 300 * den &&
    peak * 1000 ≤ (if e.2 then e.1.high else e.1.main) * profileScale codec prof)).map (fun e => (e.1.id, e.2))

/-- R192: the peak bit rate: W6 for CBR, twice that for VBR. -/
def peakOf (rc w6 : Nat) : Nat := if rc = 0 then w6 else if rc = 1 then 2 * w6 else 0

def ringOk (a n : Nat) : Bool := aligned a 4096 && aligned n 4096 && 2 ^ 24 ≤ n && n ≤ 2 ^ 31

def checkEncOpen (p : Paddock) (x : Flight) : List (Bool × Status) :=
  let codec := fld (x.w 2) 8 1
  let prof := fld (x.w 2) 16 4
  let w := fld (x.w 3) 0 16
  let h := fld (x.w 3) 16 16
  let num := fld (x.w 4) 0 16
  let den := fld (x.w 4) 16 16
  let rc := fld (x.w 5) 0 2
  let lo := fld (x.w 5) 8 6
  let hi := fld (x.w 5) 16 6
  let noRing := x.w 9 == 0 && bitOf (x.w 10) 0
  [(x.w 9 != 0 && !inMap p.hostMap (x.d 7) (x.w 9), .notInPaddock), ((profileOf codec prof).isNone, .badParam), (!sizeOk w h, .badParam),
   (num == 0 || den == 0, .badParam), (rc == 3, .badParam), (hi < lo || (if codec = 0 then 51 else 63) < hi, .badParam),
   (rc != 2 && x.w 6 == 0, .badParam), (!noRing && !ringOk (x.d 7) (x.w 9), .badParam), ((levelFor codec prof w h num den (peakOf rc (x.w 6))).isNone, .badParam)]

/-- R198, R341: the queue pair of an encoder engine, when emission can use it. -/
def Dev.encQp (d : Dev) (e pad : Nat) : Option Nat :=
  let h := fld (d.feature (0x500 + e)) 0 24
  match KV.find d.qps h with
  | none => none
  | some q => if h != 0 && !q.error && q.paddock == pad then some h else none

def execEncOpen (f : Nat) (s : State) : Res := onDev s fun d => d.onFlight f 0x60 fun x =>
  let e := fld (x.w 2) 0 2
  let ring := x.w 9 != 0
  let clash := d.streams.vals.any (fun q => q.enc && overlaps (x.d 7) (x.w 9) q.ring q.ringBytes)
  if d.engineFull e || (ring && (clash || d.host.readLE (x.d 7 + 8) 4 != 0)) || (bitOf (x.w 10) 0 && (d.encQp e x.paddock).isNone) then
    d.finish f .badParam 0 0
  else Dev.openStream (if ring then { d with host := d.host.writeLE (x.d 7) 4 0 } else d) f x true e

/-! ### ENC_PICTURE, ENC_KEY (R195, R200) -/

def Flight.picture (x : Flight) : Nat := fld (x.w 6) 0 24
/-- R195: how far a number lies above the next expected one. -/
def Stream.ahead (q : Stream) (n : Nat) : Nat := (n + 2 ^ 24 - q.next) % 2 ^ 24

def checkEncPicture (d : Dev) (p : Paddock) (x : Flight) : List (Bool × Status) :=
  checkStream d x (some true) ++
    (match KV.find d.streams x.streamId with
      | none => []
      | some q => [(!d.hbmOk p (x.d 3) (3 * x.w 5 * q.height), .notInPaddock), (!aligned (x.d 3) 256, .badParam),
          (!aligned (x.w 5) 256 || x.w 5 < 2 * q.width, .badParam), (63 < q.ahead x.picture, .badParam)])

/-- A running media command enters its stream's list. -/
def Dev.mediaReady (d : Dev) (f : Nat) (x : Flight) (q : Stream) : Dev :=
  if q.ready.contains f then d else d.updStream x.streamId (fun q => { q with ready := q.ready ++ [f] })

def execEncPicture (f : Nat) (s : State) : Res := onDev s fun d => d.onFlight f 0x61 fun x =>
  match KV.find d.streams x.streamId with
  | none => d.finish f .badParam 0 0
  | some q =>
    if d.engines.vals.any (fun e => e.flight == f) then d
    else if 63 < q.ahead x.picture then d.finish f .badParam 0 0
    else d.mediaReady f x q

def execEncKey (f : Nat) (s : State) : Res := onDev s fun d => d.onFlight f 0x62 fun x =>
  match KV.find d.streams x.streamId with
  | none => d.finish f .badParam 0 0
  | some q => (d.updStream x.streamId (fun q => { q with keyNext := true })).finish f .ok q.next 0

/-! ### Budgets (R201, Table 10.5) -/

/-- b. -/
def Stream.nominal (q : Stream) : Nat := q.w 6 * 1000 * fld (q.w 4) 16 16 / fld (q.w 4) 0 16
def Stream.rateControl (q : Stream) : Nat := fld (q.w 5) 0 2
/-- n × c, with c the search cost over the mean of the last 32, within 0.5 to 2. -/
def Stream.scaled (q : Stream) (cost n : Nat) : Nat :=
  let prev := q.costs.take 32
  if prev.isEmpty then n
  else min (2 * n) (max (n / 2) (if prev.sum = 0 then n * Config.vbrZeroMean cost / 65536 else n * cost * prev.length / prev.sum))

/-- The picture's budget, what is repaid of K, and what a floored budget could not charge of E. -/
def Stream.budget (q : Stream) (key : Bool) (cost : Nat) : Option (Nat × Nat × Nat) :=
  let b := q.nominal
  let whole := if key then 4 * b else b
  let repay := if q.rateControl = 0 ∧ !key then min q.debtK (b / 4) else 0
  let base := if q.rateControl = 1 then q.scaled cost whole else whole - repay
  if q.rateControl = 2 then none
  else if base < q.debtE + b / 8 then some (b / 8, repay, q.debtE + b / 8 - base)
  else some (base - q.debtE, repay, 0)

/-- E and K after a picture that used `used` bits. -/
def Stream.debtsAfter (q : Stream) (key : Bool) (bg : Option (Nat × Nat × Nat)) (used : Nat) : Nat × Nat :=
  match bg with
  | none => (q.debtE, q.debtK)
  | some (b, repay, left) =>
    (used - b + left, if q.rateControl ≠ 0 then q.debtK else if key then q.debtK + used - q.nominal else q.debtK - repay)

/-! ### Rows, headers and motion search (R193, R194, Table 10.2) -/

def Stream.lowLatency (q : Stream) : Bool := bitOf (q.w 5) 2
def Stream.rows (q : Stream) : Nat := ceilDiv q.height 64
def Stream.qpMin (q : Stream) : Nat := fld (q.w 5) 8 6
def Stream.qpMax (q : Stream) : Nat := fld (q.w 5) 16 6

/-- R203: the fields of ENC_OPEN that the stream's bytes depend on; constant QP ignores W6 (R201). -/
def Stream.fields (q : Stream) : List Nat :=
  [q.codec, fld (q.w 2) 16 4, q.width, q.height, fld (q.w 4) 0 16, fld (q.w 4) 16 16, q.rateControl, b2n q.lowLatency, q.qpMin, q.qpMax,
   if q.rateControl = 2 then 0 else q.w 6]

/-- R192: the level and tier that the stream signals. -/
def Stream.level (q : Stream) : Nat × Bool :=
  (levelFor q.codec (fld (q.w 2) 16 4) q.width q.height (fld (q.w 4) 0 16) (fld (q.w 4) 16 16) (peakOf q.rateControl (q.w 6))).getD (61, true)

/-- The parameter sets and headers that firmware writes (R193, Table 10.1's note on AV1 temporal units). -/
inductive Header where
  | accessUnitDelimiter | vps | sps | pps | temporalDelimiter | sequenceHeader | frameHeader
  deriving DecidableEq, Repr
def Header.code : Header → Nat
  | .accessUnitDelimiter => 0 | .vps => 1 | .sps => 2 | .pps => 3 | .temporalDelimiter => 4 | .sequenceHeader => 5 | .frameHeader => 6

/-- R193: what precedes a picture's rows. No SEI message, metadata OBU or film grain is among them. -/
def headersOf (codec : Nat) (key : Bool) : List Header :=
  if codec = 0 then .accessUnitDelimiter :: (if key then [.vps, .sps, .pps] else [])
  else .temporalDelimiter :: ((if key then [.sequenceHeader] else []) ++ [.frameHeader])

def Stream.headerBytes (q : Stream) (key : Bool) : List Byte :=
  (headersOf q.codec key).flatMap (fun h => Config.headerBytes h.code q.fields q.level.1 q.level.2 (if key then 0 else q.sinceKey + 1))

/-- Row r of a picture's samples: 64 luma lines and the chroma lines that go with them. -/
def pictureRow (fmt w h : Nat) (bs : List Byte) (r : Nat) : List Byte :=
  let c := chromaDims fmt w h
  let lines := fun (base pw ph n : Nat) => sliceB bs (2 * (base + pw * min (r * n) ph)) (2 * pw * (min ((r + 1) * n) ph - min (r * n) ph))
  let cn := if fmt = 1 then 32 else 64
  lines 0 w h 64 ++ lines (w * h) c.1 c.2 cn ++ lines (w * h + c.1 * c.2) c.1 c.2 cn

/-- A stage of Table 10.2: its window and its step, in eighths of a sample at full scale, to each side of its centre. -/
structure Stage where
  h : Nat
  v : Nat
  step : Nat
  deriving DecidableEq, Repr

/-- Table 10.2: at a scale of 1/n per axis the positions lie n samples apart. -/
def searchStage (codec : Nat) : Nat → Stage
  | 1 => { h := 256 * 8, v := 128 * 8, step := 4 * 8 }
  | 2 => { h := 16 * 8, v := 16 * 8, step := 2 * 8 }
  | 3 => { h := 4 * 8, v := 4 * 8, step := 8 }
  | _ => { h := 6, v := 6, step := if codec = 0 then 2 else 1 }

/-- The vectors of a stage's window around a centre. -/
def Stage.window (s : Stage) (c : Int × Int) : List (Int × Int) :=
  let line := fun (m : Nat) => (List.range (2 * (m / s.step) + 1)).map (fun i => (Int.ofNat i - Int.ofNat (m / s.step)) * Int.ofNat s.step)
  (line s.v).flatMap (fun y => (line s.h).map (fun x => (c.1 + x, c.2 + y)))

/-- The first of least cost. -/
def cheapest {α : Type} (cost : α → Nat) : List α → Option α
  | [] => none
  | a :: t => match cheapest cost t with
    | none => some a
    | some b => some (if cost b < cost a then b else a)

/-- A block's vector in one reference at a stage: the best of the window around the vector of the stage above. -/
def Stream.searchIn (q : Stream) (cur : List (List Byte)) (stage ref x y size : Nat) (centre : Int × Int) : Int × Int :=
  (cheapest (Config.matchCost stage cur (q.refs.getD ref []) x y size) ((searchStage q.codec stage).window centre)).getD centre

/-- R194, stage 1: the reference and vector of a 64 x 64 block, over both references. -/
def Stream.stage1 (q : Stream) (cur : List (List Byte)) (x y : Nat) : Nat × (Int × Int) :=
  (cheapest (fun e => Config.matchCost 1 cur (q.refs.getD e.1 []) x y 64 e.2)
    ((List.range q.refs.length).map (fun r => (r, q.searchIn cur 1 r x y 64 (0, 0))))).getD (0, (0, 0))

/-- R194: the later stages search the reference that stage 1 chose, each around the vector of the stage above, for the
blocks of that stage that hold the coding block. -/
def Stream.finalVector (q : Stream) (cur : List (List Byte)) (x y size : Nat) : Nat × Nat × Nat × Nat × Int × Int :=
  let a := q.stage1 cur (x / 64 * 64) (y / 64 * 64)
  let b := q.searchIn cur 2 a.1 (x / 32 * 32) (y / 32 * 32) 32 a.2
  let c := q.searchIn cur 3 a.1 x y size b
  let v := q.searchIn cur 4 a.1 x y size c
  (a.1, x, y, size, v.1, v.2)

/-- R201: the stage 1 search cost of a picture: the sum over its blocks (log 55). -/
def Stream.searchCost (q : Stream) (cur : List (List Byte)) : Nat :=
  ((List.range q.rows).flatMap (fun r => (List.range (ceilDiv q.width 64)).map (fun b =>
    let z := q.stage1 cur (64 * b) (64 * r)
    Config.matchCost 1 cur (q.refs.getD z.1 []) (64 * b) (64 * r) 64 z.2))).sum

/-- The coding blocks of a row, 8 x 8 and larger. -/
def Stream.blocks (q : Stream) (cur : List (List Byte)) (r qp : Nat) : List (Nat × Nat × Nat) :=
  (Config.partition q.fields cur r qp).filter (fun b => [8, 16, 32, 64].contains b.2.2 && b.2.1 / 64 == r && b.1 < q.width)

/-! ### Coding a picture (R193, R199, R201, R202) -/

/-- A coded row: its QP, its mode (0 as its QP has it, 1 one QP above the row before, 2 skipped or DC only), its bytes
and its reconstruction. -/
structure RowOut where
  qp : Nat
  mode : Nat
  bytes : List Byte
  recon : List Byte
  deriving DecidableEq, Repr

def bitsOf (rs : List RowOut) : Nat := 8 * (rs.map (fun r => r.bytes.length)).sum

/-- R201, R202: the QP and mode of the next row; `rs` are the rows before it, last first. -/
def Stream.nextRow (q : Stream) (budget : Option Nat) (rs : List RowOut) : Nat × Nat :=
  match budget with
  | none => (q.qpMin, 0)
  | some b =>
    match rs with
    | last :: _ =>
      if b ≤ bitsOf rs then
        (if last.mode = 2 ∨ (last.mode = 1 ∧ last.qp = q.qpMax) then (q.qpMax, 2) else (min (last.qp + 1) q.qpMax, 1))
      else (max q.qpMin (min q.qpMax (Config.rowQp q.fields (b - bitsOf rs) (q.rows - rs.length) (rs.map (fun r => (r.qp, r.bytes.length))))), 0)
    | [] => (max q.qpMin (min q.qpMax (Config.rowQp q.fields b q.rows [])), 0)

/-- R201: AV1's base_q_idx for a QP value. -/
def Stream.qIndex (q : Stream) (qp : Nat) : Nat := if q.codec = 0 then qp else min (4 * qp) 255

/-- R193, R202: codes row r. A skipped row copies the co-located blocks of the nearest reference. -/
def Stream.codeRow (q : Stream) (key : Bool) (cur : List (List Byte)) (r : Nat) (m : Nat × Nat) : RowOut :=
  let refs := if key then [] else q.refs
  let how := if m.2 = 2 then (if key then 2 else 1) else 0
  let motion := if key || m.2 == 2 then [] else (q.blocks cur r m.1).map (fun b => q.finalVector cur b.1 b.2.1 b.2.2)
  { qp := m.1, mode := m.2, bytes := Config.rowBytes q.fields key cur refs motion r (q.qIndex m.1) how,
    recon := if how = 1 then (q.refs.headD []).getD r [] else Config.rowRecon q.fields key cur refs motion r (q.qIndex m.1) how }

/-- Codes `n` further rows, last first. -/
def Stream.codeRows (q : Stream) (key : Bool) (cur : List (List Byte)) (budget : Option Nat) : Nat → List RowOut → List RowOut
  | 0, rs => rs
  | n + 1, rs => q.codeRows key cur budget n (q.codeRow key cur rs.length (q.nextRow budget rs) :: rs)

/-- R199: rows of a slice or tile group. -/
def Stream.unitRows (q : Stream) : Nat :=
  if !q.lowLatency then q.rows
  else if q.codec = 0 then 1
  else ((rangeFrom 1 q.rows).find? (fun r => ceilDiv q.rows r * ceilDiv q.width 4096 ≤ 128)).getD q.rows

/-- Groups of n elements. -/
def groupsOf {α : Type} (n : Nat) : Nat → List α → List (List α)
  | 0, _ => []
  | k + 1, l => if l.isEmpty then [] else l.take n :: groupsOf n k (l.drop n)

/-- R196: a unit's parts of at most 4 MiB, each with CONT. -/
def unitParts (bs : List Byte) : List (Bool × List Byte) :=
  let n := max 1 (ceilDiv bs.length (2 ^ 22))
  (List.range n).map (fun k => (k + 1 != n, (bs.drop (k * 2 ^ 22)).take (2 ^ 22)))

/-- The headers go with the first unit of a picture. -/
def withHeaders (hs : List Byte) : List (List Byte) → List (List Byte)
  | [] => [hs]
  | u :: us => (hs ++ u) :: us

/-- What the engine takes up with an ENC_PICTURE. R203: what the stream keeps of it does not depend on when or whether
its units leave. A picture whose samples cannot be read is not coded, and its command ends (R195). -/
def Dev.startEncode (d : Dev) (nv : NonVol) (e f : Nat) (x : Flight) (q : Stream) (mf : MemFault) : Dev :=
  let pr := q.profile
  let z := d.memFault nv f mf
  match z.2.orElse (fun _ => z.1.poisoned (x.d 3) (3 * x.w 5 * q.height)) with
  | some a => (z.1.updStream x.streamId (fun q => { q with next := (q.next + 1) % 2 ^ 24 })).finishMem f a
  | none =>
    let d := z.1
    let key := q.refs.isEmpty || q.keyNext
    let bs := d.readPlanes (x.d 3) (x.w 5) pr.1 q.width q.height pr.2
    let cur := (List.range q.rows).map (pictureRow pr.1 q.width q.height bs)
    let cost := q.searchCost cur
    let bg := q.budget key cost
    let rows := (q.codeRows key cur (bg.map (·.1)) q.rows []).reverse
    let used := bitsOf rows + 8 * (q.headerBytes key).length
    let units := withHeaders (q.headerBytes key) ((groupsOf q.unitRows q.rows (rows.map (·.bytes))).map List.flatten)
    let debts := q.debtsAfter key bg used
    let eng : Engine := { stream := x.streamId, flight := f, picture := x.picture, key := key, units := units, waiting := [],
                          slices := units.length, bytesOut := 0, isOver := bg.elim false (fun b => b.1 < used), stopped := false }
    let q' : Stream := { q with
      next := (q.next + 1) % 2 ^ 24, keyNext := false, refs := rows.map (·.recon) :: (if key then [] else q.refs.take 1),
      sinceKey := if key then 0 else q.sinceKey + 1, costs := (cost :: q.costs).take 32, debtE := debts.1, debtK := debts.2,
      ready := q.ready.filter (· != f) }
    Dev.updFlight { d with engines := KV.put d.engines e eng, streams := KV.put d.streams x.streamId q' } f (fun y => { y with countB := units.length })

/-! ### Emission (R196 to R198, Table 10.3) -/

/-- R197: bytes that the ring can take. -/
def ringSpace (head tail size : Nat) : Nat := (head + 2 * size - tail - 1) % size

/-- A unit's header. -/
def unitHeader (len kind : Nat) (last key isOver cont : Bool) (pic handle unit : Nat) (gtc : DWord) : List Byte :=
  wordsLE [len, kind * 2 ^ 28 + b2n last * 2 ^ 27 + b2n key * 2 ^ 26 + b2n isOver * 2 ^ 25 + b2n cont * 2 ^ 24 + pic % 2 ^ 24,
    handle * 65536 + unit % 65536, 0] ++ bytesLE 8 gtc.toNat ++ wordsLE [0, 0]

/-- Writes bytes at TAIL and advances it. -/
def Dev.ringPut (d : Dev) (h : Nat) (q : Stream) (bs : List Byte) (n : Nat) : Dev :=
  let size := q.ringBytes - 64
  let t := (q.ringTail + n) % size
  Dev.updStream { d with host := (d.host.writes (q.ring + 64 + q.ringTail) bs).writeLE q.ring 4 t } h (fun q => { q with ringTail := t })

/-- The pad that keeps a unit from wrapping, when one is needed and fits. -/
def Dev.ringPad (d : Dev) (h : Nat) (q : Stream) (e : Engine) (need : Nat) : Dev :=
  let size := q.ringBytes - 64
  let rest := size - q.ringTail
  if need ≤ rest ∨ ringSpace (d.host.readLE (q.ring + 8) 4) q.ringTail size < rest then d
  else d.ringPut h q (unitHeader rest 1 false e.key false false e.picture h 0 d.gtc.val) rest

/-- R198, Table 10.4: the Ethernet port of an encoder engine's units. -/
def Dev.encPort (d : Dev) (e : Nat) : Nat := fld (d.feature (0x500 + e)) 24 1

/-- R337: the port holds the queue pair's priority paused. Which priority a DSCP maps to is open. -/
def Dev.ethPaused (d : Dev) (port qp : Nat) : Bool :=
  match KV.find d.qps qp with
  | none => false
  | some q => d.now < KV.getD (KV.getD d.eth port EthPort.blank).paused (Config.dscpPriority q.dscp % 8) 0
/-- R198: emission to Ethernet waits for receive credit, and for the end of a pause. -/
def Dev.ethWaits (d : Dev) (q : Stream) : Bool :=
  q.eth && (d.encQp q.engine q.paddock).elim false (fun h =>
    d.ethPaused (d.encPort q.engine) h || (KV.find d.qps h).elim true (fun x => x.credit == 0))

/-- R198: one SEND of a unit, which takes one receive credit. -/
def Dev.ethSend (d : Dev) (q : Stream) (bs : List Byte) : Dev :=
  if !q.eth then d
  else match d.encQp q.engine q.paddock with
    | none => d
    | some h => { d with qps := KV.upd d.qps h (fun x => { x with credit := x.credit - 1 }),
                         out := { d.out with eth := d.out.eth ++ [.send (d.encPort q.engine) h bs] } }

/-- Emits one complete part of the engine's picture; none while the ring has no room or Ethernet waits. `isLast`: nothing
of the picture comes after it. -/
def Dev.emitPart (d : Dev) (en : Nat) (e : Engine) (q0 : Stream) (u : Nat × Bool × DWord × List Byte) (isLast : Bool) : Option Dev :=
  let bs0 := u.2.2.2
  let pad := roundUp bs0.length 32 - bs0.length
  let need := 32 + bs0.length + pad
  let d := if q0.ringBytes = 0 then d else d.ringPad e.stream q0 e need
  let q := KV.getD d.streams e.stream q0
  let size := q.ringBytes - 64
  let bs := unitHeader bs0.length 0 isLast e.key (isLast && e.isOver) u.2.1 e.picture e.stream (if q.lowLatency then u.1 else 0) u.2.2.1 ++ bs0 ++
    List.replicate pad 0
  let fits := q.ringBytes == 0 ||
    (q.ringTail + need ≤ size && need ≤ ringSpace (d.host.readLE (q.ring + 8) 4) q.ringTail size)
  if !fits || d.ethWaits q then none
  else
    let d := if q.ringBytes = 0 then d else d.ringPut e.stream q bs need
    some (((d.ethSend q bs).updEngine en (fun e => { e with bytesOut := e.bytesOut + bs0.length })).updFlight e.flight
      (fun y => { y with countA := (y.countA + bs0.length) % 2 ^ 32 }))

/-- Emits what waits and fits; the engine stops when a part does not (R197). -/
def Dev.emitAll (d : Dev) (en : Nat) (e : Engine) : List (Nat × Bool × DWord × List Byte) → Dev
  | [] => d.updEngine en (fun e => { e with waiting := [], stopped := false })
  | u :: rest =>
    match (KV.find d.streams e.stream).bind (fun q => d.emitPart en e q u (rest.isEmpty && e.units.isEmpty)) with
    | some d => d.emitAll en e rest
    | none =>
      let d := match KV.find d.streams e.stream with
        | some q => if q.ringBytes = 0 then d else d.ringPad e.stream q e (32 + roundUp u.2.2.2.length 32)
        | none => d
      d.updEngine en (fun e => { e with waiting := u :: rest, stopped := true })

/-- R199: the next unit of the engine's picture is complete, and emitted. -/
def Dev.unitDone (d : Dev) (en : Nat) (e : Engine) (u : List Byte) (us : List (List Byte)) : Dev :=
  let e' : Engine := { e with units := us }
  (d.updEngine en (fun _ => e')).emitAll en e' ((unitParts u).map (fun p => (e.slices - e.units.length, p.1, d.gtc.val, p.2)))

/-- Up to `n` further units are complete; the coding stops where emission does (R197). -/
def Dev.unitsDone (d : Dev) (en : Nat) : Nat → Dev
  | 0 => d
  | n + 1 => match KV.find d.engines en with
    | none => d
    | some e => match e.units with
      | [] => d
      | u :: us => if e.stopped then d else (d.unitDone en e u us).unitsDone en n

/-- The peer's acknowledgements have granted `n` SENDs more (log 55). -/
def Dev.grantCredit (d : Dev) (en n : Nat) : Dev :=
  match (KV.find d.engines en).bind (fun e => KV.find d.streams e.stream) with
  | none => d
  | some q => match (if q.eth then d.encQp q.engine q.paddock else none) with
    | none => d
    | some h => { d with qps := KV.upd d.qps h (fun x => { x with credit := x.credit + n }) }

/-! ### DEC_OPEN, DEC_DATA (R204 to R209) -/

def Stream.maxW (q : Stream) : Nat := fld (q.w 3) 0 16
def Stream.maxH (q : Stream) : Nat := fld (q.w 3) 16 16
def slotPitch (w : Nat) : Nat := ceilDiv (2 * w) 256 * 256
def slotBytes (w h : Nat) : Nat := slotPitch w * h * 3
/-- R205: slots of decoding state. -/
def stateSlots (codec : Nat) : Nat := if codec = 0 then 17 else 9
/-- Output slots of a picture buffer of n bytes. -/
def outSlots (codec w h n : Nat) : Nat := (n - 16384) / slotBytes w h - stateSlots codec
def Stream.outputs (q : Stream) : Nat := outSlots q.codec q.maxW q.maxH (q.w 6)
def Stream.buffer (q : Stream) : Nat := q.w 4 + 2 ^ 32 * q.w 5
def Stream.slotAddr (q : Stream) (k : Nat) : Nat := q.buffer + 16384 + (stateSlots q.codec + k) * slotBytes q.maxW q.maxH

def checkDecOpen (d : Dev) (p : Paddock) (x : Flight) : List (Bool × Status) :=
  let w := fld (x.w 3) 0 16
  let h := fld (x.w 3) 16 16
  [(!d.hbmOk p (x.d 4) (x.w 6), .notInPaddock), (!aligned (x.d 4) 256, .badParam), (!sizeOk w h, .badParam),
   (outSlots (fld (x.w 2) 8 1) w h (x.w 6) == 0, .badParam)]

def execDecOpen (f : Nat) (s : State) : Res := onDev s fun d => d.onFlight f 0x63 fun x =>
  let e := 4 + fld (x.w 2) 0 2
  if d.engineFull e then d.finish f .badParam 0 0 else d.openStream f x false e

/-- R208: bytes of one error map. -/
def Stream.mapBytes (q : Stream) : Nat := ceilDiv (ceilDiv q.maxW 16 * ceilDiv q.maxH 16) 256 * 256

/-- The units of a DEC_DATA, and the picture starts in them (R206). -/
def Dev.decUnits (d : Dev) (x : Flight) (q : Stream) : List (List Byte) := Config.unitsOf q.codec (d.hbm.reads (x.d 3) (x.w 5))
def startsOf (codec : Nat) (us : List (List Byte)) : Nat := (us.map (Config.startsIn codec)).sum
def Flight.discards (x : Flight) : Nat := fld (x.w 8) 0 16
/-- Pictures that the command may output, as counted at its check. -/
def Dev.decAllowed (d : Dev) (x : Flight) (q : Stream) : Nat := startsOf q.codec (d.decUnits x q) - x.discards

def checkDecData (d : Dev) (p : Paddock) (x : Flight) : List (Bool × Status) :=
  checkStream d x (some false) ++
    (match KV.find d.streams x.streamId with
      | none => []
      | some q =>
        let n := d.decAllowed x q
        [(!d.hbmOk p (x.d 3) (x.w 5), .notInPaddock), (startsOf q.codec (d.decUnits x q) < x.discards, .badParam),
         (256 < n || q.outputs < n, .badParam), (x.d 6 != 0 && !aligned (x.d 6) 256, .badParam),
         (x.d 6 != 0 && !d.hbmOk p (x.d 6) (n * q.mapBytes), .badParam)])

def execDecData (f : Nat) (s : State) : Res := onDev s fun d => d.onFlight f 0x64 fun x =>
  match KV.find d.streams x.streamId with
  | none => d.finish f .badParam 0 0
  | some q => if d.engines.vals.any (fun e => e.flight == f) || q.job.isSome then d else d.mediaReady f x q

/-! ### Decoding and concealment (R204, R207, R208) -/

/-- Lower median. -/
def lowerMedian (l : List Int) : Int := (l.mergeSort (· ≤ ·)).getD ((l.length - 1) / 2) 0

/-- R207: block i of a picture bw blocks wide, from the decoder's states and vectors: its error map byte, and the vector
of a motion-compensated copy. Only correctly decoded blocks serve as neighbours. -/
def conceal (bw : Nat) (bs : List (Nat × Int × Int)) (hasRef : Bool) (i : Nat) : Nat × (Int × Int) :=
  let b := bs.getD i (1, 0, 0)
  let x := i % bw
  let near := (if x = 0 then [] else [i - 1]) ++ (if i < bw then [] else (if x = 0 then [] else [i - bw - 1]) ++ [i - bw] ++
    (if x + 1 = bw then [] else [i - bw + 1]))
  let vs := (near.map (fun k => bs.getD k (1, 0, 0))).filter (fun n => n.1 == 0)
  if b.1 = 0 then (0, (0, 0))
  else if b.1 = 2 then (1, (b.2.1, b.2.2))
  else if !hasRef then (3, (0, 0))
  else if 2 ≤ vs.length then (1, (lowerMedian (vs.map (·.2.1)), lowerMedian (vs.map (·.2.2))))
  else (2, (0, 0))

/-- The planes of a picture: number, first sample, width, height, and the luma samples that one of theirs spans. -/
def planesOf (chroma w h : Nat) : List (Nat × Nat × Nat × Nat × Nat × Nat) :=
  let c := chromaDims chroma w h
  let s := if chroma = 1 then (2, 2) else if chroma = 2 then (2, 1) else (1, 1)
  [(0, 0, w, h, 1, 1), (1, w * h, c.1, c.2, s.1, s.2), (2, w * h + c.1 * c.2, c.1, c.2, s.1, s.2)]

/-- The samples of a picture after concealment: as decoded, a motion-compensated or co-located copy from the nearest
reference, or the mid value. A block that the codec predicted from an absent reference stands as it predicted it. -/
def concealed (codec w h depth chroma : Nat) (raw : List Nat) (bs : List (Nat × Int × Int)) (ref : Option (List Nat)) : List Nat :=
  let bw := ceilDiv w 16
  (planesOf chroma w h).flatMap (fun p => match p with
    | (k, base, pw, ph, sx, sy) => (List.range ph).flatMap (fun y => (List.range pw).map (fun x =>
        let i := base + y * pw + x
        let b := (y * sy / 16) * bw + x * sx / 16
        let c := conceal bw bs ref.isSome b
        let r := ref.getD []
        (if c.1 = 0 ∨ (bs.getD b (1, 0, 0)).1 = 2 then raw.getD i 0
         else if c.1 = 1 then Config.mcSample codec r w h chroma k x y c.2
         else if c.1 = 2 then r.getD i 0
         else 2 ^ (depth - 1)) % 2 ^ depth)))

/-- R204: the formats and depths that the engines decode. -/
def decodable (codec chroma depth : Nat) : Bool :=
  (depth == 8 || depth == 10) && (if codec = 0 then chroma ≤ 3 else chroma ≤ 1 || (chroma == 3 && depth == 10))

/-- What decoding has come to: units, pictures before film grain with the newest first, what is to be output in decoding
order, and whether a bad header stopped it. -/
structure Decoding where
  units : List (List Byte)
  refs : List DecPic
  made : List DecPic
  stop : Bool
  deriving DecidableEq, Repr

/-- One picture of a unit. -/
def decodeOne (codec : Nat) (z : Decoding) (u : List Byte) (k w h depth chroma : Nat) (key grain : Bool) : Decoding :=
  let y := Config.codedPicture codec z.units u k (z.refs.map (·.samples))
  let ref := (y.2.2.bind (fun i => z.refs[i]?)).map (·.samples)
  let bw := ceilDiv w 16
  let pic : DecPic := {
    width := w, height := h, depth := depth, chroma := chroma, key := key, samples := concealed codec w h depth chroma y.1 y.2.1 ref,
    emap := (List.range (bw * ceilDiv h 16)).map (fun i => (conceal bw y.2.1 ref.isSome i).1) }
  let shown := if grain then { pic with samples := (Config.filmGrain u k pic.samples).map (· % 2 ^ depth) } else pic
  { z with refs := (pic :: z.refs).take (stateSlots codec), made := z.made ++ [shown] }

/-- One unit: R209's headers stop the decoding. -/
def decodeUnit (q : Stream) (z : Decoding) (u : List Byte) : Decoding :=
  if z.stop then z
  else match Config.headerOf q.codec z.units u with
    | (ok, w, h, depth, chroma, key, _, grain) =>
      if !ok || !decodable q.codec chroma depth || q.maxW < w || q.maxH < h then { z with stop := true }
      else
        let z := (List.range (Config.startsIn q.codec u)).foldl (fun z k => decodeOne q.codec z u k w h depth chroma key grain) z
        { z with units := z.units ++ [u] }

/-- R209: a unit that decoding can start from again. -/
def restarts (codec : Nat) (before : List (List Byte)) (u : List Byte) : Bool := (Config.headerOf codec before u).2.2.2.2.2.2.1

/-- The pictures in output order: those that the order names, then the rest, so that every one comes out (R206). -/
def inOutputOrder (order : List Nat) (ps : List DecPic) : List DecPic :=
  let o := (order.filter (· < ps.length)).eraseDups
  (o ++ (List.range ps.length).filter (fun i => !o.contains i)).filterMap (fun i => ps[i]?)

/-- R206, R209: the work of a DEC_DATA. -/
def Dev.decJob (d : Dev) (x : Flight) (q : Stream) : DecJob :=
  let us := d.decUnits x q
  let us' := if q.skip then us.dropWhile (fun u => !restarts q.codec q.units u) else us
  let z := us'.foldl (decodeUnit q) { units := q.units, refs := q.pics, made := [], stop := false }
  let stop := z.stop || startsOf q.codec us == 0
  { todo := inOutputOrder (Config.outputOrder q.codec q.units us') z.made, done := 0, stop := stop, units := z.units, pics := z.refs,
    skip := stop || (q.skip && us'.isEmpty) }

def DecPic.concealed (p : DecPic) : Nat := (p.emap.filter (· != 0)).length

/-- Writes output k of a command: its picture, its record (Table 10.6) and its error map (R208). -/
def Dev.output (d : Dev) (x : Flight) (q : Stream) (k : Nat) (p : DecPic) : Dev :=
  let a := q.slotAddr k
  let d := d.writePlanes a (slotPitch q.maxW) p.chroma p.width p.height p.depth (p.samples.flatMap (bytesLE 2))
  let rec' := wordsLE [q.ordinal % 2 ^ 32, (p.height % 65536) * 65536 + p.width % 65536,
      b2n (p.concealed != 0) * 1024 + b2n p.key * 512 + (p.depth % 16) * 16 + p.chroma % 4, k] ++
    bytesLE 8 a ++ wordsLE ([slotPitch q.maxW, p.concealed] ++ List.replicate 8 0)
  let d := d.hbmWrite (q.buffer + 64 * k) rec'
  if x.d 6 = 0 then d else d.hbmWrite (x.d 6 + k * q.mapBytes) (sliceB (p.emap.map (BitVec.ofNat 8)) 0 q.mapBytes)

/-- The end of a DEC_DATA: the references are kept for the next (R206). -/
def Dev.decEnd (d : Dev) (f : Nat) (x : Flight) (j : DecJob) : Dev :=
  let d := d.updStream x.streamId (fun q => { q with units := j.units, pics := j.pics, skip := j.skip, job := none })
  let c := (KV.find d.flights f).elim (0, 0) (fun y => (y.countA, y.countB))
  d.finish f (if j.stop then .mediaSyntax else .ok) c.1 c.2

/-- The next picture of a DEC_DATA in output order: written unless discarded, and counted. The decoding state's bytes
are the decoder's own: free values. -/
def Dev.decPicture (d : Dev) (f : Nat) (x : Flight) (q : Stream) : Dev :=
  match q.job with
  | none => d
  | some j =>
    let y := d.freeBytes (stateSlots q.codec * slotBytes q.maxW q.maxH)
    let d := y.1.hbmWrite (q.buffer + 16384) y.2
    match j.todo with
    | [] => d.decEnd f x j
    | p :: rest =>
      let k := j.done - x.discards
      let shows := x.discards ≤ j.done && k < x.allow
      let j' : DecJob := { j with todo := rest, done := j.done + 1 }
      let d := if shows then d.output x q k p else d
      let d := d.updStream x.streamId (fun q => { q with job := some j', ordinal := q.ordinal + 1, coded := q.coded + 1 })
      let d := d.updFlight f (fun y => { y with
        countA := y.countA + b2n shows, countB := y.countB + p.concealed, flags := setFlagIf (p.concealed != 0) y.flags fConcealed })
      if rest.isEmpty then d.decEnd f x j' else d

/-! ### Engines at picture boundaries (R37, R189) -/

/-- A command begins to run: its start tick, and the flags of conditions that hold now (R39, R295). -/
def Dev.beginRun (d : Dev) (id : Nat) : Dev :=
  d.updFlight id (fun f => { f with
    phase := .running, gtcStart := d.gtc.val, startNow := d.now,
    flags := setFlagIf d.supply.warn (setFlagIf d.throttled f.flags fThrottled) fVdroop })

/-- The picture that a stream offers its engine: the command that holds the next number, or the DEC_DATA
fetched first. -/
def Dev.offered (d : Dev) (h : Nat) (q : Stream) : Option Nat :=
  if q.closing.isSome then none
  else if q.enc then q.ready.find? (fun f => (KV.find d.flights f).elim false (fun x => x.phase == .running && x.picture == q.next))
  else match (d.flightsWhere (fun _ x => x.opcode == 0x64 && x.streamId == h && x.phase != .finished)).head? with
    | none => none
    | some f => if (KV.find d.flights f).elim false (fun x => x.phase == .running) && (q.ready.contains f || q.job.isSome) then some f else none

/-- R37: the higher priority first, then the earlier fetched. -/
def Dev.firstOf (d : Dev) : List Nat → Option Nat
  | [] => none
  | f :: t => match d.firstOf t with
    | none => some f
    | some g =>
      let p := fun k => (KV.find d.flights k).elim 0 Flight.priority
      if p f < p g || (p f == p g && g < f) then some g else some f

/-- The engine takes up the next picture of a DEC_DATA; the first reads the data. -/
def Dev.startDecode (d : Dev) (nv : NonVol) (e f : Nat) (x : Flight) (q : Stream) (mf : MemFault) : Dev :=
  let z := if q.job.isSome then (d, none) else (d.beginRun f).memFault nv f mf
  match z.2.orElse (fun _ => if q.job.isSome then none else z.1.poisoned (x.d 3) (x.w 5)) with
  | some a => z.1.finishMem f a
  | none =>
    let d := z.1
    let j := q.job.getD (d.decJob x q)
    { d with
      streams := KV.put d.streams x.streamId { q with ready := q.ready.filter (· != f), job := some j },
      engines := KV.put d.engines e { stream := x.streamId, flight := f, picture := j.done, key := false, units := [], waiting := [], slices := 0,
                                      bytesOut := 0, isOver := false, stopped := false } }

/-- MEDIA_PICTURE_START: the engine takes the next ready picture. Supply warnings pause the engines (R203, R330). -/
def Dev.pictureStart (d : Dev) (nv : NonVol) (e : Nat) (mf : MemFault) : Dev :=
  if KV.has d.engines e || d.supply.warn || !d.pll.contains .media then d
  else
    let fs := (KV.keep d.streams (fun _ q => q.engine == e)).filterMap (fun s => d.offered s.1 s.2)
    match d.firstOf fs with
    | none => d
    | some f => match KV.find d.flights f with
      | none => d
      | some x => match KV.find d.streams x.streamId with
        | none => d
        | some q => if q.enc then (d.beginRun f).startEncode nv e f x q mf else d.startDecode nv e f x q mf

def execMediaPictureStart (e : Nat) (mf : MemFault) (s : State) : Res := onDevR s fun nv _ d => d.pictureStart nv e mf

/-- R210: the commands of a stream end with ST_ABORTED and what they have reached, and its handle is free. -/
def Dev.closeStream (d : Dev) (f h : Nat) (q : Stream) : Dev :=
  let ids := d.flightsWhere (fun k x => k != f && (x.opcode == 0x61 || x.opcode == 0x62 || x.opcode == 0x64 || x.opcode == 0x65) &&
    x.streamId == h && x.paddock == q.paddock && x.phase != .finished)
  let d := ids.foldl (fun d id => d.finish id .aborted (d.reached id).1 (d.reached id).2) d
  (Dev.finish { d with streams := KV.del d.streams h } f .ok (q.coded % 2 ^ 32) 0).dropPlls

/-- A MEDIA_CLOSE that waited for the picture. -/
def Dev.closeIfDue (d : Dev) (h : Nat) : Dev :=
  match KV.find d.streams h with
  | none => d
  | some q => match q.closing with
    | none => d
    | some f =>
      if d.engines.vals.any (fun e => e.stream == h) || (KV.find d.flights f).elim true (fun x => x.opcode != 0x65) then d
      else d.closeStream f h q

/-- R195: commands that name a number already coded. -/
def Dev.dropCoded (d : Dev) (h : Nat) : Dev :=
  match KV.find d.streams h with
  | none => d
  | some q =>
    (q.ready.filter (fun f => (KV.find d.flights f).elim false (fun x => 63 < q.ahead x.picture))).foldl (fun d f => d.finish f .badParam 0 0) d

/-- The end of an encoded picture, once every unit of it has left (R196, R201, R202). -/
def Dev.encodeEnd (d : Dev) (en : Nat) : Dev :=
  match KV.find d.engines en with
  | none => d
  | some e =>
    if e.stopped || !e.units.isEmpty then d
    else
      let d := d.updStream e.stream (fun q => { q with coded := q.coded + 1 })
      ((d.finish e.flight (if e.isOver then .mediaOvershoot else .ok) e.bytesOut e.slices).dropCoded e.stream).closeIfDue e.stream

/-- MEDIA_PICTURE_DONE: up to `upto` further units of the engine's picture are complete, or all of it. -/
def Dev.pictureDone (d : Dev) (en : Nat) (upto : Option Nat) : Dev :=
  match KV.find d.engines en with
  | none => d
  | some e =>
    match KV.find d.flights e.flight, KV.find d.streams e.stream with
    | some x, some q =>
      if q.enc then (if e.stopped then d else (d.unitsDone en (upto.getD e.units.length)).encodeEnd en)
      else
        let d := d.decPicture e.flight x q
        Dev.closeIfDue { d with engines := KV.del d.engines en } e.stream
    | _, _ => { d with engines := KV.del d.engines en }

def execMediaPictureDone (e : Nat) (upto : Option Nat) (credits : Nat) (s : State) : Res := onDev s fun d =>
  let d := d.grantCredit e credits
  if d.supply.warn then d else d.pictureDone e upto

/-- Room or credit has appeared: what waits is emitted, and a picture with nothing left to code ends. -/
def Dev.outputResume (d : Dev) (en : Nat) : Dev :=
  match KV.find d.engines en with
  | none => d
  | some e => if e.stopped then (d.emitAll en e e.waiting).encodeEnd en else d

def execEncOutputResume (e credits : Nat) (s : State) : Res := onDev s fun d => (d.grantCredit e credits).outputResume e

/-- MEDIA_CLOSE (R210). -/
def execMediaClose (f : Nat) (s : State) : Res := onDev s fun d => d.onFlight f 0x65 fun x =>
  match KV.find d.streams x.streamId with
  | none => d.finish f .badParam 0 0
  | some q =>
    if d.engines.vals.any (fun e => e.stream == x.streamId) then d.updStream x.streamId (fun q => { q with closing := some (q.closing.getD f) })
    else d.closeStream f x.streamId q

end Sys2Proof.Machine
end

