-- ==== Sys2Proof/Machine/Paddocks.lean ====
section
/-! DEFINITION. Paddocks: creation, rotation sets and their switches, teardown (chapter 14, R26, R280 to R288, R323). -/
namespace Sys2Proof.Machine
open Sys2Proof

/-! ### PADDOCK_CREATE (R280 to R284) -/

def Flight.cls (x : Flight) : Option PClass :=
  match fld (x.w 2) 0 2 with
  | 0 => some .ordinary
  | 1 => some .reserved
  | 2 => some .maintenance
  | _ => none

/-- The paddock as the command asks for it. -/
def Flight.newPad (x : Flight) (cls : PClass) (now : Nat) (first : Bool) : Paddock :=
  { cls := cls, shedMask := x.w 3, dedFirst := fld (x.w 4) 0 10, dedCount := fld (x.w 4) 16 10, vcShares := x.w 5, hbmMap := [], hbmGen := 0,
    hostMap := [], hostGen := 0, pool := none, tolNs := 800, isIn := first, inSince := now, ctxSlots := [] }

/-- R283: the share on virtual channel v. -/
def Paddock.share (p : Paddock) (v : Nat) : Nat := if fld p.vcShares (8 * v) 8 = 0 then 16 else fld p.vcShares (8 * v) 8

/-- Table 14.1: the masks of two paddocks may stand side by side. -/
def masksOk (a b : Paddock) : Bool :=
  (a.shedMask &&& b.shedMask) == 0 ||
    (a.shedMask == b.shedMask &&
      ((a.cls == .ordinary && b.cls != .maintenance) || (a.cls == .reserved && b.cls == .ordinary)))

/-- R281: the dedicated stacks are taken or hold something. -/
def Dev.dedicatedBad (d : Dev) (p : Paddock) : Bool :=
  let a := p.dedFirst / 32 * stackBytes
  let n := p.dedCount / 32 * stackBytes
  let hits := fun v => overlaps a n (regionBase v) (regionLen v)
  p.dedFirst % 32 != 0 || p.dedCount % 32 != 0 || 768 < p.dedFirst + p.dedCount || (p.dedCount != 0 && p.cls != .reserved) ||
    d.pads.vals.any (fun q => q.hitsDedicated a n || q.hbmMap.any (fun e => overlaps a n e.1 e.2)) ||
    hits (d.feature 0x0100) || hits (d.feature 0x0101)

/-- The slots of the context store that paddocks hold. -/
def Dev.ctxHeld (d : Dev) : List Nat := d.pads.vals.flatMap (·.ctxSlots)
/-- R281, R284: the context store lacks room for a paddock that joins a set. -/
def Dev.ctxLacks (d : Dev) (p : Paddock) : Bool :=
  let set := d.pads.vals.filter (fun q => q.shedMask == p.shedMask)
  let more := (shedsOf p.shedMask).length * ((set.filter (·.ctxSlots.isEmpty)).length + 1)
  !set.isEmpty && regionLen (d.feature 0x0101) < contextSlot * (d.ctxHeld.length + more)

/-- R284: a member of a set takes its room: the lowest slots that are free (DESIGN CHOICE, log 15). -/
def Dev.giveRoom (d : Dev) (pad : Nat) : Dev :=
  match d.pad pad with
  | none => d
  | some p =>
    let n := (shedsOf p.shedMask).length
    if p.ctxSlots.isEmpty then
      { d with pads := KV.put d.pads pad { p with
          ctxSlots := ((List.range (d.ctxHeld.length + n)).filter (fun i => !d.ctxHeld.contains i)).take n } }
    else d

/-- R288: the ID becomes free when the completion of the PADDOCK_DESTROY is written. -/
def Dev.idInUse (d : Dev) (pad : Nat) : Bool :=
  KV.has d.pads pad || d.flights.any (fun e => e.2.opcode == 0x05 && e.2.paddock == pad && e.2.phase == .finished)

/-- R281: the command completes with ST_BAD_PARAM. -/
def createBad (nv : NonVol) (d : Dev) (x : Flight) : Bool :=
  match x.cls with
  | none => true
  | some cls =>
    let p := x.newPad cls d.now true
    let set := d.setOf p.shedMask
    x.paddock == 0xFFF || d.idInUse x.paddock || 32 ≤ d.pads.length || p.shedMask == 0 ||
      (shedsOf p.shedMask).any (fun s => !nv.inService s) || d.pads.vals.any (fun q => !masksOk p q) || 8 ≤ set.length || d.dedicatedBad p ||
      (cls == .reserved && (List.range 4).any (fun v =>
        192 < p.share v + ((d.pads.vals.filter (fun q => q.cls == .reserved)).map (fun q => q.share v)).sum)) ||
      d.ctxLacks p ||
      (cls == .reserved && d.plans.vals.any (fun q => set.contains q.paddock && (d.planImg q).buckets.isEmpty))

/-- R281: the good channels of the dedicated stacks. -/
def NonVol.dedicatedChans (nv : NonVol) (p : Paddock) : Nat :=
  ((rangeFrom (p.dedFirst / 32) (p.dedCount / 32)).map (fun s => (nv.goodChans s).length)).sum

def Dev.createPad (d : Dev) (nv : NonVol) (f : Nat) (x : Flight) (cls : PClass) : Dev :=
  let first := (d.setOf (x.w 3)).isEmpty
  let p := x.newPad cls d.now first
  let d := { d with pads := KV.put d.pads x.paddock p, restSince := d.now }
  let d := if first then d.clearSheds (shedsOf p.shedMask) else (d.setOf p.shedMask).foldl Dev.giveRoom d
  (d.fitTargets nv (shedsOf p.shedMask)).finish f .ok (shedsOf p.shedMask).length (nv.dedicatedChans p)

def execPaddockCreate (f : Nat) (s : State) : Res := onDevR s fun nv _ d => d.onFlight f 0x04 fun x =>
  match x.cls with
  | none => d.finish f .badParam 0 0
  | some cls => if createBad nv d x then d.finish f .badParam 0 0 else d.createPad nv f x cls

/-! ### Saving and restoring shed contents (R284, R287) -/

/-- R66: the physical cores of a shed in the order of the logical ones: those of the paddock's run while it has one, which
keeps its own, else those in service. -/
def Dev.coreMap (d : Dev) (nv : NonVol) (pad shed : Nat) : List Nat :=
  ((d.runs.vals.find? (fun r => r.paddock == pad && r.started)).bind (fun r => (r.sheds.vals.find? (fun x => x.phys == shed)).map (·.cores))).getD
    (nv.logical shed)

/-- The logical core that a physical one is under a map, and back. -/
def toLogical (m : Nat → List Nat) (shed core : Nat) : Option Nat :=
  if (m shed).contains core then some ((m shed).findIdx (· == core)) else none
def toPhysical (m : Nat → List Nat) (shed core : Nat) : Option Nat := (m shed)[core]?

/-- The key of a core with the core renamed. -/
def renameKey (g : Nat → Nat → Option Nat) (k : Nat) : Option Nat := (g (k / 72) (k % 72)).map (coreKey (k / 72))
def renameKV {α : Type} (g : Nat → Nat → Option Nat) (t : KV α) : KV α :=
  t.foldl (fun u e => (renameKey g e.1).elim u (fun k => KV.put u k e.2)) []

/-- Accumulators, soft-maximum groups and ABSENT marks of the sheds of a mask, by logical core. -/
def Dev.contents (d : Dev) (m : Nat → List Nat) (mask : Nat) : SavedPad :=
  let here := fun k => bitOf mask (k / 72)
  { acc := renameKV (toLogical m) (KV.keep d.acc (fun k _ => here k)),
    soft := renameKV (toLogical m) (KV.keep d.soft (fun k _ => here k)),
    absent := (d.absent.filter (fun a => here a.1)).filterMap (fun a => (renameKey (toLogical m) a.1).map (fun k => (k, a.2))) }

/-- Each shed of a paddock with the HBM address of its slot. -/
def Dev.padSlots (d : Dev) (p : Paddock) : List (Nat × Nat) :=
  (shedsOf p.shedMask).zip (p.ctxSlots.map (fun i => regionBase (d.feature 0x0101) + contextSlot * i))

/-- The outgoing paddock's contents go to its room in the context store; what the save area holds comes back first. -/
def Dev.savePad (d : Dev) (nv : NonVol) (pad : Nat) (p : Paddock) : Dev :=
  let m := d.coreMap nv pad
  let d := (shedsOf p.shedMask).foldl (fun d s => d.unsaveShed nv s) d
  let d := { d with saved := KV.put d.saved pad (d.contents m p.shedMask) }
  (d.padSlots p).foldl (fun d e => d.storeShed e.2 e.1 (m e.1)) d

/-- The incoming paddock's contents return from its room; a paddock that saved nothing finds its sheds cleared. -/
def Dev.restorePad (d : Dev) (nv : NonVol) (pad : Nat) (p : Paddock) : Dev :=
  let m := d.coreMap nv pad
  let d := d.clearSheds (shedsOf p.shedMask)
  match KV.find d.saved pad with
  | none => d
  | some x =>
    let d := (d.padSlots p).foldl (fun d e => d.loadShed e.2 e.1 (m e.1)) d
    { d with
      saved := KV.del d.saved pad,
      acc := (renameKV (toPhysical m) x.acc).foldl (fun t e => KV.put t e.1 e.2) d.acc,
      soft := (renameKV (toPhysical m) x.soft).foldl (fun t e => KV.put t e.1 e.2) d.soft,
      absent := x.absent.filterMap (fun a => (renameKey (toPhysical m) a.1).map (fun k => (k, a.2))) ++ d.absent }

/-! ### Switching (R285 to R287) -/

/-- The run of a paddock that runs and is not suspended, its first step begun or not. -/
def Dev.activeRun (d : Dev) (pad : Nat) : Option (Nat × Run) :=
  d.runs.find? (fun e => e.2.paddock == pad && !e.2.suspended && (e.2.started || (KV.find d.flights e.1).elim false (fun f => f.phase == .running)))

def Dev.isCls (d : Dev) (p : Nat) (c : PClass) : Bool := (d.pad p).elim false (fun q => q.cls == c)

/-- R285: the incoming member, among those with demand. -/
def Dev.incoming (d : Dev) (mask : Nat) (out : Option Nat) : Option Nat :=
  let ms := (d.setOf mask).filter (fun p => some p != out && d.demand p)
  match ms.find? (fun p => d.isCls p .reserved) with
  | some p => some p
  | none => match ms.find? (fun p => out.elim true (fun o => o < p)) with
    | some p => some p
    | none => ms.head?

/-- R286: the outgoing paddock's run is charged with the time OUT. -/
def Dev.goOut (d : Dev) (pad : Nat) : Dev :=
  { d with flights := KV.mapV d.flights (fun _ f =>
      if f.opcode = 0x11 ∧ f.paddock = pad ∧ f.phase = .running then { f with outSince := some d.now } else f) }
def Dev.comeIn (d : Dev) (pad : Nat) : Dev :=
  { d with flights := KV.mapV d.flights (fun _ f =>
      if f.paddock = pad then (match f.outSince with
        | some t => { f with outNs := f.outNs + (d.now - t), outSince := none }
        | none => f) else f) }

/-- The switch starts: the outgoing contents are saved, the sheds are woken (R297), and the incoming member is the one that
R285 now names, `inn` when none has demand any more. -/
def Dev.switchGo (d : Dev) (nv : NonVol) (mask : Nat) (out : Option Nat) (inn : Nat) : Dev :=
  let inn := (d.incoming mask out).getD inn
  let d := (d.yieldAll (fun k => bitOf mask (k / 72))).wakeSheds (shedsOf mask) .run
  let d := match out.bind (fun o => (d.pad o).map (fun p => (o, p))) with
    | none => d
    | some (o, p) => Dev.goOut (let d := d.savePad nv o p; { d with pads := KV.upd d.pads o (fun p => { p with isIn := false }) }) o
  { d with switches := KV.put d.switches mask { outgoing := out, incoming := inn, since := d.now, started := true } } |>.markHeld

/-- A switch is decided: at once when no run is under way, and otherwise at the end of the running step.
A run that waits at a step boundary leaves there. -/
def Dev.switchDecide (d : Dev) (nv : NonVol) (mask : Nat) (out : Option Nat) (inn : Nat) : Dev :=
  match out.bind d.activeRun with
  | none => d.switchGo nv mask out inn
  | some (id, r) =>
    if r.stepOn then
      Dev.updRun { d with switches := KV.put d.switches mask { outgoing := out, incoming := inn, since := d.now, started := false } } id
        (fun r => { r with preempt := true })
    else match d.runPlan r with
      | none => d
      | some p =>
        let d := if d.coupled r p then d.failFlight id .preempted else d.updRun id (fun r => { r with suspended := true })
        d.switchGo nv mask out inn

/-- PADDOCK_SWITCH: rules 1 and 2 of R285, and the start of a switch whose step has ended. -/
def Dev.paddockSwitch (d : Dev) (nv : NonVol) (mask : Nat) : Dev :=
  match KV.find d.switches mask with
  | some w =>
    if w.started then d
    else if (w.outgoing.bind d.activeRun).isSome then d
    else d.switchGo nv mask w.outgoing w.incoming
  | none =>
    let cur := d.inOf mask
    match d.incoming mask cur with
    | none => d
    | some i =>
      match cur with
      | none => d.switchDecide nv mask none i
      | some o =>
        if (d.isCls i .reserved && !d.isCls o .reserved) || !d.demand o then d.switchDecide nv mask (some o) i else d

def execPaddockSwitch (mask : Nat) (s : State) : Res := onDevR s fun nv _ d => d.paddockSwitch nv mask

/-- Rule 3: 10 ms IN, and another ordinary member has demand; never while the run is coupled. -/
def Dev.turnExpiry (d : Dev) (nv : NonVol) (mask : Nat) : Dev :=
  match d.inOf mask with
  | none => d
  | some o =>
    let x := d.pad o
    let others := (d.setOf mask).filter (fun p => p != o && d.isCls p .ordinary && d.demand p)
    let coupled := match d.activeRun o with
      | none => false
      | some (_, r) => match d.runPlan r with
        | none => false
        | some p => d.coupled r p
    match d.incoming mask (some o) with
    | none => d
    | some i =>
      if KV.has d.switches mask || !d.isCls o .ordinary || others.isEmpty || coupled || !x.elim false (fun p => d.elapsed p.inSince 10000000) then d
      else d.switchDecide nv mask (some o) i

def execPaddockTurnExpiry (mask dt : Nat) (s : State) : Res := onDevR s fun nv _ d => (d.advance dt).turnExpiry nv mask

/-- The suspended run of a paddock goes on at its next step (R286); one that PLAN_RUN had not begun may begin. -/
def Dev.resumeRun (d : Dev) (pad : Nat) : Dev :=
  match d.runs.find? (fun e => e.2.paddock == pad && e.2.suspended) with
  | none => d
  | some (id, r) =>
    let d := d.updRun id (fun r => { r with suspended := false, preempt := false })
    if r.started then d.stepBegin id else d

/-- PADDOCK_SWITCH_DONE: the sheds run, the incoming contents are restored, and the paddock is IN. -/
def Dev.switchDone (d : Dev) (nv : NonVol) (mask : Nat) : Dev :=
  match KV.find d.switches mask with
  | none => d
  | some w =>
    if !w.started || (shedsOf mask).any (fun s => nv.inService s && (d.shed s).power != .run) then d
    else
      let d := { d with switches := KV.del d.switches mask }
      let d := match d.pad w.incoming with
        | some p => d.restorePad nv w.incoming p
        | none => d.clearSheds (shedsOf mask)
      let d := { d with pads := KV.upd d.pads w.incoming (fun p => { p with isIn := true, inSince := d.now }) }
      (d.comeIn w.incoming).resumeRun w.incoming

def execPaddockSwitchDone (mask : Nat) (s : State) : Res := onDevR s fun nv _ d => d.switchDone nv mask

/-! ### Teardown (R26, R210, R288, R323, R341) -/

/-- A switch that has started holds back what would act on its set (R287). -/
def Dev.switchHolds (d : Dev) (mask : Nat) : Bool := (KV.find d.switches mask).elim false (·.started)

/-- A switch that is decided and not started is dropped when its incoming paddock goes. -/
def Dev.dropSwitch (d : Dev) (mask pad : Nat) : Dev :=
  match KV.find d.switches mask with
  | none => d
  | some w =>
    if w.started || (w.incoming != pad && w.outgoing != some pad) then d
    else
      let d := { d with switches := KV.del d.switches mask }
      match w.outgoing with
      | none => d
      | some o => if o = pad then d else match d.activeRun o with
        | some (id, _) => d.updRun id (fun r => { r with preempt := false })
        | none => d.resumeRun o

/-- R26: the queues of a paddock are torn down and stay bound, STOPPED; answers the commands taken out of
flight and the queues. -/
def Dev.teardownQueues (d : Dev) (pad keep : Nat) : Dev × Nat × Nat :=
  let qs := (KV.keep d.queues (fun q x => q != 0 && x.state != .unbound && x.paddock == pad)).keys
  let z := qs.foldl (fun (z : Dev × Nat) q => let t := z.1.teardownQueue q keep .stopped; (t.1, z.2 + t.2.1)) (d, 0)
  (z.1, z.2, qs.length)

/-- R26: every other command on queue 0 that names the paddock. -/
def Dev.abortQ0 (d : Dev) (pad keep : Nat) : Dev × Nat :=
  let ids := d.flightsWhere (fun k x => x.queue == 0 && k != keep && x.paddock == pad && x.phase != .finished)
  (ids.foldl (fun d id =>
    let c := d.reached id
    (d.failColl id .aborted).finish id .aborted c.1 c.2) d, ids.length)

/-- What a paddock's commands made: streams, plans, groups and sequences go, and its queue pairs fail. -/
def Dev.dropMade (d : Dev) (pad : Nat) : Dev :=
  let d := (KV.keep d.seqs (fun _ q => q.paddock == pad)).keys.foldl Dev.dropSeq d
  Dev.dropPlls { d with
    streams := KV.keep d.streams (fun _ q => q.paddock != pad),
    plans := KV.keep d.plans (fun _ p => p.paddock != pad),
    groups := KV.keep d.groups (fun _ g => g.paddock != pad),
    qps := KV.mapV d.qps (fun _ q => if q.paddock = pad then { q with error := true } else q),
    saved := KV.del d.saved pad }

/-- Everything that R26, R288 and R323 take from a paddock; answers commands aborted and queues stopped. -/
def Dev.teardownPad (d : Dev) (pad keep : Nat) (p : Paddock) : Dev × Nat × Nat :=
  let z := d.teardownQueues pad keep
  let y := z.1.abortQ0 pad keep
  let d := (y.1.dropMade pad).dropSwitch p.shedMask pad
  let d := if p.isIn then d.clearSheds (shedsOf p.shedMask) else d
  (d, z.2.1 + y.2, z.2.2)

/-- R210: streams are closed as MEDIA_CLOSE closes them: the picture that an engine works on ends first. An engine that waits
for room in its ring is not waited for: a teardown never waits for the host (R26; log 55). -/
def Dev.picturesPend (d : Dev) (p : Stream → Bool) : Bool :=
  d.engines.vals.any (fun e => !e.stopped && (KV.find d.streams e.stream).elim false p)
def Dev.markClosing (d : Dev) (f : Nat) (p : Stream → Bool) : Dev :=
  { d with streams := KV.mapV d.streams (fun _ q => if p q then { q with closing := some (q.closing.getD f) } else q) }

def execPaddockDestroy (f : Nat) (s : State) : Res := onDev s fun d => d.onFlight f 0x05 fun x =>
  match d.pad x.paddock with
  | none => d.finish f .notInPaddock 0 0
  | some p =>
    if d.switchHolds p.shedMask then d
    else if d.picturesPend (fun q => q.paddock == x.paddock) then d.markClosing f (fun q => q.paddock == x.paddock)
    else
      let z := d.teardownPad x.paddock f p
      Dev.finish { z.1 with pads := KV.del z.1.pads x.paddock, restSince := z.1.now } f .ok z.2.1 z.2.2

/-- R323, R328: the paddock stays; its pool is empty, and the reset is reported to it. -/
def execPaddockReset (f : Nat) (s : State) : Res := onDev s fun d => d.onFlight f 0xF1 fun x =>
  match d.pad x.paddock with
  | none => d.finish f .notInPaddock 0 0
  | some p =>
    if d.switchHolds p.shedMask then d
    else if d.picturesPend (fun q => q.paddock == x.paddock) then d.markClosing f (fun q => q.paddock == x.paddock)
    else
      let z := d.teardownPad x.paddock f p
      let d := z.1.setPool x.paddock (fun q => { q with refs := [], swapUsed := [] })
      let d := d.postP evSettingsDefaulted x.paddock 2 [0x0078, 0]
      (d.postP evResetDone x.paddock 2 [z.2.1, 0, 0]).finish f .ok z.2.1 0

end Sys2Proof.Machine
end

