-- ==== Sys2Proof/Machine/Resets.lean ====
section
/-! DEFINITION. Warm and module resets, cold start, supply and reference events that reset, shed resets, the thermal trip (R48, R292, R311, R319 to R329, R343 to R345, R361). -/
namespace Sys2Proof.Machine
open Sys2Proof

/-! ### Warm reset (R319, R320, R322, R326) -/

/-- R326: a module reset, the trip, a lost supply or reference, a failed boot or a warm reset under way absorbs a warm reset. -/
def Dev.absorbsWarm (d : Dev) : Bool :=
  d.boot.reset.isSome || d.supply.trip || d.supply.off || !d.supply.ref || d.boot.fault

/-- Table 17.3, column Warm: features kept. -/
def warmFeature (k : Nat) : Bool :=
  k == 0x0100 || k == 0x0101 || k == 0x0300 || k == 0x0301 || k == 0x0401 || (0x0120 ≤ k && k ≤ 0x013F)

/-- R57: a message from firmware that is already FULL outlives the reset of its sender. -/
def keepFirmwareMail (f : Fn) : Fn :=
  { Fn.blank with mbox := (KV.keep f.mbox (fun m x => 4 ≤ m && x.full)).map (fun e => (e.1, { MboxSt.blank with data := e.2.data, full := true })) }

/-- R322: what a warm reset keeps; every other register, queue and content is at its reset value. -/
def Dev.warmCore (d : Dev) (cause : Nat) : Dev :=
  { Dev.reset with
    now := d.now, free := d.free, out := d.out, numVfs := if cause = 0 then d.numVfs else 0, aer := d.aer, nextFlight := d.nextFlight,
    fns := KV.mapV d.fns (fun _ f => keepFirmwareMail f),
    features := KV.keep d.features (fun k _ => warmFeature k), keys := d.keys,
    hbm := d.hbm, host := d.host, poison := d.poison, link := d.link, chanErr := d.chanErr, stackTab := d.stackTab,
    ports := KV.mapV d.ports (fun _ p => { Port.blank with cls := p.cls, off := p.off }),
    gtc := d.gtc, dies := d.dies,
    sheds := KV.mapV d.sheds (fun _ x => { Shed.blank with leaving := x.leaving, resets := x.resets }),
    supply := d.supply, pll := d.pll, restSince := d.now, cap := d.cap, capSince := d.capSince, capLast := d.capLast,
    fallow := d.fallow, i3c := d.i3c, jtag := d.jtag,
    boot := { d.boot with ready := false, resetActive := true, standbyAt := none, standbyWake := none,
                          reset := some { kind := 0, cause := cause, since := d.now } } }

/-- R57: the messages that firmware and the shed controllers have not released are lost with them. -/
def Dev.loseMail (d old : Dev) : Dev :=
  let lose := fun (d : Dev) (mb : Mbox) (source : Nat) =>
    let x := old.mbox mb
    if x.full || x.wake then
      ((d.setMbox mb { MboxSt.blank with aborted := true }).raiseMbox mb).postD evMboxAborted source [fld (x.data.getD 0 0).toNat 0 16]
    else d
  let d := old.fns.foldl (fun d e => [0, 1, 2, 3].foldl (fun d m => lose d (.host e.1 m) (m * 256 + e.1 * 65536)) d) d
  let d := (List.range 32).foldl (fun d s => lose d (.shed s) (1 + s * 256)) d
  old.rxMbox.foldl (fun d e => if e.2.mbox.full then
    d.postD evMboxAborted (2 + e.1 * 256 + (e.2.src % 0x4000) * 65536) [fld (e.2.mbox.data.getD 0 0).toNat 0 16] else d) d

/-- A warm reset begins; a reset of the host's function also resets the host end of its mailboxes (R57). -/
def Dev.beginWarm (d : Dev) (cause : Nat) : Dev :=
  if d.absorbsWarm then d
  else
    let w := ((d.warmCore cause).loseMail d).gtcFollow
    if cause = 0 then w else w.fns.keys.foldl Dev.hostEndReset w

def execPfFlr (s : State) : Res := onDev s fun d => d.beginWarm 5
/-- R333: the Link Status register, as PCI Express lays it out: the speed in [3:0] and the width in [9:4] (PRESUMED, log 68). -/
def Dev.linkStatus (d : Dev) : Nat := d.link.elim 0 (fun x => x.width * 16 + x.speed)

/-- The link trains again after a hot reset or a link-down (R333). -/
def execPcieHotReset (link : PcieLink) (s : State) : Res := onDev s fun d => { d.beginWarm 5 with link := some link }
def execPcieLinkDown (link : PcieLink) (s : State) : Res := onDev s fun d => { d.beginWarm 6 with link := some link }

/-! ### Reaching READY (R233, R319, R328) -/

def NonVol.mapOut (nv : NonVol) (cs : List Nat) : NonVol := { nv with chansOut := nv.chansOut ++ cs }
/-- The FAILING channels that are not yet mapped out. -/
def Dev.failing (d : Dev) (nv : NonVol) : List Nat :=
  (KV.keep d.chanErr (fun c x => x.failing && !nv.chansOut.contains c)).keys

/-- R233: a re-interleaved stack keeps none of its contents: each of its bytes is a free value. -/
def Dev.loseStack (d : Dev) (s : Nat) : Dev :=
  let z := d.freeBytes stackBytes
  { z.1 with hbm := z.1.hbm.writes (s * stackBytes) z.2, poison := z.1.poison.filter (fun w => w * 32 / stackBytes != s) }

/-- R233: FAILING channels are mapped out and reported; `wipe` when the stacks' contents are still there. -/
def mapOutFailing (nv : NonVol) (d : Dev) (wipe : Bool) : NonVol × Dev :=
  let cs := d.failing nv
  let nv := nv.mapOut cs
  let d := if wipe then ((cs.map (· / 32)).eraseDups).foldl Dev.loseStack d else d
  (nv, cs.foldl (fun d c => d.postD evHbmChannelOut c [768 - nv.chansOut.length]) { d with chanErr := [] })

/-- READY returns to 1: a held enable of queue 0 takes effect (R22) and the reset is reported (R328). -/
def Dev.readyUp (d : Dev) (kind bitmap cause : Nat) : Dev :=
  let d := { d with pll := allPlls, restSince := d.now,
                    boot := { d.boot with ready := true, resetActive := false, reset := none } }
  let d := d.dropPlls
  let d := if d.adm.held then d.admqStart else d
  d.postReset kind bitmap 0 cause 0

def execWarmResetDone (s : State) : Res := onNv s fun nv d =>
  match d.boot.reset with
  | none => (nv, d)
  | some r =>
    if r.kind = 0 then
      let z := mapOutFailing nv d true
      (z.1, z.2.readyUp 0 0x817F r.cause)
    else (nv, d)

/-! ### Module reset (R319, R320, R326, R361) -/

/-- R319: everything but the non-volatile area and the Hayloft is at its reset value. What the model keeps beside
them are its clock, the host's memory, the pins and what R233 maps out at the cold start. -/
def Dev.moduleCore (d : Dev) : Dev :=
  { Dev.reset with
    now := d.now, free := d.free, out := d.out, host := d.host, chanErr := d.chanErr, nextFlight := d.nextFlight,
    sheds := KV.mapV (KV.keep d.sheds (fun _ x => x.leaving)) (fun _ _ => { Shed.blank with leaving := true }),
    supply := { d.supply with warn := false, trip := false, tripCool := false, tripReset := false } }

/-- R57: the messages that the receivers had not released are lost with them: those to the device, and those to the hosts,
whose functions a module reset resets too. -/
def Dev.moduleMail (d old : Dev) : Dev :=
  let d := { d with fns := KV.mapV old.fns (fun _ f => keepFirmwareMail f) }.loseMail old
  old.fns.keys.foldl Dev.hostEndReset d

/-- A module reset under way goes on as it began (R326); a warm one is overtaken. -/
def Dev.beginModule (d : Dev) (cause : Nat) : Dev :=
  if d.boot.reset.elim false (fun r => r.kind == 1) then d
  else Dev.moduleMail { d.moduleCore with boot := { Boot.blank with reset := some { kind := 1, cause := cause, since := d.now } } } d

/-- PERST# asserted: in the trip the reset waits until all has cooled (R361). -/
def Dev.perstLow (d : Dev) : Dev :=
  let d := { d with supply := { d.supply with perst := false } }
  if !d.supply.trip then d.beginModule 1
  else if d.supply.tripCool then d.beginModule 1
  else { d with supply := { d.supply with tripReset := true } }

def execPerstAssert (s : State) : Res := onDev s fun d => d.perstLow
def execPerstDeassert (s : State) : Res := onDev s fun d => { d with supply := { d.supply with perst := true } }

/-- Table 17.4: below 38.0 V. In STANDBY the 48 V input may be absent (R301); a trip is left only through PERST# (R361). -/
def execVinBelow38V (mv : Nat) (s : State) : Res := onDev s fun d =>
  if 38000 ≤ mv then d
  else
    let d := { d with supply := { d.supply with mv48 := mv } }
    if d.devPower = .standby ∨ d.supply.trip then d else d.beginModule 2

/-- Table 17.4: the 12 V auxiliary below 10.8 V for 1 ms; the return is a power-on module reset. -/
def execAuxSupplyLoss (mv dt : Nat) (s : State) : Res := onDev s fun d =>
  let d := d.advance dt
  if mv < 10800 ∧ 1000000 ≤ dt then
    { d.moduleCore with
      supply := { d.supply with mvAux := mv, off := true, warn := false, trip := false, tripCool := false, tripReset := false },
      boot := { Boot.blank with reset := some { kind := 1, cause := 4, since := d.now } } }
  else d

/-- R292: the reference absent for more than 10 µs stops every PLL and holds the device in reset. -/
def execRefclkLoss (dt : Nat) (s : State) : Res := onDev s fun d =>
  let d := d.advance dt
  if 10000 < dt then
    let d := { d with pll := [], supply := { d.supply with ref := false, refSince := d.now } }
    if d.supply.trip then d else d.beginModule 3
  else d

/-- R292: the reference present for 1 ms; the module reset goes on to its cold start. -/
def execRefclkReturn (dt : Nat) (s : State) : Res := onDev s fun d =>
  let d := d.advance dt
  if 1000000 ≤ dt ∧ !d.supply.ref then { d with supply := { d.supply with ref := true, refSince := d.now } } else d

/-! ### The thermal trip (R361) -/

/-- 115 °C of a field die, 110 °C of an HBM stack or 95 °C of a Hayloft stack. -/
def Temps.trips (t : Temps) : Bool := 1150 ≤ t.die || 1100 ≤ t.hbm || 950 ≤ t.hay

/-- Every domain stops but the supervisor and the I3C target; it is no reset. -/
def execThermalTrip (temps : Temps) (s : State) : Res := onDev s fun d =>
  if !Temps.trips temps || d.supply.trip || d.supply.off then d
  else
    { d.moduleCore with
      supply := { d.supply with warn := false, trip := true, tripCool := false, tripReset := !d.supply.perst },
      i3c := { d.i3c with temps := temps, trip := true }, boot := { Boot.blank with reset := none } }

/-- Below 85 °C everywhere; a PERST# asserted in the trip then resets the module, with cause 1. -/
def execThermalTripCooled (temps : Temps) (s : State) : Res := onDev s fun d =>
  if !d.supply.trip || !(temps.die < 850 && temps.hbm < 850 && temps.hay < 850) then d
  else
    let d := { d with supply := { d.supply with tripCool := true }, i3c := { d.i3c with temps := temps } }
    if d.supply.tripReset then d.beginModule 1 else d

/-! ### Cold start (R311, R321, R343 to R345, Table 17.2) -/

/-- R344: a slot boots when its signature verifies and its version is not below the fused minimum. -/
def BootSlot.boots (x : BootSlot) (minSvn : Nat) : Bool := x.verifies && decide (minSvn ≤ x.svn)

/-- R343: the active slot, else the other; `active` names slot B. -/
def NonVol.bootSlot (nv : NonVol) : Option BootSlot :=
  let a := if nv.active then nv.slotB else nv.slotA
  let b := if nv.active then nv.slotA else nv.slotB
  if a.boots nv.minSvn then some a else if b.boots nv.minSvn then some b else none

/-- R345: m := SHA-384(m ‖ digest), and the extension's record. -/
def Boot.extend (b : Boot) (svn : Nat) (part : Nat × Nat × BitVec 384) : Boot :=
  let m := b.meas.getD part.1 0
  { b with
    meas := b.meas.set part.1 (Config.sha384 ((bytesLE 48 m.toNat) ++ bytesLE 48 part.2.2.toNat)),
    measLog := b.measLog ++ [(part.1, part.2.1, svn, part.2.2)] }

/-- R344: the image runs: its policy, its measurements, and the minimum version it raises. -/
def bootImage (nv : NonVol) (d : Dev) (x : BootSlot) : NonVol × Dev :=
  ({ nv with minSvn := if bitOf x.policy 3 then max nv.minSvn x.svn else nv.minSvn },
   { d with boot := x.parts.foldl (fun b p => b.extend x.svn p) { d.boot with policy := x.policy } })

/-- R311: one sweep of every core that is not retired. -/
def coldSweep (nv : NonVol) (d : Dev) (fails : List (Nat × Nat × Nat)) : NonVol × Dev :=
  let cores := (List.range 32).flatMap (fun s => (nv.good s).map (fun c => (s, c)))
  let z := runSlices (List.range 8) fails sliceCause cores nv d
  let d := { z.2.1 with cores := KV.mapV z.2.1.cores (fun _ c => { c with sweepAt := z.2.1.now }) }
  (List.range 32).foldl (fun z s => leaveService z.1 z.2 s) (z.1, d)

/-- Steps 1 and 2: supplies in regulation, the PLLs locked, the counter from 0. -/
def Dev.powerUp (d : Dev) (dt : Nat) : Dev :=
  Dev.advance { d with
    supply := { d.supply with off := false, mvAux := if d.supply.mvAux < 11400 then 12000 else d.supply.mvAux,
                              mv48 := if d.supply.mv48 ≤ 44000 then 48000 else d.supply.mv48 },
    gtc := { Gtc.blank with counting := true }, hbm := [], poison := [] } dt

/-- Steps 4 to 8. A boot image that fails verification leaves READY at 0 and FAULT at 1. -/
def coldBoot (nv : NonVol) (d : Dev) (cause : Nat) (fails : List (Nat × Nat × Nat)) : NonVol × Dev :=
  match nv.bootSlot with
  | none => (nv, { d with boot := { d.boot with fault := true, ready := false, reset := none } })
  | some x =>
    let y := bootImage nv d x
    let z := mapOutFailing y.1 y.2 false
    let w := coldSweep z.1 z.2 fails
    let d := w.2.readyUp 1 0xFFFF cause
    (w.1, if d.supply.warnPin then d.enterWarning else d)

/-- COLD_START: the four conditions of R321 hold; `dt` is the time since the reference PLL locked, `link` what the PCIe link trained
to (Table 17.2, R333). -/
def execColdStart (dt : Nat) (link : PcieLink) (fails : List (Nat × Nat × Nat)) (s : State) : Res := onNv s fun nv d =>
  match d.boot.reset with
  | none => (nv, d)
  | some r => if r.kind = 1 ∧ d.supply.ref ∧ d.supply.perst ∧ !d.supply.trip then coldBoot nv { d.powerUp dt with link := some link } r.cause fails else (nv, d)

/-! ### Shed reset (R324) -/

/-- The paddock that a shed belongs to: the member of its set that is IN. -/
def Dev.padOfShed (d : Dev) (shed : Nat) : Option Nat :=
  match d.pads.vals.find? (fun p => bitOf p.shedMask shed) with
  | none => none
  | some p => d.inOf p.shedMask

/-- The mailbox of a reset shed: a message to the shed is lost, one that the shed sent stays until firmware releases it (R54, R57). -/
def Dev.shedMailReset (d : Dev) (shed : Nat) : Dev :=
  let x := d.shed shed
  if x.fwSends || !x.mbox.full then
    let d := if x.mbox.full || x.mbox.wake then d.mboxLose (.shed shed) (1 + shed * 256) else d.setMbox (.shed shed) MboxSt.blank
    d.setShed shed { d.shed shed with fwSends := true }
  else d

/-- Third reset of a shed within 24 h: it leaves service (R315). -/
def Dev.countShedReset (d : Dev) (shed : Nat) : Dev :=
  let x := d.shed shed
  let rs := d.now :: x.resets.filter (fun t => d.now < t + day)
  d.setShed shed { x with resets := rs, leaving := x.leaving || 3 ≤ rs.length }

/-- EV_INTERNAL, with a firmware fault code that the spec does not give, and EV_RESET_DONE. -/
def Dev.shedEvents (d : Dev) (pad : Option Nat) (tag n : Nat) : Dev :=
  let src := Config.pick d.free % 4
  let code := Config.pick (d.free + 1) % 2 ^ 32
  let d := { d with free := d.free + 2 }
  match pad with
  | none => (d.postD evInternal src [code, tag]).postD evResetDone 3 [n, 0, 0]
  | some p => (d.postP evInternal p src [code, tag]).postP evResetDone p 3 [n, 0, 0]

def Dev.shedReset (d : Dev) (shed : Nat) : Dev :=
  let ids := KV.keys (KV.keep d.runs (fun _ r => r.started && !r.suspended && r.sheds.vals.any (fun x => x.phys == shed)))
  let tag := (ids.head?.bind (KV.find d.flights)).elim 0 Flight.tag
  let d := ids.foldl (fun d id => d.failFlight id .aborted) d
  let d := (d.clearSheds [shed]).yieldAll (fun k => k / 72 == shed)
  (((d.shedMailReset shed).countShedReset shed).shedEvents (d.padOfShed shed) tag ids.length)

def execShedReset (shed : Nat) (s : State) : Res := onDev s fun d => if d.boot.ready then d.shedReset shed else d

/-! ### DEVICE_RESET (R48) -/

/-- R287: a switch in progress finishes first. -/
def Dev.anySwitch (d : Dev) : Bool := d.switches.vals.any (·.started)
/-- Free slots of queue 0's completion ring. -/
def Queue.cqFree (q : Queue) : Nat := (q.cqHead + 2 ^ q.cqLog2 - q.cqTail - 1) % 2 ^ q.cqLog2

/-- The completion of DEVICE_RESET stands behind those of queue 0 that are in flight; it waits for their slots. -/
def Dev.deviceReset (d : Dev) (f : Nat) (x : Flight) : Dev :=
  if d.anySwitch || (d.queue 0).cqFree < d.inflight 0 then d
  else if d.picturesPend (fun _ => true) then d.markClosing f (fun _ => true)
  else
    let ids := d.flightsWhere (fun k _ => k != f)
    let d := (ids.foldl Dev.abortOne d).finish f .ok ids.length 0
    if fld (x.w 2) 0 2 = 0 then d.beginWarm 0 else d.beginModule 0

def execDeviceReset (f : Nat) (s : State) : Res := onDev s fun d => d.onFlight f 0xF0 fun x => d.deviceReset f x

/-- Table 2.18: kinds 0 and 1. -/
def checkDeviceReset (x : Flight) : List (Bool × Status) := [(1 < fld (x.w 2) 0 2, .badParam)]

end Sys2Proof.Machine
end

