-- ==== Sys2Proof/Machine/Eth.lean ====
section
/-! DEFINITION. What arrives at the Ethernet ports (R337 to R341). -/
namespace Sys2Proof.Machine
open Sys2Proof

def Dev.sendEth (d : Dev) (o : EthOut) : Dev := { d with out := { d.out with eth := d.out.eth ++ [o] } }

/-- The Ethernet ports serve: the device is READY and not in STANDBY, and an arriving request ends REST (R300). -/
def Dev.onQp (d : Dev) (qp : Nat) (g : Dev → Qp → Dev) : Dev :=
  if !d.boot.ready || d.devPower == .standby then d
  else match KV.find d.qps qp with
    | none => d
    | some q => g d.endRest q

/-- R340: the request may not touch the range. -/
def Dev.rdmaBad (d : Dev) (q : Qp) (rkey a n : Nat) : Bool :=
  q.rkey != rkey || !((d.pad q.paddock).elim false (fun p => inMap p.hbmMap a n))

/-- R340: the write lands whole and is acknowledged; R341: in ERROR every request is refused. -/
def execRdmaWriteIn (qp rkey a : Nat) (data : List Byte) (s : State) : Res := onDev s fun d => d.onQp qp fun d q =>
  if q.error then d.sendEth (.nakOperational qp)
  else if d.rdmaBad q rkey a data.length then d.sendEth (.nakAccess qp)
  else (d.hbmWrite a data).sendEth (.ack qp)

def execRdmaReadIn (qp rkey a len : Nat) (s : State) : Res := onDev s fun d => d.onQp qp fun d q =>
  if q.error then d.sendEth (.nakOperational qp)
  else if d.rdmaBad q rkey a len then d.sendEth (.nakAccess qp)
  else match d.poisoned a len with
    | some _ => d.sendEth (.nakOperational qp)
    | none => d.sendEth (.readResp qp (d.hbm.reads a len))

/-- R338. -/
def execRdmaSendIn (qp : Nat) (s : State) : Res := onDev s fun d => d.onQp qp fun d q =>
  if q.error then d.sendEth (.nakOperational qp) else d.sendEth (.nakInvalid qp)

/-- R337: DCQCN lowers the queue pair's rate; by how much is open. -/
def execCnpIn (qp : Nat) (s : State) : Res := onDev s fun d => d.onQp qp fun d q =>
  { d with qps := KV.put d.qps qp { q with rate := min q.rate (Config.dcqcnRate q.rate) } }

/-- A pause of n quanta of 512 bit times at 800 Gb/s, in ns. PRESUMED (IEEE 802.3). -/
def pauseNs (n : Nat) : Nat := ceilDiv (n * 512) 800

/-- R337: transmission on the priority stops until the pause has run; 0 quanta end it. The frame is link
control, so it ends no REST. -/
def execPfcFrameIn (port prio quanta : Nat) (s : State) : Res := onDev s fun d =>
  if !d.boot.ready || d.devPower == .standby then d
  else
    let x := KV.getD d.eth port EthPort.blank
    { d with eth := KV.put d.eth port { x with paused := KV.put x.paused (prio % 8) (d.now + pauseNs quanta) } }

/-- R337: frames of other protocols are discarded and counted. -/
def execEthFrameDiscard (port : Nat) (s : State) : Res := onDev s fun d =>
  if !d.boot.ready || d.devPower == .standby then d
  else
    let d := d.endRest
    let x := KV.getD d.eth port EthPort.blank
    { d with eth := KV.put d.eth port { x with discarded := x.discarded + 1 } }

end Sys2Proof.Machine
end

