-- ==== Sys2Proof/Machine/Queue.lean ====
section
/-! DEFINITION. Fetching, checking, starting and timing out commands (R26, R29 to R32, R36 to R38, R40 to R47, R67, R258, R264). -/
namespace Sys2Proof.Machine
open Sys2Proof

/-! ### Checks (R9, R36 to R38, R45) -/

/-- Stands for the paddock of a device-wide command: it reaches no address. -/
def Paddock.void : Paddock :=
  { cls := .ordinary, shedMask := 0, dedFirst := 0, dedCount := 0, vcShares := 0, hbmMap := [], hbmGen := 0, hostMap := [],
    hostGen := 0, pool := none, tolNs := 0, isIn := false, inSince := 0, ctxSlots := [] }

/-- The checks that each opcode makes at its fetch, but for PLAN_RUN. -/
def opChecks (nv : NonVol) (hay : Hay) (d : Dev) (p : Paddock) (x : Flight) : List (Bool × Status) :=
  match x.opcode with
  | 0x01 => checkIdentify x
  | 0x02 => checkFeature x
  | 0x03 => checkFeatureSet nv d x
  | 0x04 => [(createBad nv d x, .badParam)]
  | 0x06 => checkBind d x
  | 0x07 => checkMap x
  | 0x10 => checkPlanLoad d p x.paddock x
  | 0x13 => checkPlan d x
  | 0x20 => checkCopy d p x
  | 0x21 => checkFill d p x
  | 0x22 => checkTable d x
  | 0x23 => checkPrefetch d p x
  | 0x24 => checkCarry d p x
  | 0x30 => checkHayWrite hay d p x
  | 0x31 => checkHayRead d p x.paddock x
  | 0x32 => checkHayTrim d p x
  | 0x40 => checkSeqCreate d p x
  | 0x41 => checkSeqAppend d p x
  | 0x42 => checkSeqVerify d p x
  | 0x43 => checkSeqEdit d p x
  | 0x44 => checkSeq d x
  | 0x45 => checkSeq d x
  | 0x46 => checkSeq d x
  | 0x47 => checkPoolSet d p x
  | 0x50 => checkGroupDefine d p x
  | 0x51 => checkCollRun d p x
  | 0x52 => checkCollRunv d p x
  | 0x53 => checkGroup d x
  | 0x60 => checkEncOpen p x
  | 0x61 => checkEncPicture d p x
  | 0x62 => checkStream d x (some true)
  | 0x63 => checkDecOpen d p x
  | 0x64 => checkDecData d p x
  | 0x65 => checkStream d x none
  | 0x71 => checkPort x
  | 0x72 => checkGtc x
  | 0x90 => checkFallowPolicy x
  | 0x91 => checkTestRun nv d p x
  | 0x92 => checkCoreRetire x
  | 0x93 => checkLog d x
  | 0xA0 => checkGuardPolicy d x
  | 0xA1 => checkPlan d x
  | 0xF0 => checkDeviceReset x
  | _ => []

/-- The failing check that comes first in the order of R38; a STALE sequence (R162) comes after them. -/
def firstVerdict (cs : List (Bool × Status)) : Option Status :=
  ([.notInPaddock, .badParam, .modeRefused, .shapeExceedsPlan, .staleTable].find? (fun s => cs.any (fun c => c.1 && c.2 == s))).orElse
    fun _ => firstBad cs

/-- R38's first check: the opcode is defined and permitted on the queue. -/
def Flight.badOpcode (x : Flight) : Bool :=
  match issueOf x.opcode with
  | none => true
  | some .d => x.queue != 0
  | some .p0 => x.queue != 0
  | some _ => false

/-- R36: the paddock field. -/
def Dev.badPaddock (d : Dev) (x : Flight) : Bool :=
  if x.queue ≠ 0 then x.paddock != (d.queue x.queue).paddock
  else match issueOf x.opcode with
    | some .d => x.paddock != 0xFFF
    | some .a => x.paddock != 0xFFF && !KV.has d.pads x.paddock
    | _ => !(x.opcode == 0x04 || x.isUnbind) && !KV.has d.pads x.paddock

/-- R37: PRIORITY 3 elsewhere than on queue 0 and for RESERVED paddocks. -/
def badPriority (p : Paddock) (x : Flight) : Bool := x.priority == 3 && x.queue != 0 && p.cls != .reserved

/-- What R9, R37, R41 and the column "Issued" check of every command. -/
def commonChecks (p : Paddock) (x : Flight) : List (Bool × Status) :=
  [(!x.reservedOk, .badParam), (x.fenceOk && !x.fence, .badParam), (badPriority p x, .badParam),
   (issueOf x.opcode == some .m && p.cls != .maintenance, .modeRefused)]

/-- R42: another queue has a command in flight, fetched before, on a sequence that the command names. -/
def Dev.namesBusy (d : Dev) (f : Nat) (x : Flight) : Bool := x.seqKeys.any (fun k => d.seqBusy k x.queue f)

/-- R38: the whole check of a fetched command; the verdict, with an address for an uncorrectable read. -/
def Dev.checkCmd (d : Dev) (nv : NonVol) (hay : Hay) (f : Nat) (x : Flight) : Dev × Option (Status × Nat) :=
  if x.badOpcode then (d, some (.badOpcode, 0))
  else if d.badPaddock x then (d, some (.notInPaddock, 0))
  else
    let p := (d.pad x.paddock).getD Paddock.void
    if x.opcode = 0x11 then
      let z := d.planRunAdmit nv p f x
      if badPriority p x && z.2.elim true (fun v => v.1 != .notInPaddock) then (d, some (.badParam, 0)) else z
    else match firstVerdict (commonChecks p x ++ opChecks nv hay d p x) with
      | some s => (d, some (s, 0))
      | none => if d.namesBusy f x then (d, some (.seqBusy, 0)) else (d, none)

/-- What a command that passes its checks brings about at its fetch: a TEST_RUN wakes its paddock's sheds (R297; a PLAN_RUN's are
woken with its checks), and a DEC_DATA keeps how many pictures it may output (R206). -/
def Dev.passedChecks (d : Dev) (nv : NonVol) (f : Nat) (x : Flight) : Dev :=
  if x.opcode = 0x91 then d.wakeSheds ((d.pad x.paddock).elim [] (fun p => p.serving nv)) .run
  else if x.opcode = 0x64 then
    d.updFlight f (fun y => { y with allow := (KV.find d.streams x.streamId).elim 0 (d.decAllowed x) })
  else d

/-- A command is checked, and finished when a check fails. -/
def Dev.judge (d : Dev) (nv : NonVol) (hay : Hay) (f : Nat) (x : Flight) : Dev :=
  let z := d.checkCmd nv hay f x
  match z.2 with
  | none => z.1.passedChecks nv f x
  | some (s, a) => if s = .memUncorrectable then z.1.finishMem f a else z.1.finish f s 0 0

/-! ### COMMAND_FETCH (R29 to R32) -/

/-- R29, R31: an entry of the queue may be fetched now. -/
def Dev.fetchable (d : Dev) (q : Nat) : Bool :=
  let x := d.queue q
  let h := d.holds q
  d.boot.ready && d.devPower != .standby && x.state == .active && x.unfetched != 0 && !h.1 && !h.2.1 && !h.2.2

/-- A queue of a RESERVED paddock. -/
def Dev.reservedQueue (d : Dev) (q : Nat) : Bool := q != 0 && d.isCls (d.queue q).paddock .reserved

/-- R30: the next of some queues in turn. -/
def Dev.nextTurn (d : Dev) (qs : List Nat) : Option Nat :=
  match qs.find? (fun q => d.lastServed < q) with
  | some q => some q
  | none => qs.head?

/-- R30: the held queue to serve: those of RESERVED paddocks first. -/
def Dev.turn (d : Dev) : Option Nat :=
  let held := (List.range 64).filter (fun q => (d.queue q).held && d.fetchable q)
  let res := held.filter d.reservedQueue
  if res.isEmpty then d.nextTurn held else d.nextTurn res

/-- The entry's words. -/
def Dev.entryWords (d : Dev) (x : Queue) : List Word :=
  (List.range 16).map (fun i => BitVec.ofNat 32 (d.host.readLE (x.sqBase + 64 * x.head + 4 * i) 4))

/-- A command as it is fetched. GTC_START has no value before it starts to run: a free value until then. -/
def Flight.fetched (q slot : Nat) (words : List Word) (gtc : DWord) (ver : Nat) : Flight :=
  { queue := q, slot := slot, words := words, phase := .waiting, gtcStart := gtc, startNow := 0, flags := 0, fenceBad := false,
    recheck := false, status := .ok, countA := 0, countB := 0, ext := 0, outNs := 0, outSince := none, swappedIn := [], ver := ver,
    wide := none, allow := 0 }

/-- R46: an earlier MAP_UPDATE of the command's paddock is in flight. -/
def Dev.mapPending (d : Dev) (f : Nat) (x : Flight) : Bool :=
  d.flights.any (fun e => e.1 < f && e.2.opcode == 0x07 && e.2.paddock == x.paddock)

/-- The entry at SQ_HEAD enters flight and is checked; behind a MAP_UPDATE the check waits for the new map (R46).
A command that R38 refuses counts as in flight for the commands fetched at the same instant, so a FENCE_OK
among them is barred by it (R40, R41; DEDUCED, log 32). -/
def Dev.fetch (d : Dev) (nv : NonVol) (hay : Hay) (q : Nat) : Dev :=
  let x := d.queue q
  let z := d.freeBytes 8
  let id := d.nextFlight
  let y := Flight.fetched q x.head (d.entryWords x) (BitVec.ofNat 64 (natLE z.2)) (d.feature 0x0401)
  let y := { y with recheck := z.1.mapPending id y && !y.badOpcode, fenceBad := x.refusedAt == some d.now }
  let d := z.1.setQueue q { x with head := (x.head + 1) % 2 ^ x.sqLog2, held := x.held && 1 < x.unfetched }
  let d : Dev := { d with flights := KV.put d.flights id y, nextFlight := id + 1, lastServed := if x.held then q else d.lastServed, restSince := d.now }
  let d := if y.recheck then d
    else
      let d := d.judge nv hay id y
      if (KV.find d.flights id).elim true (fun y => y.phase == .finished) then
        d.setQueue q { d.queue q with refusedAt := some d.now }
      else d
  d.markHeld

/-- R32: the queue stops. -/
def Dev.fetchError (d : Dev) (q cls : Nat) : Dev :=
  let x := d.queue q
  (d.setQueue q { x with state := .stopped }).postP evQueueFetchError x.paddock (q + x.fn * 256) [x.head, cls]

def Dev.commandFetch (d : Dev) (nv : NonVol) (hay : Hay) (q : Nat) (err : Option Nat) : Dev :=
  if !d.fetchable q || ((d.queue q).held && d.turn != some q) then d
  else match err with
    | some c => d.fetchError q c
    | none => d.fetch nv hay q

def execCommandFetch (q : Nat) (err : Option Nat) (s : State) : Res := onDevR s fun nv hay d => d.commandFetch nv hay q err

/-! ### COMMAND_START (R37, R40 to R42, R46, R47, R67, R264) -/

/-- Some earlier fetched command in flight satisfies `p`. -/
def Dev.earlier (d : Dev) (f : Nat) (p : Nat → Flight → Bool) : Bool := d.flights.any (fun e => e.1 < f && p e.1 e.2)

/-- A PLAN_RUN under a guard whose group is the handle `gk`. -/
def Dev.guardsGroup (d : Dev) (x : Flight) (gk : Nat) : Bool :=
  x.opcode == 0x11 && bitOf (x.w 3) 3 &&
    (match (d.plan? x).bind (·.table) with
      | some t => t.group != 0xFFFF && padKey x.paddock t.group == gk
      | none => false)

/-- R264: what a collective or a GROUP_RELEASE waits for. -/
def Dev.groupWaits (d : Dev) (f : Nat) (x : Flight) : Bool :=
  !d.groupFree x.groupKey ||
    d.earlier f (fun _ y => ((0x51 ≤ y.opcode && y.opcode ≤ 0x53) && y.groupKey == x.groupKey) ||
      (x.opcode == 0x53 && d.guardsGroup y x.groupKey))

/-- What orders the command behind others has cleared. -/
def Dev.fencesClear (d : Dev) (f : Nat) (x : Flight) : Bool :=
  !(x.fence && d.earlier f (fun _ y => y.queue == x.queue)) &&
    !d.earlier f (fun _ y => y.queue == x.queue && y.seqKeys.any x.seqKeys.contains) && !d.mapPending f x &&
    !(x.opcode == 0x07 && d.earlier f (fun _ y => y.paddock == x.paddock)) &&
    !(x.opcode == 0x13 && d.earlier f (fun _ y => y.opcode == 0x11 && y.planKey == x.planKey)) &&
    !((0x51 ≤ x.opcode && x.opcode ≤ 0x53) && d.groupWaits f x)

/-- R67: the run slot of the paddock is free and the paddock is IN. -/
def Dev.runSlot (d : Dev) (x : Flight) : Bool :=
  match d.pad x.paddock with
  | none => false
  | some p => p.isIn && !KV.has d.switches p.shedMask && !d.flights.any (fun e => e.2.opcode == 0x11 && e.2.paddock == x.paddock && e.2.phase == .running)

/-- The sheds that a run needs (R65). -/
def Dev.neededSheds (d : Dev) (nv : NonVol) (x : Flight) : List Nat :=
  match d.pad x.paddock, d.plan? x with
  | some p, some q => (p.serving nv).take (d.planImg q).sheds
  | _, _ => []

/-- The port that a packet to a device on a virtual channel would take. -/
def Dev.portFor (d : Dev) (dst vc pad : Nat) : List Nat :=
  match d.hop dst vc pad with
  | .go p => [p]
  | _ => []

/-- What a command that starts needs for itself: sheds (false), and ports (true) that its packets take (R37). Media commands are
taken up in this order by their engines (MEDIA_PICTURE_START). -/
def Dev.needs (d : Dev) (nv : NonVol) (x : Flight) : List (Bool × Nat) :=
  if x.opcode = 0x11 then (d.neededSheds nv x).map (fun s => (false, s))
  else if x.opcode = 0x91 then ((shedsOf (x.w 3)).filter nv.inService).map (fun s => (false, s))
  else if x.opcode = 0x20 ∧ (fld (x.w 8) 0 4 = 2 ∨ fld (x.w 8) 4 4 = 2) then
    (d.portFor (fld (x.w 9) 0 11) (fld (x.w 9) 12 2) x.paddock).map (fun p => (true, p))
  else if x.opcode = 0x51 ∨ x.opcode = 0x52 then
    (KV.find d.groups x.groupKey).elim [] (fun g =>
      ((treeNeighbours g.members.length g.own).flatMap (fun m => d.portFor (g.members.getD m 0) 1 g.paddock)).eraseDups.map (fun p => (true, p)))
  else []

/-- The command could start now, but for its priority. -/
def Dev.ready (d : Dev) (f : Nat) (x : Flight) : Bool :=
  x.phase == .waiting && !x.recheck && d.fencesClear f x && (x.opcode != 0x11 || d.runSlot x)

/-- R37: a ready command of higher priority, or of the same and fetched earlier, needs the same shed or port. -/
def Dev.outranked (d : Dev) (nv : NonVol) (f : Nat) (x : Flight) : Bool :=
  let ns := d.needs nv x
  d.flights.any (fun e => e.1 != f && (x.priority < e.2.priority || (x.priority == e.2.priority && e.1 < f)) && d.ready e.1 e.2 &&
    (d.needs nv e.2).any ns.contains)

/-- A command that uses sheds starts once they run; sheds that sleep are woken (R297). -/
def Dev.startOn (d : Dev) (f : Nat) (ss : List Nat) : Dev :=
  if ss.all (fun s => (d.shed s).power == .run) then d.beginRun f else d.wakeSheds ss .run

/-- The command starts, when nothing it contends with goes first. -/
def Dev.startNext (d : Dev) (nv : NonVol) (f : Nat) (x : Flight) : Dev :=
  if d.outranked nv f x then d
  else if x.opcode = 0x11 then (if d.runSlot x then d.startOn f (d.neededSheds nv x) else d)
  else if x.opcode = 0x91 then d.startOn f ((shedsOf (x.w 3)).filter nv.inService)
  else d.beginRun f

def Dev.commandStart (d : Dev) (nv : NonVol) (hay : Hay) (f : Nat) : Dev :=
  match KV.find d.flights f with
  | none => d
  | some x =>
    if x.phase ≠ .waiting ∨ !d.fencesClear f x then d
    else if x.fenceOk && x.fenceBad then d.finish f .aborted 0 0
    else
      let d := if x.recheck then (d.updFlight f (fun y => { y with recheck := false })).judge nv hay f { x with recheck := false } else d
      match KV.find d.flights f with
      | none => d
      | some y => if y.phase ≠ .waiting then d else d.startNext nv f y

def execCommandStart (f : Nat) (s : State) : Res := onDevR s fun nv hay d => d.commandStart nv hay f

/-! ### COMMAND_TIMEOUT (R43, R44, R197, R258) -/

/-- A media command whose picture the engine has not taken up has not started (R189). -/
def Dev.mediaIdle (d : Dev) (f : Nat) (x : Flight) : Bool :=
  let worked := d.engines.vals.any (fun e => e.flight == f)
  if x.opcode = 0x61 then !worked
  else if x.opcode = 0x64 then !worked && ((KV.find d.streams x.streamId).elim true (fun q => q.ready.contains f && q.job.isNone))
  else false

/-- R258: the command has expired, and no recovery defers it. -/
def Dev.expired (d : Dev) (f : Nat) (x : Flight) : Bool :=
  (x.phase == .running || x.phase == .moving) && x.outSince.isNone && !d.mediaIdle f x &&
    decide (d.dueAt x + x.ext ≤ d.now) && (!d.inRecovery f || extCap ≤ x.ext)

/-- What an expiry leaves in the stream: the next picture is a key picture (R197). -/
def Dev.timeoutStream (d : Dev) (x : Flight) : Dev :=
  if x.opcode = 0x61 then d.updStream x.streamId (fun q => { q with keyNext := true }) else d

/-- Rows of no duration that can take a port from the commands that use it. -/
def linkRow : Instr → Option (State → Res)
  | .linkSignalLoss p => some (execLinkSignalLoss p)
  | .replayStorm p dir lane => some (execReplayStorm p dir lane)
  | .laneErrorExcess p dir lane => some (execLaneErrorExcess p dir lane)
  | .laneSwapHoldTimeout p dir 0 => some (execLaneSwapHoldTimeout p dir 0)
  | .portDisable f => some (execPortDisable f)
  | .portRetrain f => some (execPortRetrain f)
  | .routeLoad f => some (execRouteLoad f)
  | _ => none

/-- The state after the link rows that wait for the same tick. -/
def sameTick (s : State) : List Instr → State
  | [] => s
  | c :: cs => match linkRow c with
    | none => s
    | some g => match g s with
      | .next t => sameTick t cs
      | _ => s

/-- R259: on one tick the failure of a link, or a fence, comes before the expiry: the command is left to the row that brings it. -/
def Dev.linkFirst (d : Dev) (s : State) (f : Nat) : Bool :=
  (KV.find (sameTick { s with dev := d } s.pending).dev.flights f).elim true (fun x => x.phase != .running && x.phase != .moving)

def execCommandTimeout (f dt : Nat) (s : State) : Res := onDev s fun d =>
  let d := d.advance dt
  match KV.find d.flights f with
  | none => d
  | some x => if d.expired f x && !d.linkFirst s f then (d.timeoutStream x).failFlight f .timeout else d

end Sys2Proof.Machine
end

