-- ==== Sys2Proof/Machine/Dispatch.lean ====
section
/-! DEFINITION. The meaning of every command: one arm per constructor. -/
namespace Sys2Proof.Machine
open Sys2Proof

/-- What a command does to everything but the queue of waiting commands. -/
def exec (i : Instr) (s : State) : Host.Outcome State Fault Refusal :=
  match i with
  | .nop f => Sys2Proof.Machine.execNop f s
  | .identify f => Sys2Proof.Machine.execIdentify f s
  | .featureGet f => Sys2Proof.Machine.execFeatureGet f s
  | .featureSet f => Sys2Proof.Machine.execFeatureSet f s
  | .paddockCreate f => Sys2Proof.Machine.execPaddockCreate f s
  | .paddockDestroy f => Sys2Proof.Machine.execPaddockDestroy f s
  | .queueBind f => Sys2Proof.Machine.execQueueBind f s
  | .queueUnbind f => Sys2Proof.Machine.execQueueUnbind f s
  | .mapUpdate f => Sys2Proof.Machine.execMapUpdate f s
  | .planLoad f bad mf => Sys2Proof.Machine.execPlanLoad f bad mf s
  | .planRun f => Sys2Proof.Machine.execPlanRun f s
  | .planAbort f => Sys2Proof.Machine.execPlanAbort f s
  | .planUnload f => Sys2Proof.Machine.execPlanUnload f s
  | .copy f mf => Sys2Proof.Machine.execCopy f mf s
  | .fill f mf => Sys2Proof.Machine.execFill f mf s
  | .windowSet f => Sys2Proof.Machine.execWindowSet f s
  | .prefetchSchedule f => Sys2Proof.Machine.execPrefetchSchedule f s
  | .carryoverSet f => Sys2Proof.Machine.execCarryoverSet f s
  | .hayloftWrite f mf => Sys2Proof.Machine.execHayloftWrite f mf s
  | .hayloftRead f bad mf => Sys2Proof.Machine.execHayloftRead f bad mf s
  | .hayloftTrim f => Sys2Proof.Machine.execHayloftTrim f s
  | .hayloftStatus f => Sys2Proof.Machine.execHayloftStatus f s
  | .seqCreate f => Sys2Proof.Machine.execSeqCreate f s
  | .seqAppend f mf => Sys2Proof.Machine.execSeqAppend f mf s
  | .seqVerify f mf => Sys2Proof.Machine.execSeqVerify f mf s
  | .seqPagesEdit f mf => Sys2Proof.Machine.execSeqPagesEdit f mf s
  | .seqSwapOut f mf => Sys2Proof.Machine.execSeqSwapOut f mf s
  | .seqSwapIn f mf => Sys2Proof.Machine.execSeqSwapIn f mf s
  | .seqDrop f => Sys2Proof.Machine.execSeqDrop f s
  | .poolSet f => Sys2Proof.Machine.execPoolSet f s
  | .groupDefine f => Sys2Proof.Machine.execGroupDefine f s
  | .collRun f mf => Sys2Proof.Machine.execCollRun f mf s
  | .collRunv f mf => Sys2Proof.Machine.execCollRunv f mf s
  | .groupRelease f => Sys2Proof.Machine.execGroupRelease f s
  | .encOpen f => Sys2Proof.Machine.execEncOpen f s
  | .encPicture f => Sys2Proof.Machine.execEncPicture f s
  | .encKey f => Sys2Proof.Machine.execEncKey f s
  | .decOpen f => Sys2Proof.Machine.execDecOpen f s
  | .decData f => Sys2Proof.Machine.execDecData f s
  | .mediaClose f => Sys2Proof.Machine.execMediaClose f s
  | .routeLoad f => Sys2Proof.Machine.execRouteLoad f s
  | .portEnable f => Sys2Proof.Machine.execPortEnable f s
  | .portDisable f => Sys2Proof.Machine.execPortDisable f s
  | .portRetrain f => Sys2Proof.Machine.execPortRetrain f s
  | .portSetReachClass f => Sys2Proof.Machine.execPortSetReachClass f s
  | .portReleaseFence f => Sys2Proof.Machine.execPortReleaseFence f s
  | .gtcRead f => Sys2Proof.Machine.execGtcRead f s
  | .gtcSetRoot f => Sys2Proof.Machine.execGtcSetRoot f s
  | .gtcSteeringOn f => Sys2Proof.Machine.execGtcSteeringOn f s
  | .gtcSteeringOff f => Sys2Proof.Machine.execGtcSteeringOff f s
  | .gtcPpsSetup f => Sys2Proof.Machine.execGtcPpsSetup f s
  | .latencySet f => Sys2Proof.Machine.execLatencySet f s
  | .powerCap f => Sys2Proof.Machine.execPowerCap f s
  | .fallowPolicy f => Sys2Proof.Machine.execFallowPolicy f s
  | .testRun f fails => Sys2Proof.Machine.execTestRun f fails s
  | .coreRetire f => Sys2Proof.Machine.execCoreRetire f s
  | .logRead f corr => Sys2Proof.Machine.execLogRead f corr s
  | .guardPolicy f => Sys2Proof.Machine.execGuardPolicy f s
  | .fallbackBudget f => Sys2Proof.Machine.execFallbackBudget f s
  | .deviceReset f => Sys2Proof.Machine.execDeviceReset f s
  | .paddockReset f => Sys2Proof.Machine.execPaddockReset f s
  | .tload f k c mf => Sys2Proof.Machine.execTload f k c mf s
  | .tstore f k c mf => Sys2Proof.Machine.execTstore f k c mf s
  | .tmm f k c mf => Sys2Proof.Machine.execTmm f k c mf s
  | .tconv f k c mf => Sys2Proof.Machine.execTconv f k c mf s
  | .tfft f k mf => Sys2Proof.Machine.execTfft f k mf s
  | .tsf f k c mf => Sys2Proof.Machine.execTsf f k c mf s
  | .tnorm f k c mf => Sys2Proof.Machine.execTnorm f k c mf s
  | .tsoft f k c mf => Sys2Proof.Machine.execTsoft f k c mf s
  | .txch f k c mf => Sys2Proof.Machine.execTxch f k c mf s
  | .tbatch f k mf => Sys2Proof.Machine.execTbatch f k mf s
  | .tsig f k c => Sys2Proof.Machine.execTsig f k c s
  | .twait f k => Sys2Proof.Machine.execTwait f k s
  | .twaitRelease f k => Sys2Proof.Machine.execTwaitRelease f k s
  | .tchain f k c => Sys2Proof.Machine.execTchain f k c s
  | .planStepEnd f => Sys2Proof.Machine.execPlanStepEnd f s
  | .commandFetch q err => Sys2Proof.Machine.execCommandFetch q err s
  | .commandStart f => Sys2Proof.Machine.execCommandStart f s
  | .commandTimeout f dt => Sys2Proof.Machine.execCommandTimeout f dt s
  | .interruptCoalesceTimeout fn vec dt => Sys2Proof.Machine.execInterruptCoalesceTimeout fn vec dt s
  | .sqDbWrite fn q v stores => Sys2Proof.Machine.execSqDbWrite fn q v stores s
  | .cqHdWrite fn q v => Sys2Proof.Machine.execCqHdWrite fn q v s
  | .admqEnable v => Sys2Proof.Machine.execAdmqEnable v s
  | .admqDisable v => Sys2Proof.Machine.execAdmqDisable v s
  | .evtRingEnable fn v => Sys2Proof.Machine.execEvtRingEnable fn v s
  | .evtRingDisable fn v => Sys2Proof.Machine.execEvtRingDisable fn v s
  | .evtHeadWrite fn v => Sys2Proof.Machine.execEvtHeadWrite fn v s
  | .evtCauseClear fn v => Sys2Proof.Machine.execEvtCauseClear fn v s
  | .evtLostRead fn => Sys2Proof.Machine.execEvtLostRead fn s
  | .mboxDataWrite mb idx v far => Sys2Proof.Machine.execMboxDataWrite mb idx v far s
  | .mboxGo mb far => Sys2Proof.Machine.execMboxGo mb far s
  | .mboxAbortedClear mb v => Sys2Proof.Machine.execMboxAbortedClear mb v s
  | .mboxRelease mb => Sys2Proof.Machine.execMboxRelease mb s
  | .mboxWakeDone mb => Sys2Proof.Machine.execMboxWakeDone mb s
  | .shedMboxMessage shed fromFirmware data => Sys2Proof.Machine.execShedMboxMessage shed fromFirmware data s
  | .standbyRequest fn m => Sys2Proof.Machine.execStandbyRequest fn m s
  | .standbyEnter => Sys2Proof.Machine.execStandbyEnter s
  | .standbyWake => Sys2Proof.Machine.execStandbyWake s
  | .qpCreate fn m => Sys2Proof.Machine.execQpCreate fn m s
  | .qpDestroy fn m => Sys2Proof.Machine.execQpDestroy fn m s
  | .portAddr fn m => Sys2Proof.Machine.execPortAddr fn m s
  | .keyLoad fn m => Sys2Proof.Machine.execKeyLoad fn m s
  | .keyClear fn m => Sys2Proof.Machine.execKeyClear fn m s
  | .kekLoad fn m => Sys2Proof.Machine.execKekLoad fn m s
  | .bar2Read off len bad => Sys2Proof.Machine.execBar2Read off len bad s
  | .bar2Write off data bad => Sys2Proof.Machine.execBar2Write off data bad s
  | .bar2WinWrite fn v => Sys2Proof.Machine.execBar2WinWrite fn v s
  | .registerWrite fn off width v => Sys2Proof.Machine.execRegisterWrite fn off width v s
  | .numvfsWrite n => Sys2Proof.Machine.execNumvfsWrite n s
  | .writePacket p pkt => Sys2Proof.Machine.execWritePacket p pkt s
  | .readReqPacket p pkt => Sys2Proof.Machine.execReadReqPacket p pkt s
  | .readDataPacket p pkt => Sys2Proof.Machine.execReadDataPacket p pkt s
  | .pagePacket p pkt => Sys2Proof.Machine.execPagePacket p pkt s
  | .signalPacket p pkt => Sys2Proof.Machine.execSignalPacket p pkt s
  | .collectivePacket p pkt => Sys2Proof.Machine.execCollectivePacket p pkt s
  | .collFailPacket p pkt => Sys2Proof.Machine.execCollFailPacket p pkt s
  | .slotReply p pkt => Sys2Proof.Machine.execSlotReply p pkt s
  | .slotResult p pkt => Sys2Proof.Machine.execSlotResult p pkt s
  | .slotAbort p pkt => Sys2Proof.Machine.execSlotAbort p pkt s
  | .slotReplyTimeout f dt => Sys2Proof.Machine.execSlotReplyTimeout f dt s
  | .slotResultGapTimeout f dt => Sys2Proof.Machine.execSlotResultGapTimeout f dt s
  | .mailboxPacket p pkt => Sys2Proof.Machine.execMailboxPacket p pkt s
  | .responsePacket p pkt => Sys2Proof.Machine.execResponsePacket p pkt s
  | .pageResend dst seq dt => Sys2Proof.Machine.execPageResend dst seq dt s
  | .collResend dst seq dt => Sys2Proof.Machine.execCollResend dst seq dt s
  | .mboxRemoteResend dev m dt => Sys2Proof.Machine.execMboxRemoteResend dev m dt s
  | .mboxRemoteTimeout dev m dt => Sys2Proof.Machine.execMboxRemoteTimeout dev m dt s
  | .portTrainingStart => Sys2Proof.Machine.execPortTrainingStart s
  | .portTrainingDone p nb lanes => Sys2Proof.Machine.execPortTrainingDone p nb lanes s
  | .portTrainingTimeout p dt => Sys2Proof.Machine.execPortTrainingTimeout p dt s
  | .portAutoRetrain p dt => Sys2Proof.Machine.execPortAutoRetrain p dt s
  | .linkReplay p dir dt => Sys2Proof.Machine.execLinkReplay p dir dt s
  | .replayStorm p dir lane => Sys2Proof.Machine.execReplayStorm p dir lane s
  | .laneErrorExcess p dir lane => Sys2Proof.Machine.execLaneErrorExcess p dir lane s
  | .laneSwapDone p dir dt => Sys2Proof.Machine.execLaneSwapDone p dir dt s
  | .laneSwapHoldTimeout p dir dt => Sys2Proof.Machine.execLaneSwapHoldTimeout p dir dt s
  | .linkSignalLoss p => Sys2Proof.Machine.execLinkSignalLoss p s
  | .gtcTimestampExchange p t1 t2 t3 t4 => Sys2Proof.Machine.execGtcTimestampExchange p t1 t2 t3 t4 s
  | .gtcLock dt => Sys2Proof.Machine.execGtcLock dt s
  | .gtcUnlock dt => Sys2Proof.Machine.execGtcUnlock dt s
  | .gtcPpsOutPulse dt => Sys2Proof.Machine.execGtcPpsOutPulse dt s
  | .gtcPpsInEdge dt high => Sys2Proof.Machine.execGtcPpsInEdge dt high s
  | .gtcPpsInLoss dt => Sys2Proof.Machine.execGtcPpsInLoss dt s
  | .weightFetchStart pk => Sys2Proof.Machine.execWeightFetchStart pk s
  | .weightFetchDone pk layer bad => Sys2Proof.Machine.execWeightFetchDone pk layer bad s
  | .pinnedFetchDone f stream entry bad => Sys2Proof.Machine.execPinnedFetchDone f stream entry bad s
  | .weightLateLimit f dt => Sys2Proof.Machine.execWeightLateLimit f dt s
  | .hayloftRelocation stack after => Sys2Proof.Machine.execHayloftRelocation stack after s
  | .hbmScrub a mf => Sys2Proof.Machine.execHbmScrub a mf s
  | .hbmRefreshChange stack temp => Sys2Proof.Machine.execHbmRefreshChange stack temp s
  | .hbmThrottleStep stack temp dt => Sys2Proof.Machine.execHbmThrottleStep stack temp dt s
  | .hbmThrottleRecover stack temp dt => Sys2Proof.Machine.execHbmThrottleRecover stack temp dt s
  | .hbmIssuePause stack temp => Sys2Proof.Machine.execHbmIssuePause stack temp s
  | .mediaPictureStart e mf => Sys2Proof.Machine.execMediaPictureStart e mf s
  | .mediaPictureDone e upto credits => Sys2Proof.Machine.execMediaPictureDone e upto credits s
  | .encOutputResume e credits => Sys2Proof.Machine.execEncOutputResume e credits s
  | .rdmaWriteIn qp rkey a data => Sys2Proof.Machine.execRdmaWriteIn qp rkey a data s
  | .rdmaReadIn qp rkey a len => Sys2Proof.Machine.execRdmaReadIn qp rkey a len s
  | .rdmaSendIn qp => Sys2Proof.Machine.execRdmaSendIn qp s
  | .cnpIn qp => Sys2Proof.Machine.execCnpIn qp s
  | .pfcFrameIn port prio quanta => Sys2Proof.Machine.execPfcFrameIn port prio quanta s
  | .ethFrameDiscard port => Sys2Proof.Machine.execEthFrameDiscard port s
  | .shedEnterGate shed dt => Sys2Proof.Machine.execShedEnterGate shed dt s
  | .shedEnterHold shed dt => Sys2Proof.Machine.execShedEnterHold shed dt s
  | .shedSaveStart shed dt => Sys2Proof.Machine.execShedSaveStart shed dt s
  | .shedSaveDone shed => Sys2Proof.Machine.execShedSaveDone shed s
  | .shedEnterOff shed dt => Sys2Proof.Machine.execShedEnterOff shed dt s
  | .shedWakeDone shed => Sys2Proof.Machine.execShedWakeDone shed s
  | .pllLock pll => Sys2Proof.Machine.execPllLock pll s
  | .deviceRestEnter dt => Sys2Proof.Machine.execDeviceRestEnter dt s
  | .powerCapLower mean dt => Sys2Proof.Machine.execPowerCapLower mean dt s
  | .powerCapRaise mean dt => Sys2Proof.Machine.execPowerCapRaise mean dt s
  | .paddockSwitch mask => Sys2Proof.Machine.execPaddockSwitch mask s
  | .paddockTurnExpiry mask dt => Sys2Proof.Machine.execPaddockTurnExpiry mask dt s
  | .paddockSwitchDone mask => Sys2Proof.Machine.execPaddockSwitchDone mask s
  | .fallowSweepStart shed core dt => Sys2Proof.Machine.execFallowSweepStart shed core dt s
  | .fallowSliceStart shed core slice dt => Sys2Proof.Machine.execFallowSliceStart shed core slice dt s
  | .fallowSliceVerdict shed core pass dt => Sys2Proof.Machine.execFallowSliceVerdict shed core pass dt s
  | .fallowSliceYield shed core dt => Sys2Proof.Machine.execFallowSliceYield shed core dt s
  | .fallowShedWake shed dt => Sys2Proof.Machine.execFallowShedWake shed dt s
  | .shedLeaveService shed => Sys2Proof.Machine.execShedLeaveService shed s
  | .shedReset shed => Sys2Proof.Machine.execShedReset shed s
  | .supplyWarningEnter mv => Sys2Proof.Machine.execSupplyWarningEnter mv s
  | .supplyWarningExit mv low below dt => Sys2Proof.Machine.execSupplyWarningExit mv low below dt s
  | .supplyRecoveryStep die dt => Sys2Proof.Machine.execSupplyRecoveryStep die dt s
  | .pwrWarnAssert => Sys2Proof.Machine.execPwrWarnAssert s
  | .pwrWarnDeassert => Sys2Proof.Machine.execPwrWarnDeassert s
  | .vinBelow38V mv => Sys2Proof.Machine.execVinBelow38V mv s
  | .auxSupplyLoss mv dt => Sys2Proof.Machine.execAuxSupplyLoss mv dt s
  | .refclkLoss dt => Sys2Proof.Machine.execRefclkLoss dt s
  | .refclkReturn dt => Sys2Proof.Machine.execRefclkReturn dt s
  | .perstAssert => Sys2Proof.Machine.execPerstAssert s
  | .perstDeassert => Sys2Proof.Machine.execPerstDeassert s
  | .pfFlr => Sys2Proof.Machine.execPfFlr s
  | .pcieHotReset link => Sys2Proof.Machine.execPcieHotReset link s
  | .pcieLinkDown link => Sys2Proof.Machine.execPcieLinkDown link s
  | .vfFlr fn => Sys2Proof.Machine.execVfFlr fn s
  | .coldStart dt link fails => Sys2Proof.Machine.execColdStart dt link fails s
  | .thermalTrip temps => Sys2Proof.Machine.execThermalTrip temps s
  | .thermAlertEval temps => Sys2Proof.Machine.execThermAlertEval temps s
  | .i3cEntdaa addr => Sys2Proof.Machine.execI3cEntdaa addr s
  | .i3cAlertCauseRead => Sys2Proof.Machine.execI3cAlertCauseRead s
  | .i3cStandbyWake v => Sys2Proof.Machine.execI3cStandbyWake v s
  | .jtagTapInstruction ti => Sys2Proof.Machine.execJtagTapInstruction ti s
  | .warmResetDone => Sys2Proof.Machine.execWarmResetDone s
  | .vinRestore mv => Sys2Proof.Machine.execVinRestore mv s
  | .hbmIssueResume stack temp => Sys2Proof.Machine.execHbmIssueResume stack temp s
  | .thermalTripCooled temps => Sys2Proof.Machine.execThermalTripCooled temps s
  | .transferDone f => Sys2Proof.Machine.execTransferDone f s
  | .pcieCompletionTimeout f a cls => Sys2Proof.Machine.execPcieCompletionTimeout f a cls s

end Sys2Proof.Machine
end

