-- ==== Sys2Proof/Safety.lean ====
section
/-! DEFINITION. The terms that claims about the machine are written in: what a row sees, when a command runs, how it ends, and what a safe step keeps. -/
namespace Sys2Proof.Machine
open Sys2Proof

/-! ### Answers -/

/-- The device as a row sees it: the outputs of the row before are dropped (log 5). -/
def State.view (s : State) : Dev := { s.dev with out := Out.blank }

/-- The row answers: the device becomes `d`; the queue, the non-volatile area and the Hayloft stay. -/
def State.gives (s : State) (d : Dev) : Res := .next { s with dev := d }

/-- The row answers some state whose queue of waiting commands is that of `s`. -/
def Answers (r : Res) (s : State) : Prop := ∃ t, r = .next t ∧ t.pending = s.pending

/-- A debug instruction that the boot policy lets reach the debug unit (R346). -/
def DebugPermitted (c : Instr) (s : State) : Prop := c = .jtagTapInstruction .debug ∧ bitOf s.dev.boot.policy 1 = true

/-! ### Commands -/

/-- Command `f`, with opcode `op`, runs, and its entry is `x`. -/
def Runs (s : State) (f op : Nat) (x : Flight) : Prop :=
  KV.find s.dev.flights f = some x ∧ x.phase = .running ∧ x.opcode = op

/-- The completion ring of the command's queue has a free slot, and no completion waits before it (R33). -/
def SlotFree (d : Dev) (x : Flight) : Prop := (d.queue x.queue).cqSpace = true ∧ (d.queue x.queue).waitCq = []

/-- The host address of the entry at CQ_TAIL (R24, R33). -/
def entryAddr (d : Dev) (x : Flight) : Nat := (d.queue x.queue).cqBase + 32 * (d.queue x.queue).cqTail

/-- From `d` to `t` the command `f` has left flight with its completion entry (Table 2.13) at CQ_TAIL: its
status and tag, its two counters, and CQ_TAIL moved on. -/
def Completed (d t : Dev) (f : Nat) (x : Flight) (st : Status) (a b : Nat) : Prop :=
  KV.find t.flights f = none ∧
  t.host.readLE (entryAddr d x) 4 = st.code * 65536 + x.tag ∧
  t.host.readLE (entryAddr d x + 24) 4 = a % 2 ^ 32 ∧
  t.host.readLE (entryAddr d x + 28) 4 = b % 2 ^ 32 ∧
  (t.queue x.queue).cqTail = ((d.queue x.queue).cqTail + 1) % 2 ^ (d.queue x.queue).cqLog2

/-- The command has its verdict and moves its data; TRANSFER_DONE writes its entry (R35). -/
def Moving (t : Dev) (f : Nat) (st : Status) (a b : Nat) : Prop :=
  ∃ y, KV.find t.flights f = some y ∧ y.phase = .moving ∧ y.status = st ∧ y.countA = a % 2 ^ 32 ∧ y.countB = b % 2 ^ 32

/-- The same commands are in flight, each as it was but for the extension that link recovery adds to its time (R258). -/
def SameFlights (d t : Dev) : Prop :=
  ∀ f, (KV.find t.flights f).map (fun x => { x with ext := 0 }) = (KV.find d.flights f).map (fun x => { x with ext := 0 })

/-! ### Packets -/

/-- The row that takes a packet `pkt` from port `p`: by its kind, and a collective packet's by its phase. -/
def packetRow (p : Nat) (pkt : Pkt) : Instr → Bool
  | .writePacket q k => q == p && k == pkt && pkt.kind == kWrite
  | .readReqPacket q k => q == p && k == pkt && pkt.kind == kReadReq
  | .readDataPacket q k => q == p && k == pkt && pkt.kind == kReadData
  | .pagePacket q k => q == p && k == pkt && pkt.kind == kPage
  | .signalPacket q k => q == p && k == pkt && pkt.kind == kSignal
  | .mailboxPacket q k => q == p && k == pkt && pkt.kind == kMailbox
  | .responsePacket q k => q == p && k == pkt && pkt.kind == kResponse
  | .collectivePacket q k => q == p && k == pkt && pkt.kind == kCollective && !([phFail, phSlotReply, phSlotResult, phSlotAbort].contains (pktPhase pkt))
  | .collFailPacket q k => q == p && k == pkt && pkt.kind == kCollective && pktPhase pkt == phFail
  | .slotReply q k => q == p && k == pkt && pkt.kind == kCollective && pktPhase pkt == phSlotReply
  | .slotResult q k => q == p && k == pkt && pkt.kind == kCollective && pktPhase pkt == phSlotResult
  | .slotAbort q k => q == p && k == pkt && pkt.kind == kCollective && pktPhase pkt == phSlotAbort
  | _ => false

/-- The port carries traffic. -/
def Dev.carries (d : Dev) (p : Nat) : Prop := p < 16 ∧ ((d.port p).state = .up ∨ (d.port p).state = .fenced)

/-- The device once the packet's number is noted (R248) and REST has ended. -/
def Dev.noted (d : Dev) (p : Nat) (pkt : Pkt) : Dev := d.endRest.noteSeq p pkt

/-- The packet passes the five checks of R247. -/
def Dev.passes (d : Dev) (p : Nat) (pkt : Pkt) : Prop :=
  d.carries p ∧ pktCrcOk pkt = true ∧ d.addressed p pkt = true ∧ ((d.noted p pkt).port p).vcOk pkt = true ∧
    (d.noted p pkt).ingressOk p pkt = true ∧ (d.noted p pkt).mapOk pkt = true

/-! ### Tiles -/

/-- The controller of plan shed k stands at `t`, an instruction of class `cls` that it carries out itself (R80, R84). -/
def Env.standsAt (e : Env) (k cls : Nat) (t : TI) : Prop :=
  t = e.x.cur e.im k ∧ e.x.markers = e.r.step ∧ e.x.pc < e.im.count k ∧ e.x.batch = none ∧ t.cls = cls ∧ t.held = true

/-- The instruction at the front of queue `u` has executed and left `d`: the core gave way, the tile is counted, and the
queue moves on (R78, R89, R309). -/
def Dev.tileDone (d : Dev) (e : Env) (f k u : Nat) : Dev := ((d.useCore e.core).countTile e).retireTile f k u

/-! ### What rows may write -/

/-- The rows that may write the non-volatile area: retirements, channels, the least security version, the key (R233,
R312, R315, R344, R348). -/
def writesNv : Instr → Bool
  | .fallowSliceVerdict _ _ _ _ => true
  | .shedLeaveService _ => true
  | .coreRetire _ => true
  | .testRun _ _ => true
  | .kekLoad _ _ => true
  | .warmResetDone => true
  | .coldStart _ _ _ => true
  | _ => false

/-- The rows that may write the Hayloft (R214, R227 to R230). -/
def writesHay : Instr → Bool
  | .featureSet _ => true
  | .hayloftWrite _ _ => true
  | .hayloftTrim _ => true
  | .hayloftRead _ _ _ => true
  | .hayloftRelocation _ _ => true
  | .planLoad _ _ _ => true
  | .weightFetchDone _ _ _ => true
  | .pinnedFetchDone _ _ _ _ => true
  | _ => false

/-! ### What a step keeps -/

/-- Nothing but what an interrupt, an event or the end of a command touches differs: both memories of the
device, the registers, the paddocks, the plans, the links, the power state and all the rest are the same. -/
structure Dev.Keeps (d t : Dev) : Prop where
  now : t.now = d.now
  free : t.free = d.free
  adm : t.adm = d.adm
  bar2 : t.bar2 = d.bar2
  numVfs : t.numVfs = d.numVfs
  aer : t.aer = d.aer
  lastServed : t.lastServed = d.lastServed
  nextFlight : t.nextFlight = d.nextFlight
  rxMbox : t.rxMbox = d.rxMbox
  txMbox : t.txMbox = d.txMbox
  pads : t.pads = d.pads
  saved : t.saved = d.saved
  switches : t.switches = d.switches
  plans : t.plans = d.plans
  acc : t.acc = d.acc
  soft : t.soft = d.soft
  absent : t.absent = d.absent
  groups : t.groups = d.groups
  features : t.features = d.features
  keys : t.keys = d.keys
  hbm : t.hbm = d.hbm
  sram : t.sram = d.sram
  stackTab : t.stackTab = d.stackTab
  chanErr : t.chanErr = d.chanErr
  poison : t.poison = d.poison
  link : t.link = d.link
  ports : t.ports = d.ports
  route : t.route = d.route
  routeGen : t.routeGen = d.routeGen
  sendSeq : t.sendSeq = d.sendSeq
  recvSeq : t.recvSeq = d.recvSeq
  gtc : t.gtc = d.gtc
  dies : t.dies = d.dies
  supply : t.supply = d.supply
  pll : t.pll = d.pll
  devPower : t.devPower = d.devPower
  cap : t.cap = d.cap
  capSince : t.capSince = d.capSince
  capLast : t.capLast = d.capLast
  fallow : t.fallow = d.fallow
  cores : t.cores = d.cores
  eth : t.eth = d.eth
  qps : t.qps = d.qps
  i3c : t.i3c = d.i3c
  jtag : t.jtag = d.jtag
  boot : t.boot = d.boot


/-- Nothing that the non-volatile area records is taken back: retirements, sheds out of service, channels
mapped out, and the least security version (R233, R312, R315, R344). -/
def NonVol.grows (a b : NonVol) : Prop :=
  (∀ k, KV.has a.retired k = true → KV.has b.retired k = true) ∧
  (∀ s, s ∈ a.shedsOut → s ∈ b.shedsOut) ∧
  (∀ c, c ∈ a.chansOut → c ∈ b.chansOut) ∧
  a.minSvn ≤ b.minSvn

/-- The Hayloft's contents are in canonical form, and the keys of its written blocks are in rising order. -/
def Hay.canonical (h : Hay) : Prop := h.mem.wf = true ∧ KV.sorted h.keys = true

end Sys2Proof.Machine
end

