-- ==== Sys2Proof/Certificates/Slice0/Obligations.lean ====
section
/-! DEFINITION. The statements about the machine, for the provers. -/
open Sys2Proof Sys2Proof.Machine

/-! ### The machine as a whole -/

/-- A step takes the command at the front of the queue and runs it with the queue's rest. -/
def Obligations.StepRunsTheFrontCommand : Prop :=
  ∀ (c : Instr) (rest : List Instr) (s : State), step { s with pending := c :: rest } = exec c { s with pending := rest }

/-- With no command waiting, one nanosecond passes (the model's choice, log 4): the clock moves on, and a
global tick counter that counts at its nominal rate in ACTIVE or REST gains one tick (R274). Nothing is
commanded, so the two memories, the queues and the commands in flight stay (but for the extensions of R258). -/
def Obligations.IdleStepCountsOneTick : Prop :=
  ∀ s : State, s.pending = [] →
    ∃ t, step s = .next t ∧ t.pending = [] ∧ t.nv = s.nv ∧ t.hay = s.hay ∧ t.dev.now = s.dev.now + 1 ∧
      SameFlights s.dev t.dev ∧ t.dev.queues = s.dev.queues ∧ t.dev.hbm = s.dev.hbm ∧ t.dev.host = s.dev.host ∧
      (s.dev.gtc.counting = true → s.dev.gtc.ratePpb = 0 → s.dev.gtc.frac < 1000000000 → s.dev.devPower ≠ .standby →
        t.dev.gtc.val = s.dev.gtc.val + 1)

/-- Every command but a debug instruction that the boot policy permits answers a next state, and leaves the
commands that wait behind it as they are. -/
def Obligations.EveryCommandAnswers : Prop :=
  ∀ (c : Instr) (s : State), ¬ DebugPermitted c s → Answers (exec c s) s

/-- No row takes back what the non-volatile area records: a core once retired stays retired, a shed once out
of service stays out, a channel once mapped out stays mapped out, and the least security version never
falls, over every command, reset and supply event. -/
def Obligations.NonVolatileRecordsOnlyGrow : Prop :=
  ∀ s t : State, step s = .next t → NonVol.grows s.nv t.nv

/-- The Hayloft's contents keep their canonical form over every step. -/
def Obligations.HayloftStaysCanonical : Prop :=
  ∀ s t : State, s.hay.canonical → step s = .next t → t.hay.canonical

/-- The Hayloft's contents are canonical at reset. -/
def Obligations.HayloftCanonicalAtReset : Prop := State.reset.hay.canonical

/-- After reset no queue is bound, no command is in flight, READY is 0, and the fallow policy and every
feature are at their defaults. -/
def Obligations.ResetLeavesNothingBound : Prop :=
  State.reset.pending = [] ∧ State.reset.dev.flights = [] ∧ (∀ q, (State.reset.dev.queue q).state = .unbound) ∧
  State.reset.dev.adm.enable = false ∧ State.reset.dev.boot.ready = false ∧
  (∀ id, State.reset.dev.feature id = featureDefault id) ∧
  State.reset.dev.fallow = { enable := true, minIdle := 50, cap := 100 } ∧
  (∀ s, (State.reset.dev.shed s).power = .off) ∧ (∀ p, (State.reset.dev.port p).state = .disabled)

/-- R346: a JTAG debug instruction under a policy that clears bit 1 selects BYPASS; one that the policy
permits stops, since the spec does not say what the debug unit does. The other instructions are selected,
and IDCODE answers the device's code. -/
def Obligations.JtagInstructionsSelect : Prop :=
  ∀ s : State,
    (bitOf s.dev.boot.policy 1 = true → exec (.jtagTapInstruction .debug) s = .refused .debugUnit) ∧
    (bitOf s.dev.boot.policy 1 = false →
      exec (.jtagTapInstruction .debug) s = s.gives { s.view with jtag := .bypass }) ∧
    exec (.jtagTapInstruction .bypass) s = s.gives { s.view with jtag := .bypass } ∧
    exec (.jtagTapInstruction .sample) s = s.gives { s.view with jtag := .sample } ∧
    exec (.jtagTapInstruction .extest) s = s.gives { s.view with jtag := .extest } ∧
    exec (.jtagTapInstruction .highz) s = s.gives { s.view with jtag := .highz } ∧
    (∃ t, exec (.jtagTapInstruction .idcode) s = s.gives t ∧ t.jtag = .idcode ∧ t.out.value = idcode)

/-! ### Completions -/

/-- R33, R39: a command that ends while its ring has room leaves flight with its entry at CQ_TAIL. -/
def Obligations.CompletionEntryIsWritten : Prop :=
  ∀ (d : Dev) (f : Nat) (x : Flight) (st : Status) (a b : Nat),
    KV.find d.flights f = some x → x.phase ≠ .finished → SlotFree d x → Completed d (d.finish f st a b) f x st a b

/-- R33: while no completion slot is free the finished command stays in flight with its verdict, behind those
that wait already, with no byte of host memory written but a firmware fault's event (Table 3.11), and a second
verdict changes nothing (R39). -/
def Obligations.FullRingKeepsTheCommand : Prop :=
  ∀ (d : Dev) (f : Nat) (x : Flight) (st st' : Status) (a b a' b' : Nat),
    KV.find d.flights f = some x → x.phase ≠ .finished → (d.queue x.queue).cqSpace = false →
      (∃ y, KV.find (d.finish f st a b).flights f = some y ∧ y.phase = .finished ∧ y.status = st) ∧
      ((d.finish f st a b).queue x.queue).waitCq = (d.queue x.queue).waitCq ++ [f] ∧
      (d.finish f st a b).host = (d.postInternal f st x.tag).host ∧ (st ≠ .internal → d.postInternal f st x.tag = d) ∧
      (d.finish f st a b).finish f st' a' b' = d.finish f st a b

/-- What the end of a command leaves: all of the device that `Dev.Keeps` names, every other queue, and every byte
of host memory outside the entry, but for the event of a firmware fault, which a status other than ST_INTERNAL
does not post. -/
def Obligations.CompletionKeepsTheRest : Prop :=
  ∀ (d : Dev) (f : Nat) (x : Flight) (st : Status) (a b : Nat), KV.find d.flights f = some x →
    (x.phase = .finished → d.finish f st a b = d) ∧
    Dev.Keeps d (d.finish f st a b) ∧ (st ≠ .internal → d.postInternal f st x.tag = d) ∧ (∀ j, j ≠ x.queue → (d.finish f st a b).queue j = d.queue j) ∧
    ∀ i, x.phase ≠ .finished → i < entryAddr d x ∨ entryAddr d x + 32 ≤ i → (d.finish f st a b).host.read i = (d.postInternal f st x.tag).host.read i

/-! ### Administration and memory commands -/

/-- NOP, IDENTIFY, FEATURE_GET, LOG_READ and HAYLOFT_STATUS report and complete with ST_OK; the three that
write a page or records write host memory, and nothing else of the device changes but what the end of a
command touches (and the ports' counts of corrected codewords, which reach the model with a read of the port log). -/
def Obligations.ReportsComplete : Prop :=
  ∀ (s : State) (f : Nat) (x : Flight), SlotFree s.dev x →
    (Runs s f 0x00 x → ∃ t, exec (.nop f) s = s.gives t ∧ Completed s.dev t f x .ok 0 0 ∧ Dev.Keeps s.dev t) ∧
    (Runs s f 0x01 x → ∃ t, exec (.identify f) s = s.gives t ∧ Completed s.dev t f x .ok 4096 0 ∧ Dev.Keeps s.dev t) ∧
    (Runs s f 0x02 x → ∃ t, exec (.featureGet f) s = s.gives t ∧ Dev.Keeps s.dev t ∧
      Completed s.dev t f x .ok (s.dev.feature (fld (x.w 2) 0 16)) (s.dev.feature (fld (x.w 2) 0 16) / 2 ^ 32)) ∧
    (∀ corr n left, Runs s f 0x93 x →
      n = min (x.w 4 / (logSize s.view (fld (x.w 5) 0 8)).2) ((logSize s.view (fld (x.w 5) 0 8)).1 - x.w 6) →
      left = (logSize s.view (fld (x.w 5) 0 8)).1 - x.w 6 - n →
      ∃ t, exec (.logRead f corr) s = s.gives t ∧ Completed s.dev t f x .ok n left ∧
        (fld (x.w 5) 0 8 ≠ 1 ∨ corr = [] → Dev.Keeps s.dev t) ∧ (∀ p, { t.port p with corrected := 0 } = { s.dev.port p with corrected := 0 }) ∧
        t.hbm = s.dev.hbm ∧ t.pads = s.dev.pads ∧ t.gtc = s.dev.gtc) ∧
    (Runs s f 0x33 x → ∃ t m, exec (.hayloftStatus f) s = s.gives t ∧ Completed s.dev t f x .ok 10800 m ∧ Dev.Keeps s.dev t ∧
      (∀ k, k < 12 → m ≤ (s.hay.stack k).reserve))

/-- FEATURE_SET writes the feature it names and answers the value before; a value outside the feature's range
changes nothing and completes with ST_BAD_PARAM. -/
def Obligations.FeatureSetWritesOneFeature : Prop :=
  ∀ (s : State) (f : Nat) (x : Flight), Runs s f 0x03 x → SlotFree s.dev x →
    (featureBad s.nv s.view (fld (x.w 2) 0 16) (x.d 4) = false →
      ∃ t h, exec (.featureSet f) s = .next { s with dev := t, hay := h } ∧
        Completed s.dev t f x .ok (s.dev.feature (fld (x.w 2) 0 16)) (s.dev.feature (fld (x.w 2) 0 16) / 2 ^ 32) ∧
        t.feature (fld (x.w 2) 0 16) = x.d 4 ∧ (∀ j, j ≠ fld (x.w 2) 0 16 → t.feature j = s.dev.feature j) ∧
        (¬ (0x0120 ≤ fld (x.w 2) 0 16 ∧ fld (x.w 2) 0 16 ≤ 0x013F) → h = s.hay)) ∧
    (featureBad s.nv s.view (fld (x.w 2) 0 16) (x.d 4) = true →
      ∃ t, exec (.featureSet f) s = s.gives t ∧ Completed s.dev t f x .badParam 0 0 ∧ t.features = s.dev.features)

/-- QUEUE_BIND gives an unbound queue the function, paddock, credit, rings, vector and timeout it names, with both rings
empty, and refuses a queue that is bound; with UNBIND it tears the queue down, returns its registers to their reset
values and completes with the commands aborted and the completions discarded, and of a queue that is not bound it
completes with ST_NOT_IN_PADDOCK. -/
def Obligations.QueuesAreBoundAndUnbound : Prop :=
  (∀ (s : State) (f : Nat) (x : Flight), Runs s f 0x06 x → SlotFree s.dev x → x.isUnbind = false → x.bindQueue ≠ x.queue →
     ((s.dev.queue x.bindQueue).state = .unbound → ∃ t, exec (.queueBind f) s = s.gives t ∧ Completed s.dev t f x .ok 0 0 ∧ Dev.Keeps s.dev t ∧
       t.queue x.bindQueue = { Queue.blank with
         fn := fld (x.w 2) 16 6, paddock := x.paddock, credit := fld (x.w 3) 0 11, sqBase := x.d 4, cqBase := x.d 6,
         sqLog2 := fld (x.w 8) 0 5, cqLog2 := fld (x.w 8) 8 5, vector := fld (x.w 9) 0 11,
         timeoutMs := if fld (x.w 9) 16 16 = 0 then 10000 else fld (x.w 9) 16 16, state := .active }) ∧
     ((s.dev.queue x.bindQueue).state ≠ .unbound → ∃ t, exec (.queueBind f) s = s.gives t ∧ Completed s.dev t f x .badParam 0 0 ∧
       Dev.Keeps s.dev t ∧ (∀ j, j ≠ x.queue → t.queue j = s.dev.queue j))) ∧
  (∀ (s : State) (f : Nat) (x : Flight), Runs s f 0x06 x → x.isUnbind = true →
     ((s.dev.queue x.bindQueue).state ≠ .unbound →
       exec (.queueUnbind f) s = s.gives (((s.view.teardownQueue x.bindQueue f .unbound).1.setQueue x.bindQueue Queue.blank).finish f .ok
         (s.view.teardownQueue x.bindQueue f .unbound).2.1 (s.view.teardownQueue x.bindQueue f .unbound).2.2) ∧
       (x.bindQueue ≠ x.queue → ∃ t, exec (.queueUnbind f) s = s.gives t ∧ t.queue x.bindQueue = Queue.blank)) ∧
     ((s.dev.queue x.bindQueue).state = .unbound → SlotFree s.dev x →
       ∃ t, exec (.queueUnbind f) s = s.gives t ∧ Completed s.dev t f x .notInPaddock 0 0))

/-- R369: MAP_UPDATE replaces the map it names, moves its generation on and answers it; a table that is not in
order is refused and both maps stay. -/
def Obligations.MapUpdateReplacesOneMap : Prop :=
  ∀ (s : State) (f : Nat) (x : Flight) (p : Paddock), Runs s f 0x07 x → SlotFree s.dev x → s.dev.pad x.paddock = some p →
    (fld (x.w 2) 0 4 ≠ 0 → mapOk (readMap s.dev.host (x.d 4) (x.w 6)) = true →
      ∃ t, exec (.mapUpdate f) s = s.gives t ∧ Completed s.dev t f x .ok ((p.hostGen + 1) % 2 ^ 32) 0 ∧
        t.pad x.paddock = some { p with
          hostMap := readMap s.dev.host (x.d 4) (x.w 6), hostGen := (p.hostGen + 1) % 2 ^ 32 } ∧
        ∀ j, j ≠ x.paddock → t.pad j = s.dev.pad j) ∧
    (mapOk (readMap s.dev.host (x.d 4) (x.w 6)) = false →
      ∃ t, exec (.mapUpdate f) s = s.gives t ∧ Completed s.dev t f x .badParam 0 0 ∧ t.pads = s.dev.pads) ∧
    (fld (x.w 2) 0 4 = 0 → mapOk (readMap s.dev.host (x.d 4) (x.w 6)) = true →
      (∀ e ∈ readMap s.dev.host (x.d 4) (x.w 6), s.nv.reachesHole e.1 e.2 = false ∧ e.1 + e.2 ≤ hbmTop ∧
        ∀ q ∈ s.dev.pads, q.1 ≠ x.paddock → q.2.hitsDedicated e.1 e.2 = false) →
      ∃ t, exec (.mapUpdate f) s = s.gives t ∧ Completed s.dev t f x .ok ((p.hbmGen + 1) % 2 ^ 32) 0 ∧
        t.pad x.paddock = some { p with
          hbmMap := readMap s.dev.host (x.d 4) (x.w 6), hbmGen := (p.hbmGen + 1) % 2 ^ 32 })

/-- COPY between ranges of this device that do not meet, and FILL, leave the bytes they name in the
destination and every other byte of both memories as it was, and move until TRANSFER_DONE; a length of 0
completes with ST_EMPTY; a COPY to or from a peer sends its packets; and an uncorrectable error of HBM ends a FILL
with ST_MEM_UNCORRECTABLE and the address. -/
def Obligations.CopyAndFillMoveTheirBytes : Prop :=
  ∀ (s : State) (f : Nat) (x : Flight),
    (Runs s f 0x20 x → fld (x.w 8) 0 4 < 2 → fld (x.w 8) 4 4 < 2 → x.d 6 ≠ 0 → s.dev.poison = [] →
      ¬ (spaceOf (fld (x.w 8) 0 4) = spaceOf (fld (x.w 8) 4 4) ∧ x.d 2 ≠ x.d 4 ∧ overlaps (x.d 2) (x.d 6) (x.d 4) (x.d 6) = true) →
      ∃ t, exec (.copy f .none) s = s.gives t ∧ Moving t f .ok (x.d 6) (x.d 6 / 2 ^ 32) ∧
        t.readSpace (spaceOf (fld (x.w 8) 4 4)) (x.d 4) (x.d 6) = s.dev.readSpace (spaceOf (fld (x.w 8) 0 4)) (x.d 2) (x.d 6) ∧
        ∀ sp a, sp ≠ spaceOf (fld (x.w 8) 4 4) ∨ a < x.d 4 ∨ x.d 4 + x.d 6 ≤ a → t.readSpace sp a 1 = s.dev.readSpace sp a 1) ∧
    (Runs s f 0x21 x → x.d 4 ≠ 0 →
      ∃ t, exec (.fill f .none) s = s.gives t ∧ Moving t f .ok (x.d 4) (x.d 4 / 2 ^ 32) ∧
        t.readSpace (spaceOf (fld (x.w 7) 0 4)) (x.d 2) (x.d 4) = patternBytes (x.w 6) (x.d 4) ∧
        ∀ sp a, sp ≠ spaceOf (fld (x.w 7) 0 4) ∨ a < x.d 2 ∨ x.d 2 + x.d 4 ≤ a → t.readSpace sp a 1 = s.dev.readSpace sp a 1) ∧
    (SlotFree s.dev x → Runs s f 0x20 x → x.d 6 = 0 → ∀ mf, ∃ t, exec (.copy f mf) s = s.gives t ∧ Completed s.dev t f x .empty 0 0) ∧
    (SlotFree s.dev x → Runs s f 0x21 x → x.d 4 = 0 → ∀ mf, ∃ t, exec (.fill f mf) s = s.gives t ∧ Completed s.dev t f x .empty 0 0) ∧
    (Runs s f 0x20 x → x.d 6 ≠ 0 → s.dev.poison = [] → fld (x.w 8) 0 4 = 2 ∨ fld (x.w 8) 4 4 = 2 →
      exec (.copy f .none) s = s.gives (s.view.copyPeer f x (x.d 6))) ∧
    (∀ a, Runs s f 0x21 x → x.d 4 ≠ 0 → fld (x.w 7) 0 4 = 0 →
      exec (.fill f (.uncorrectable a)) s = s.gives ((s.view.countErr s.nv a (fun c => { c with words := (s.dev.now, a / 32) :: c.words })).finishMem f a))

/-- R35, R336: once every packet of a moving command is answered and no port that it controls is on its way, TRANSFER_DONE writes its entry with the verdict it
reached, and before that nothing ends; a failed read of host memory ends the command that reads it with
ST_MEM_UNCORRECTABLE and both counters all ones, after EV_HOST_READ_ERROR. -/
def Obligations.CommandsEndAfterTheirData : Prop :=
  (∀ (s : State) (f : Nat) (x : Flight), KV.find s.dev.flights f = some x → x.phase = .moving → SlotFree s.dev x →
     (s.dev.owes f = false → s.dev.waitsPort f = false →
       ∃ t, exec (.transferDone f) s = s.gives t ∧ Completed s.dev t f x x.status x.countA x.countB) ∧
     (s.dev.owes f = true ∨ s.dev.waitsPort f = true → exec (.transferDone f) s = s.gives s.view)) ∧
  (∀ (s : State) (f a cls : Nat) (x : Flight), KV.find s.dev.flights f = some x →
     x.phase = .running ∨ x.phase = .moving ∧ x.opcode ≠ 0x10 →
     x.readsHost = true →
     exec (.pcieCompletionTimeout f a cls) s =
       s.gives ((s.view.postP evHostReadError x.paddock (x.queue + (s.dev.queue x.queue).fn * 256 + x.tag * 65536)
         [a % 2 ^ 32, a / 2 ^ 32 % 2 ^ 32, cls]).finishMem f (2 ^ 64 - 1)) ∧
     (KV.find s.dev.colls f = none → SlotFree s.dev x →
       ∃ t, exec (.pcieCompletionTimeout f a cls) s = s.gives t ∧ Completed s.dev t f x .memUncorrectable 0xFFFFFFFF 0xFFFFFFFF))

/-! ### Doorbells and the administration queue -/

/-- R28: a doorbell is refused when its queue is unbound or STOPPED, when the tail lies past the ring's end, and when it
moves the tail backward over unfetched entries: then nothing of the queue moves and EV_DOORBELL_INVALID names the
queue and the function; another one is taken, so that of two the last counts; and one
in the BAR0 of another function does nothing (R21). -/
def Obligations.SubmissionDoorbellMovesTheTail : Prop :=
  (∀ (s : State) (fn q : Nat) (v : Word) (stores : List (Nat × List Byte)), s.dev.fullUp = true → s.dev.answers fn q = true →
    ((s.dev.queue q).state ≠ .unbound → (s.dev.queue q).badTail (fld v.toNat 0 16) = false →
      ∃ t, exec (.sqDbWrite fn q v stores) s = s.gives t ∧ (t.queue q).tail = fld v.toNat 0 16 ∧
        (t.queue q).head = (s.dev.queue q).head ∧ t.flights = s.dev.flights ∧
        (∀ j, j ≠ q → t.queue j = { s.dev.queue j with held := (t.queue j).held })) ∧
    (((s.dev.queue q).state = .unbound ∨ (s.dev.queue q).badTail (fld v.toNat 0 16) = true) → ∃ t d,
      exec (.sqDbWrite fn q v stores) s = s.gives t ∧
        t = Dev.postD d evDoorbellInvalid (q + fn * 256) [v.toNat, (s.dev.queue q).head] ∧ d.queues = s.dev.queues ∧
        d.flights = s.dev.flights ∧ t.queues = s.dev.queues ∧ t.flights = s.dev.flights)) ∧
  (∀ (s : State) (fn q : Nat) (v : Word) (stores : List (Nat × List Byte)), s.dev.fullUp = false ∨ s.dev.answers fn q = false →
    exec (.sqDbWrite fn q v stores) s = s.gives { s.view with host := stores.foldl (fun m w => m.writes w.1 w.2) s.dev.host }) ∧
  (∀ (x : Queue) (n h : Nat), n = 2 ^ x.sqLog2 →
    (x.badTail h = true ↔ x.state = .stopped ∨ n ≤ h ∨ (h + n - x.head) % n < (x.tail + n - x.head) % n))

/-- R34: a head is refused when the queue is unbound, when it lies past the ring's end, and when it moves past
completions not yet written: then the head stays and EV_DOORBELL_INVALID of kind 1 names the queue and the
function; another one is taken and frees its slots, for which the completions that waited are written; one
that leaves the head where it is is valid and moves nothing. Queue 0 is not UNBOUND while the commands fetched before its
ENABLE was cleared run to completion into the ring (R22). -/
def Obligations.CompletionHeadFreesSlots : Prop :=
  (∀ (s : State) (fn q : Nat) (v : Word), s.dev.fullUp = true → s.dev.answers fn q = true →
    ((s.dev.queue q).state ≠ .unbound ∨ s.dev.drains q = true → (s.dev.queue q).badHead (fld v.toNat 0 16) = false →
      exec (.cqHdWrite fn q v) s = s.gives ((s.view.endRest.setQueue q { s.dev.queue q with cqHead := fld v.toNat 0 16 }).flushCq q
        (s.dev.queue q).waitCq)) ∧
    ((s.dev.queue q).state ≠ .unbound → (s.dev.queue q).cqHead < 2 ^ (s.dev.queue q).cqLog2 → fld v.toNat 0 16 = (s.dev.queue q).cqHead →
      (s.dev.queue q).waitCq = [] → ∃ t, exec (.cqHdWrite fn q v) s = s.gives t ∧ t.queue q = s.dev.queue q ∧ t.flights = s.dev.flights ∧
        t.host = s.dev.host) ∧
    (((s.dev.queue q).state = .unbound ∧ s.dev.drains q = false ∨ (s.dev.queue q).badHead (fld v.toNat 0 16) = true) → ∃ t,
      exec (.cqHdWrite fn q v) s = s.gives t ∧
        t = Dev.postD s.view.endRest evDoorbellInvalid (q + fn * 256 + 2 ^ 14) [v.toNat, (s.dev.queue q).cqTail] ∧
        t.queues = s.dev.queues ∧ t.flights = s.dev.flights)) ∧
  (∀ (s : State) (fn q : Nat) (v : Word), s.dev.fullUp = false ∨ s.dev.answers fn q = false → exec (.cqHdWrite fn q v) s = s.gives s.view) ∧
  (∀ (x : Queue) (n h : Nat), n = 2 ^ x.cqLog2 →
    (x.badHead h = true ↔ n ≤ h ∨ (x.cqTail + n - x.cqHead) % n < (h + n - x.cqHead) % n))

/-- R22: with READY 1, a write of ADMQ_CFG that sets ENABLE with sizes in range opens queue 0 over the rings
ADMQ_SQ and ADMQ_CQ name, from slot 0, with credit 64 and a default timeout of 10,000 ms, for which completions that
waited for a slot are written; before READY it is
held; clearing ENABLE unbinds queue 0, and a clear before READY cancels a held enable. -/
def Obligations.AdminQueueOpensAndCloses : Prop :=
  ∀ (s : State) (v : Word), s.dev.barUp = true → s.dev.devPower ≠ .standby →
    (s.dev.adm.enable = false → logOk (fld v.toNat 0 5) = true → logOk (fld v.toNat 16 5) = true → s.dev.boot.ready = true →
      ∃ t, exec (.admqEnable v) s = s.gives t ∧ t.adm.enable = true ∧ t.adm.held = false ∧ (t.queue 0).state = .active ∧
        (t.queue 0).head = 0 ∧ (t.queue 0).tail = 0 ∧ (t.queue 0).cqHead = 0 ∧ (t.queue 0).credit = 64 ∧ (t.queue 0).timeoutMs = 10000 ∧
        ((s.dev.queue 0).waitCq = [] → t.flights = s.dev.flights ∧ t.queue 0 = { Queue.blank with
          sqBase := s.dev.adm.sqBase, cqBase := s.dev.adm.cqBase, sqLog2 := fld v.toNat 0 5, cqLog2 := fld v.toNat 16 5, credit := 64,
          timeoutMs := 10000, state := .active })) ∧
    (s.dev.adm.enable = false → logOk (fld v.toNat 0 5) = true → logOk (fld v.toNat 16 5) = true → s.dev.boot.ready = false →
      ∃ t, exec (.admqEnable v) s = s.gives t ∧ t.adm.enable = false ∧ t.adm.held = true ∧ t.queues = s.dev.queues) ∧
    (s.dev.adm.enable = true → ∃ t, exec (.admqDisable v) s = s.gives t ∧ t.adm.enable = false ∧ (t.queue 0).state = .unbound ∧
      ∀ j, j ≠ 0 → t.queue j = s.dev.queue j) ∧
    (s.dev.adm.enable = false → ∃ t, exec (.admqDisable v) s = s.gives t ∧ t.adm.held = false ∧ t.queues = s.dev.queues)

/-! ### Event rings, interrupts and the other registers -/

/-- R58, R60, Tables 3.6 and 3.9, R35: enabling a ring starts it empty at slot 0 over the base and size written, then writes what it
holds; a head within the ring is taken and what was held follows; a head past the records written is refused
with EV_DOORBELL_INVALID of kind 2; clearing the enable stops the ring. OVERFLOW and EVENT clear where 1 is written and
stay where 0 is, and a read of LOST returns the count and clears it; the coalescing time of a vector, once it has
run out since the first completion not yet signalled, raises the vector and starts the count afresh, and before
that only time passes. -/
def Obligations.EventsReachTheirFunction : Prop :=
  (∀ (s : State) (fn : Nat) (v : DWord) (h : Word), s.dev.barUp = true →
     ((s.dev.fn fn).ring.enable = false → logOk (fld v.toNat 0 5) = true →
       exec (.evtRingEnable fn v) s = s.gives ((s.view.endRest.updRing fn (fun r => { r with
         base := ringBaseOf v.toNat, log2 := fld v.toNat 0 5, enable := true, head := 0, tail := 0, phase := true })).drainRing fn)) ∧
     ((s.dev.fn fn).ring.enable = false → ∃ t, exec (.evtRingDisable fn v) s = s.gives t ∧
       (t.fn fn).ring = { (s.dev.fn fn).ring with base := ringBaseOf v.toNat, log2 := fld v.toNat 0 5 }) ∧
     ((s.dev.fn fn).ring.enable = true →
       (∃ t, exec (.evtRingDisable fn v) s = s.gives t ∧ (t.fn fn).ring = { (s.dev.fn fn).ring with enable := false }) ∧
       ((s.dev.fn fn).ring.badHead (fld h.toNat 0 16) = false →
         exec (.evtHeadWrite fn h) s = s.gives ((s.view.endRest.updRing fn (fun r => { r with head := fld h.toNat 0 16 })).drainRing fn)) ∧
       ((s.dev.fn fn).ring.badHead (fld h.toNat 0 16) = true →
         exec (.evtHeadWrite fn h) s = s.gives (s.view.endRest.badDoorbell fn 0 2 h.toNat (s.dev.fn fn).ring.tail)))) ∧
  (∀ (s : State) (fn : Nat) (v : Word), s.dev.barUp = true →
     (∃ t, exec (.evtCauseClear fn v) s = s.gives t ∧ (t.fn fn).ring = { (s.dev.fn fn).ring with
       overflow := (s.dev.fn fn).ring.overflow && !bitOf v.toNat 31, event := (s.dev.fn fn).ring.event && !bitOf v.toNat 30 }) ∧
     (∃ t, exec (.evtLostRead fn) s = s.gives t ∧ t.out.value = (s.dev.fn fn).ring.lost ∧
       (t.fn fn).ring = { (s.dev.fn fn).ring with lost := 0 })) ∧
  (∀ (s : State) (fn vec dt n since : Nat), KV.find (s.dev.fn fn).coal vec = some (n, since) →
     (n ≠ 0 → since + s.dev.feature 0x0002 * 1000 ≤ s.dev.now + dt →
       exec (.interruptCoalesceTimeout fn vec dt) s = s.gives
         (((s.view.advance dt).setFn fn { s.dev.fn fn with coal := KV.del (s.dev.fn fn).coal vec }).raise fn vec)) ∧
     (s.dev.now + dt < since + s.dev.feature 0x0002 * 1000 →
       exec (.interruptCoalesceTimeout fn vec dt) s = s.gives (s.view.advance dt)))

/-- R335, Table 18.2: BAR2_WIN of the physical function takes the base, and ENABLE only under a boot policy
that sets DEBUG_APERTURE; a read and a write through the open window reach HBM at the window's base; one that
meets an uncorrectable word answers all ones, writes nothing and logs a poisoned completion. -/
def Obligations.Bar2WindowReachesHbm : Prop :=
  ∀ (s : State), s.dev.fullUp = true →
    (∀ v : DWord, fld v.toNat 0 10 ≤ 715 → ∃ t, exec (.bar2WinWrite 0 v) s = s.gives t ∧ t.bar2.baseGib = fld v.toNat 0 10 ∧
      (bitOf v.toNat 63 = false → t.bar2.enable = false) ∧
      (bitOf v.toNat 63 = true → t.bar2.enable = (bitOf s.dev.boot.policy 0 || s.dev.bar2.enable)) ∧ t.hbm = s.dev.hbm) ∧
    (∀ off len, ∃ t, exec (.bar2Read off len false) s = s.gives t ∧ t.out.data = (rangeFrom off len).map (s.dev.bar2Byte s.nv) ∧
      t.hbm = s.dev.hbm) ∧
    (∀ off, s.dev.bar2.enable = true → off < bar2Size → s.nv.hole (s.dev.bar2Addr off) = false →
      ∃ t, exec (.bar2Read off 1 false) s = s.gives t ∧ t.out.data = [s.dev.hbm.read (s.dev.bar2Addr off)]) ∧
    (∀ off len ds, s.dev.bar2.enable = true → (∃ t, exec (.bar2Read off len true) s = s.gives t ∧ t.out.data = List.replicate len 0xFF ∧
        t.aer = s.dev.aer + 1 ∧ t.hbm = s.dev.hbm) ∧
      ∃ t, exec (.bar2Write off ds true) s = s.gives t ∧ t.hbm = s.dev.hbm ∧ t.aer = s.dev.aer + 1) ∧
    (∀ off (b : Byte), s.dev.bar2.enable = true → off < bar2Size → s.nv.hole (s.dev.bar2Addr off) = false →
      ∃ t, exec (.bar2Write off [b] false) s = s.gives t ∧ t.hbm.read (s.dev.bar2Addr off) = b ∧
        ∀ a, a ≠ s.dev.bar2Addr off → t.hbm.read a = s.dev.hbm.read a)

/-- A write of one word of an MSI-X entry reaches it, and a write to a reserved offset is ignored (R9, R21); NumVFs takes a
number up to 63 and removes no function where it does not fall (R334); a function level reset of an enabled virtual
function resets that function, and one of a function that is not enabled changes nothing (R325). -/
def Obligations.RegistersAndFunctionsAreWritten : Prop :=
  (∀ (s : State) (fn i : Nat) (v : DWord), s.dev.barUp = true → s.dev.devPower ≠ .standby → i < 2048 →
     (∃ t, exec (.registerWrite fn (0x10000 + 16 * i + 8) 4 v) s = s.gives t ∧
       KV.find (t.fn fn).msix i = some { KV.getD (s.dev.fn fn).msix i Msix.blank with data := v.toNat % 2 ^ 32 } ∧
       (t.fn fn).ring = (s.dev.fn fn).ring) ∧
     exec (.registerWrite fn 0x100 4 v) s = s.gives s.view.endRest) ∧
  (∀ (s : State) (n : Nat),
     (s.dev.barUp = true → n ≤ 63 → s.dev.numVfs ≤ n → exec (.numvfsWrite n) s = s.gives { s.view with numVfs := n }) ∧
     (0 < n → n ≤ s.dev.numVfs → exec (.vfFlr n) s = s.gives (s.view.functionReset n)) ∧
     (s.dev.numVfs < n → exec (.vfFlr n) s = s.gives s.view))

/-! ### Mailboxes -/

/-- R52, R53, R56: the sender's words are taken while the mailbox is neither FULL nor ABORTED and ignored
otherwise; GO on a host mailbox sets FULL; either of them sets WAKE_PENDING where the receiver sleeps, and WAKE# where that
is the host; the receiver's read of RXCTL answers the control word and clears FULL; a 1 written to ABORTED clears it,
a 0 does not. -/
def Obligations.HostMailboxPassesAMessage : Prop :=
  ∀ (s : State) (n m i : Nat) (v : Word) (far : Bool) (x : MboxSt), x = s.dev.mbox (.host n m) →
    (s.dev.boot.reset = none → i < 12 → x.full = false → x.aborted = false →
      (s.dev.asleep far (.host n m) = false →
        (∃ t, exec (.mboxDataWrite (.host n m) i v far) s = s.gives t ∧ t.mbox (.host n m) = { x with data := x.data.set i v } ∧
          t.out.wakePin = false) ∧
        (∃ t, exec (.mboxGo (.host n m) far) s = s.gives t ∧ t.mbox (.host n m) = { x with full := true })) ∧
      (s.dev.asleep far (.host n m) = true →
        (∃ t, exec (.mboxDataWrite (.host n m) i v far) s = s.gives t ∧ t.mbox (.host n m) = { x with data := x.data.set i v, wake := true } ∧
          (4 ≤ m → t.out.wakePin = true)) ∧
        (∃ t, exec (.mboxGo (.host n m) far) s = s.gives t ∧ t.mbox (.host n m) = { x with full := true, wake := true }))) ∧
    (x.full = true ∨ x.aborted = true →
      exec (.mboxDataWrite (.host n m) i v far) s = s.gives s.view ∧ exec (.mboxGo (.host n m) far) s = s.gives s.view) ∧
    (x.full = true → ∃ t, exec (.mboxRelease (.host n m)) s = s.gives t ∧ t.out.value = x.rxctl ∧
      t.mbox (.host n m) = { x with full := false }) ∧
    (bitOf v.toNat 2 = true → ∃ t, exec (.mboxAbortedClear (.host n m) v) s = s.gives t ∧
      t.mbox (.host n m) = { x with aborted := false }) ∧
    (bitOf v.toNat 2 = false → exec (.mboxAbortedClear (.host n m) v) s = s.gives s.view) ∧
    (x.wake = true → 4 ≤ m ∨ s.dev.devPower ≠ .standby → ∃ t, exec (.mboxWakeDone (.host n m)) s = s.gives t ∧
      t.mbox (.host n m) = { x with wake := false })

/-- R54, R56: a shed and firmware take turns with a shed's mailbox: the end whose turn it is fills it, the
other end's message changes nothing, and the release hands the turn over; a message to a shed that sleeps sets WAKE_PENDING,
which clears once the shed runs. -/
def Obligations.ShedMailboxAlternates : Prop :=
  ∀ (s : State) (sh : Nat) (ws : List Word), ws.length ≤ 12 →
    ((s.dev.shed sh).mbox.full = false → (s.dev.shed sh).mbox.aborted = false →
      ((s.dev.shed sh).power = .run → s.dev.devPower = .active → ∃ t, exec (.shedMboxMessage sh (s.dev.shed sh).fwSends ws) s = s.gives t ∧
        (t.shed sh).mbox.full = true ∧ (t.shed sh).mbox.wake = (s.dev.shed sh).mbox.wake ∧
        (t.shed sh).fwSends = (s.dev.shed sh).fwSends ∧ (t.shed sh).mbox.data.take ws.length = ws) ∧
      ((s.dev.shed sh).power ≠ .run → (s.dev.shed sh).fwSends = true → ∃ t, exec (.shedMboxMessage sh true ws) s = s.gives t ∧
        (t.shed sh).mbox.full = true ∧ (t.shed sh).mbox.wake = true)) ∧
    exec (.shedMboxMessage sh (!(s.dev.shed sh).fwSends) ws) s = s.gives s.view ∧
    ((s.dev.shed sh).mbox.full = true → exec (.shedMboxMessage sh (s.dev.shed sh).fwSends ws) s = s.gives s.view) ∧
    ((s.dev.shed sh).mbox.full = true → ∃ t, exec (.mboxRelease (.shed sh)) s = s.gives t ∧ (t.shed sh).mbox.full = false ∧
      (t.shed sh).fwSends = !(s.dev.shed sh).fwSends) ∧
    ((s.dev.shed sh).mbox.wake = true → (s.dev.shed sh).power = .run → (s.dev.shed sh).fwSends = true →
      ∃ t, exec (.mboxWakeDone (.shed sh)) s = s.gives t ∧ (t.shed sh).mbox.wake = false)

/-- R301, Table 18.3, R347, R348: firmware accepts STANDBY only with no paddock and nothing in flight, and answers 1 with a
paddock and 2 with a command in flight; QP_CREATE without a paddock, and QP_DESTROY of an unknown handle, answer 1;
QP_DESTROY, PORT_ADDR and KEY_CLEAR do what they name and answer 0; a slot that a region uses is refused with 3;
KEK_LOAD is refused with 3 unless the boot policy provisions; and KEY_LOAD's first part is held with 4, its last enters the
key, or is refused with 1 where it does not unwrap. -/
def Obligations.FirmwareAnswersItsRequests : Prop :=
  (∀ (s : State) (r : List Word), s.view.request 0 0 0x0300 = some r →
     (s.dev.pads ≠ [] → exec (.standbyRequest 0 0) s = s.gives (s.view.reply 0 0 0x0300 [1])) ∧
     (s.dev.pads = [] → s.dev.flights ≠ [] → exec (.standbyRequest 0 0) s = s.gives (s.view.reply 0 0 0x0300 [2])) ∧
     (s.dev.pads = [] → s.dev.flights = [] → ∃ t, exec (.standbyRequest 0 0) s = s.gives t ∧ t.boot.standbyAt.isSome = true)) ∧
  (∀ (s : State) (fn m : Nat) (r : List Word),
     (s.view.request fn m 0x0400 = some r → KV.has s.dev.pads (fld (reqWord r 1) 16 12) = false →
       exec (.qpCreate fn m) s = s.gives (s.view.reply fn m 0x0400 [1, 0])) ∧
     (s.view.request fn m 0x0400 = some r → KV.has s.dev.pads (fld (reqWord r 1) 16 12) = true → fld (reqWord r 1) 4 2 ≠ 3 →
       s.dev.qps.length < 1024 → ∃ q, exec (.qpCreate fn m) s = s.gives (Dev.reply { s.view with
         qps := KV.put s.dev.qps s.view.newQp q, free := s.dev.free + 1 } fn m 0x0400 [0, s.view.newQp]) ∧
         q.paddock = fld (reqWord r 1) 16 12 ∧ q.remoteQpn = fld (reqWord r 2) 0 24 ∧ q.rkey = reqWord r 11 ∧ q.error = false) ∧
     (s.view.request fn m 0x0402 = some r → KV.has s.dev.qps (fld (reqWord r 1) 0 24) = false →
       exec (.qpDestroy fn m) s = s.gives (s.view.reply fn m 0x0402 [1, 0])) ∧
     (s.view.request fn m 0x0402 = some r → KV.has s.dev.qps (fld (reqWord r 1) 0 24) = true →
       s.view.qpNamed (fld (reqWord r 1) 0 24) = false →
       exec (.qpDestroy fn m) s = s.gives (Dev.reply { s.view with qps := KV.del s.dev.qps (fld (reqWord r 1) 0 24) } fn m 0x0402 [0, 0])) ∧
     (s.view.request fn m 0x0404 = some r → ∃ y, exec (.portAddr fn m) s = s.gives (Dev.reply { s.view with
         eth := KV.put s.dev.eth (fld (reqWord r 1) 0 1) y } fn m 0x0404 [0, 0]) ∧
         y.mac = reqWord r 2 + fld (reqWord r 3) 0 16 * 2 ^ 32 ∧ y.vlan = fld (reqWord r 1) 16 12) ∧
     (s.view.request fn m 0x0500 = some r → KV.find (s.dev.fn fn).keyAsm m = none → fld (reqWord r 1) 8 2 = 0 →
       exec (.keyLoad fn m) s = s.gives ((s.view.setFn fn { s.dev.fn fn with
         keyAsm := KV.put (s.dev.fn fn).keyAsm m (fld (reqWord r 1) 0 6, reqBytes r 2 6) }).reply fn m 0x0500 [4])) ∧
     (∀ b kek, s.view.request fn m 0x0500 = some r → KV.find (s.dev.fn fn).keyAsm m = some (fld (reqWord r 1) 0 6, b) → b.length = 48 →
       fld (reqWord r 1) 8 2 = 2 → s.nv.kek = some kek → s.view.slotInUse (fld (reqWord r 1) 0 6) = false →
       ∀ d, d = s.view.setFn fn { s.dev.fn fn with keyAsm := KV.del (s.dev.fn fn).keyAsm m } →
       exec (.keyLoad fn m) s = s.gives (match Config.keyUnwrap kek (b ++ reqBytes r 2 6) with
         | none => d.reply fn m 0x0500 [1]
         | some key => Dev.reply { d with keys := KV.put s.dev.keys (fld (reqWord r 1) 0 6) key } fn m 0x0500 [0])) ∧
     (s.view.request fn m 0x0502 = some r → s.view.slotInUse (fld (reqWord r 1) 0 6) = false →
       exec (.keyClear fn m) s = s.gives (Dev.reply { s.view with keys := KV.del s.dev.keys (fld (reqWord r 1) 0 6) } fn m 0x0502 [0])) ∧
     (s.view.request fn m 0x0502 = some r → s.view.slotInUse (fld (reqWord r 1) 0 6) = true →
       exec (.keyClear fn m) s = s.gives (s.view.reply fn m 0x0502 [3])) ∧
     (s.view.request fn m 0x0504 = some r → bitOf s.dev.boot.policy 2 = false →
       exec (.kekLoad fn m) s = s.gives (s.view.reply fn m 0x0504 [3])) ∧
     (s.view.request fn m 0x0504 = some r → bitOf s.dev.boot.policy 2 = true → fld (reqWord r 1) 0 1 = 0 →
       exec (.kekLoad fn m) s = .next { s with
         nv := { s.nv with kekLow := some (BitVec.ofNat 128 (natLE (reqBytes r 2 4))) }, dev := s.view.reply fn m 0x0504 [0] }) ∧
     (∀ lo, s.view.request fn m 0x0504 = some r → bitOf s.dev.boot.policy 2 = true → fld (reqWord r 1) 0 1 = 1 → s.nv.kekLow = some lo →
       exec (.kekLoad fn m) s = .next { s with
         nv := { s.nv with kek := some (BitVec.ofNat 128 (natLE (reqBytes r 2 4)) ++ lo), kekLow := none }, dev := s.view.reply fn m 0x0504 [0] }))

/-! ### Plans -/

/-- R63, R64: PLAN_LOAD from host memory, HBM or the Hayloft stores a good image at the lowest free place of the
plan store, so that the place holds the image's bytes, the handle names the plan and no other byte of HBM changes; an
image that is refused completes with ST_BAD_PARAM, and one that a failing Hayloft block keeps from being read with
ST_HAYLOFT_READ_FAIL. PLAN_UNLOAD takes the plan away and leaves the others. PLAN_ABORT ends
the run it names with ST_ABORTED and completes with the number of runs it ended. -/
def Obligations.PlansComeAndGo : Prop :=
  ∀ (s : State) (f : Nat) (x : Flight) (bad : Option Nat),
    (∀ bs, Runs s f 0x10 x → fld (x.w 3) 0 2 < 3 → (fld (x.w 3) 0 2 = 1 → s.dev.poison = []) →
      (fld (x.w 3) 0 2 = 2 → s.hay.firstBad (x.d 4) (x.d 6) bad = none) →
      bs = (if fld (x.w 3) 0 2 = 2 then hayReads s.hay s.view (x.d 4) (x.d 6) else s.dev.readSpace (spaceOf (1 - fld (x.w 3) 0 2)) (x.d 4) (x.d 6)) →
      (∀ base, s.view.loadBad x bs = false → s.view.storeRoom (x.d 6) = some base →
        ∃ t, exec (.planLoad f bad .none) s = s.gives t ∧ Moving t f .ok (x.d 6) (x.d 6 / 2 ^ 32) ∧ t.hbm.reads base (x.d 6) = bs ∧
          (∀ a, a < base ∨ base + x.d 6 ≤ a → t.hbm.read a = s.dev.hbm.read a) ∧
          KV.find t.plans x.planKey = some (Plan.fresh x.paddock (fld (x.w 2) 0 16) base (x.d 6)) ∧
          ∀ k, k ≠ x.planKey → KV.find t.plans k = KV.find s.dev.plans k) ∧
      (s.view.loadBad x bs = true ∨ s.view.storeRoom (x.d 6) = none → SlotFree s.dev x →
        ∃ t, exec (.planLoad f bad .none) s = s.gives t ∧ Completed s.dev t f x .badParam 0 0 ∧ Dev.Keeps s.dev t)) ∧
    (∀ b, Runs s f 0x10 x → fld (x.w 3) 0 2 = 2 → s.hay.firstBad (x.d 4) (x.d 6) bad = some b → SlotFree s.dev x →
      ∃ t, exec (.planLoad f bad .none) s = .next { s with hay := s.hay.markFailed b, dev := t } ∧ Completed s.dev t f x .hayloftReadFail 0 0 ∧
        Dev.Keeps s.dev t) ∧
    (Runs s f 0x13 x → (s.view.plan? x).isSome = true → SlotFree s.dev x →
      ∃ t, exec (.planUnload f) s = s.gives t ∧ Completed s.dev t f x .ok 0 0 ∧ KV.find t.plans x.planKey = none ∧
        (∀ k, k ≠ x.planKey → KV.find t.plans k = KV.find s.dev.plans k) ∧ t.hbm = s.dev.hbm) ∧
    (Runs s f 0x12 x → s.view.flightsWhere (fun _ y => x.aborts y) = [] → SlotFree s.dev x →
      ∃ t, exec (.planAbort f) s = s.gives t ∧ Completed s.dev t f x .ok 0 0 ∧ Dev.Keeps s.dev t) ∧
    (∀ g y, Runs s f 0x12 x → s.view.flightsWhere (fun _ z => x.aborts z) = [g] → KV.find s.dev.flights g = some y →
      (y.phase = .waiting → exec (.planAbort f) s = s.gives ((s.view.finish g .aborted 0 0).finish f .ok 1 0)) ∧
      (y.phase ≠ .waiting → exec (.planAbort f) s = s.gives ((s.view.failFlight g .aborted).finish f .ok 1 0)))

/-- R120, R124, R221, R222, R225: the commands that set a plan's window depth, pinned entries, carry-over, guard
thresholds and fallback budget write that plan's field and nothing else of the device, and complete with the
value in force. -/
def Obligations.PlanSettingsReachTheirPlan : Prop :=
  ∀ (s : State) (f : Nat) (x : Flight) (p : Plan) (t : LayerTable), s.view.plan? x = some p → p.table = some t →
    (Runs s f 0x22 x → exec (.windowSet f) s = s.gives ((s.view.updPlan x.planKey (fun p => { p with
      depth := if fld (x.w 3) 0 4 = 0 then 3 else fld (x.w 3) 0 4 })).finish f .ok
        (if fld (x.w 3) 0 4 = 0 then 3 else fld (x.w 3) 0 4) t.windowMib)) ∧
    (Runs s f 0x23 x → fld (x.w 6) 0 16 = 0 → s.dev.poison = [] → (s.dev.pad x.paddock).isSome = true →
      exec (.prefetchSchedule f) s = s.gives ((s.view.updPlan x.planKey (fun p => { p with
        pinnedNext := KV.del p.pinnedNext (fld (x.w 2) 16 2) })).finish f .ok 0 0)) ∧
    (∀ pad n bs os, Runs s f 0x23 x → s.dev.pad x.paddock = some pad → s.dev.poison = [] → n = fld (x.w 6) 0 16 → n ≠ 0 →
      bs = s.dev.hbm.reads (x.d 4) (32 * n) → os = (List.range n).map (· * 32) → os.any (fun o => !s.view.pinOk pad x.paddock bs o) = false →
      risingSteps (os.map (fun o => (readPin bs o).issueStep)) = true →
      exec (.prefetchSchedule f) s = s.gives ((s.view.updPlan x.planKey (fun p => { p with
        pinnedNext := KV.put p.pinnedNext (fld (x.w 2) 16 2) (os.map (readPin bs)) })).finish f .ok n 0)) ∧
    (∀ pad, Runs s f 0x24 x → s.dev.pad x.paddock = some pad → s.view.carryBad pad x p t = false →
      exec (.carryoverSet f) s = s.gives ((s.view.updPlan x.planKey (fun q => { q with
        carryOn := setCarry p.carryOn (fld (x.w 3) 0 16) (fld (x.w 3) 16 16) (bitOf (x.w 4) 0), carryAddr := some (x.d 5),
        carry := if q.carryAddr = some (x.d 5) then q.carry else [] })).finish f .ok
          (setCarry p.carryOn (fld (x.w 3) 0 16) (fld (x.w 3) 16 16) (bitOf (x.w 4) 0)).length 0)) ∧
    (Runs s f 0xA0 x → exec (.guardPolicy f) s = s.gives ((s.view.updPlan x.planKey (fun p => { p with
      nSat := orDefault (fld (x.w 3) 0 8) 10, nZero := orDefault (fld (x.w 3) 8 8) 6, cleanLimit := orDefault (fld (x.w 3) 16 8) 4,
      rho := orDefault (x.w 4) 0x3FC00000 })).finish f .ok 0 0)) ∧
    (Runs s f 0xA1 x → exec (.fallbackBudget f) s = s.gives ((s.view.updPlan x.planKey (fun p => { p with
      budgetW3 := fld (x.w 3) 0 16 })).finish f .ok (budgetOf (fld (x.w 3) 0 16) t.layers.length) 0))

/-- R65 to R67, R80: a PLAN_RUN whose binding holds a zero axis ends with ST_EMPTY; another waits while its
paddock is OUT, ends with ST_PAGE_EXHAUSTED where a named sequence finds no pages, and else begins its first step on
the plan's first sheds that serve, with their accumulators, soft-maximum groups and ABSENT marks cleared and
logical core l on the (l + 1)-th good physical core. -/
def Obligations.PlanRunStartsItsFirstStep : Prop :=
  ∀ (s : State) (f : Nat) (x : Flight) (r : Run), Runs s f 0x11 x → KV.find s.dev.runs f = some r → r.started = false →
    (r.zeroBound = true → exec (.planRun f) s = s.gives
      ((s.view.updFlight f (fun x => { x with gtcStart := s.dev.gtc.val, startNow := s.dev.now })).finish f .empty 0 0)) ∧
    (∀ p q, r.zeroBound = false → s.dev.pad x.paddock = some p → s.view.runPlan r = some q →
      (s.view.mayRun p r = false → exec (.planRun f) s = s.gives s.view) ∧
      (s.view.mayRun p r = true → (p.serving s.nv).length < (s.view.planImg q).sheds → SlotFree s.dev x →
        ∃ t, exec (.planRun f) s = s.gives t ∧ Completed s.dev t f x .badParam 0 0)) ∧
    (∀ p q d, r.zeroBound = false → s.dev.pad x.paddock = some p → s.view.runPlan r = some q → s.view.mayRun p r = true →
      (s.view.planImg q).sheds ≤ (p.serving s.nv).length →
      (s.view.swapInAll f r.seqKeys = (d, false) → exec (.planRun f) s = s.gives (d.finish f .pageExhausted 0 0)) ∧
      (s.view.swapInAll f r.seqKeys = (d, true) → exec (.planRun f) s = s.gives ((((d.freshSheds ((p.serving s.nv).take (s.view.planImg q).sheds)).updPlan r.plan
          (fun q => { q with pinned := q.pinnedNext, running := 0 })).updRun f (fun r => { r with
            started := true, step := 0,
            sheds := ((p.serving s.nv).take (s.view.planImg q).sheds).zipIdx.map (fun e =>
              (e.2, ShedRun.start ((s.view.planImg q).shedSegs e.2) e.1 (s.nv.logical e.1))) })).stepBegin f)) ∧
      (r.seqKeys = [] → s.view.swapInAll f r.seqKeys = (s.view, true))) ∧
    (∀ ss k c, k ∈ ss → c < 72 → KV.find (s.view.freshSheds ss).acc (k * 72 + c) = none ∧
      KV.find (s.view.freshSheds ss).soft (k * 72 + c) = none ∧ ∀ a ∈ (s.view.freshSheds ss).absent, a.1 ≠ k * 72 + c)

/-- R68, R162: PLAN_STEP_END waits until every shed has passed its marker with nothing queued and every packet
is answered; then it ends the step, which fails with ST_STALE_TABLE where a named sequence's list is not what
the E9 keeps, notes it for its layer, and goes on to the next step, to the guard's gather of the group once that is free
(R119), or to the end of the pass. -/
def Obligations.PlanStepEndsWhenEveryShedIsDone : Prop :=
  ∀ (s : State) (f : Nat) (x : Flight) (r : Run) (p : Plan), Runs s f 0x11 x → KV.find s.dev.runs f = some r → s.view.runPlan r = some p →
    (s.view.stepDone f r = false → exec (.planStepEnd f) s = s.gives s.view) ∧
    (r.started = true → r.stepOn = true → r.suspended = false → r.gathering = false → s.view.stepDone f r = true →
      (∀ k, s.view.badSeq r = some k → r.mode mGuard = false → exec (.planStepEnd f) s = s.gives ((s.view.markStale k).failStep f .staleTable)) ∧
      (∀ d, s.view.badSeq r = none → d = (match p.layerAt r.step with
          | some (i, l) => s.view.layerStep f r p i l
          | none => s.view) →
        (r.step + 1 ≠ r.steps → exec (.planStepEnd f) s = s.gives (d.stepNext f)) ∧
        (r.step + 1 = r.steps → r.gather p = none → exec (.planStepEnd f) s = s.gives (d.endPassAlone f)) ∧
        (∀ k n, r.step + 1 = r.steps → r.gather p = some (k, n) →
          (KV.has s.dev.groups k = true → s.view.groupFree k = false → exec (.planStepEnd f) s = s.gives s.view) ∧
          (s.view.groupFree k = true → exec (.planStepEnd f) s = s.gives ((d.gatherStart f k n r.stepNo).getD d)))))

/-! ### The Hayloft and its streams -/

/-- R227, R231: HAYLOFT_WRITE stores the bytes it reads, so that the logical range holds them; HAYLOFT_READ puts
what the range holds at its destination, or, where a block fails, only the data before it, with
ST_HAYLOFT_READ_FAIL; HAYLOFT_TRIM clears its range; a relocation replaces one stack's figures. None of the
last three changes what the Hayloft holds elsewhere. An uncorrectable error of HBM ends a HAYLOFT_WRITE, which then
stores nothing, and a HAYLOFT_READ of no bytes ends with ST_EMPTY. -/
def Obligations.HayloftHoldsWhatIsWritten : Prop :=
  ∀ (s : State) (f : Nat) (x : Flight),
    (Runs s f 0x30 x → (fld (x.w 8) 0 4 = 0 → s.dev.poison = []) →
      ∃ t h, exec (.hayloftWrite f .none) s = .next { s with hay := h, dev := t } ∧ Moving t f .ok (x.d 6) (x.d 6 / 2 ^ 32) ∧
        h.mem.reads (x.d 2) (x.d 6) = s.dev.readSpace (spaceOf (fld (x.w 8) 0 4)) (x.d 4) (x.d 6) ∧
        (∀ a, a < x.d 2 ∨ x.d 2 + x.d 6 ≤ a → h.mem.read a = s.hay.mem.read a) ∧ t.hbm = s.dev.hbm ∧ t.host = s.dev.host) ∧
    (∀ a, Runs s f 0x30 x → fld (x.w 8) 0 4 = 0 → exec (.hayloftWrite f (.uncorrectable a)) s = s.gives
      ((s.view.countErr s.nv a (fun c => { c with words := (s.dev.now, a / 32) :: c.words })).finishMem f a)) ∧
    (∀ bad, Runs s f 0x31 x → x.d 6 ≠ 0 → s.hay.firstBad (x.d 2) (x.d 6) bad = none →
      ∃ t, exec (.hayloftRead f bad .none) s = s.gives t ∧ Moving t f .ok (x.d 6) (x.d 6 / 2 ^ 32) ∧
        t.readSpace (spaceOf (fld (x.w 8) 0 4)) (x.d 4) (x.d 6) = hayReads s.hay s.view (x.d 2) (x.d 6) ∧
        ∀ sp a, sp ≠ spaceOf (fld (x.w 8) 0 4) ∨ a < x.d 4 ∨ x.d 4 + x.d 6 ≤ a → t.readSpace sp a 1 = s.dev.readSpace sp a 1) ∧
    (∀ bad b, Runs s f 0x31 x → x.d 6 ≠ 0 → s.hay.firstBad (x.d 2) (x.d 6) bad = some b →
      ∃ t, exec (.hayloftRead f bad .none) s = .next { s with hay := s.hay.markFailed b, dev := t } ∧
        Moving t f .hayloftReadFail (b * 4096 - x.d 2) ((b * 4096 - x.d 2) / 2 ^ 32) ∧
        t.readSpace (spaceOf (fld (x.w 8) 0 4)) (x.d 4) (b * 4096 - x.d 2) = hayReads s.hay s.view (x.d 2) (b * 4096 - x.d 2)) ∧
    (∀ bad mf, Runs s f 0x31 x → x.d 6 = 0 → SlotFree s.dev x → ∃ t, exec (.hayloftRead f bad mf) s = s.gives t ∧ Completed s.dev t f x .empty 0 0) ∧
    (Runs s f 0x32 x → SlotFree s.dev x → ∃ t, exec (.hayloftTrim f) s = .next { s with hay := s.hay.trim (x.d 2) (x.d 4), dev := t } ∧
      Completed s.dev t f x .ok (x.d 4) (x.d 4 / 2 ^ 32) ∧
      (∀ a, x.d 2 ≤ a → a < x.d 2 + x.d 4 → (s.hay.trim (x.d 2) (x.d 4)).mem.read a = 0) ∧
      (∀ a, a < x.d 2 ∨ x.d 2 + x.d 4 ≤ a → (s.hay.trim (x.d 2) (x.d 4)).mem.read a = s.hay.mem.read a)) ∧
    (∀ k fig, ∃ t, exec (.hayloftRelocation k fig) s = .next { s with hay := { s.hay with stackTab := KV.put s.hay.stackTab k fig }, dev := t } ∧
      Dev.Keeps s.dev t)

/-- R215, R220, R222, R224, R231: a weight fetch starts for the next layer that wants one and has room in the window;
its end puts the copy's bytes at the layer's place and the layer is resident, or, where a block of the Hayloft fails,
marks the layer failed; a pinned fetch puts its bytes at its entry's destination, whether or not its run still goes on; a
block of a host copy comes as it was when the fetch began or as it is now; and a step that waits for its weights past the limit fails with ST_WEIGHT_LATE. -/
def Obligations.WeightsAreFetched : Prop :=
  ∀ (s : State) (pk : Nat) (p : Plan) (tb : LayerTable), KV.find s.dev.plans pk = some p → p.table = some tb →
    (∀ k i a, p.failed = [] → p.window.all (·.ready) = true → s.view.nextFetch pk p tb = some (k, i) → k ≤ p.depth →
      winRoom tb p.window (tb.layers.getD i (readLayer [] 0 0)).winSize = some a →
      ∃ t q, exec (.weightFetchStart pk) s = s.gives t ∧ KV.find t.plans pk = some q ∧ q.window = p.window ++
        [{ layer := i, wide := (tb.layers.getD i (readLayer [] 0 0)).promoted, addr := a, size := (tb.layers.getD i (readLayer [] 0 0)).winSize,
           ready := false, seen := s.view.seenAt ((tb.layers.getD i (readLayer [] 0 0)).copyAt (tb.layers.getD i (readLayer [] 0 0)).promoted) }] ∧
        t.hbm = s.dev.hbm ∧ t.flights = s.dev.flights) ∧
    (∀ i l w bad, tb.layers[i]? = some l → p.window.find? (fun w => w.layer == i && !w.ready) = some w →
      ((l.copyAt w.wide).1 = 1 → s.hay.firstBad (l.copyAt w.wide).2.1 (l.copyAt w.wide).2.2 bad = none) →
      ∀ z, z = sourceBytes s.hay s.view p.paddock (l.copyAt w.wide) w.seen →
      exec (.weightFetchDone pk i bad) s = s.gives (((z.1.hbmWrite w.addr z.2).updPlan pk (fun p => { p with
        window := p.window.map (fun v => if v == w then { v with ready := true } else v) })).stepRetry pk)) ∧
    (∀ i l w b bad, tb.layers[i]? = some l → p.window.find? (fun w => w.layer == i && !w.ready) = some w →
      (l.copyAt w.wide).1 = 1 → s.hay.firstBad (l.copyAt w.wide).2.1 (l.copyAt w.wide).2.2 bad = some b →
      exec (.weightFetchDone pk i bad) s = .next { s with hay := s.hay.markFailed b, dev := (s.view.updPlan pk (fun p => { p with
        window := p.window.filter (fun v => v != w), failed := i :: p.failed })).stepRetry pk }) ∧
    (∀ f st n x q bad, s.view.pinFetch f st n = some (pk, q, x) →
      (x.pin.source = 1 → s.hay.firstBad x.pin.src (x.pin.blocks * 4096) bad = none) →
      ∀ d z, d = s.view.updPlan pk (fun p => { p with fetches := p.fetches.filter (· != x) }) →
      z = sourceBytes s.hay d q.paddock (x.pin.source, x.pin.src, x.pin.blocks * 4096) x.seen →
      exec (.pinnedFetchDone f st n bad) s = s.gives (((z.1.hbmWrite x.pin.dest z.2).updRun f
        (fun r => { r with pins := r.pins ++ [(st, n)] })).stepRetry pk)) ∧
    (∀ (h : Hay) (d : Dev) (pad k a : Nat) (c : Nat × Nat × Nat) (seen old : List Byte) (map : List (Nat × Nat)),
      (c.1 = 1 → sourceBytes h d pad c seen = (d, hayReads h d c.2.1 c.2.2)) ∧
      (inMap map a 4096 = true → d.hostBlock map a k old = old ∨ d.hostBlock map a k old = d.host.reads a 4096)) ∧
    (∀ f dt r since, KV.find s.dev.runs f = some r → r.plan = pk → r.stall = some since → r.stepOn = false → r.suspended = false →
      (since + p.lateNs ≤ s.dev.now + dt → exec (.weightLateLimit f dt) s = s.gives ((s.view.advance dt).failFlight f .weightLate)) ∧
      (s.dev.now + dt < since + p.lateNs → exec (.weightLateLimit f dt) s = s.gives (s.view.advance dt)))

/-! ### Sequences -/

/-- R153, R162: after the E9 writes a list, the list is in order, where its mask map lies clear of the two words that
hold GENERATION and CRC and the list keeps those words apart; GENERATION is one more. -/
def Obligations.WrittenListIsInOrder : Prop :=
  ∀ (d : Dev) (k : Nat) (q : Seq), KV.find d.seqs k = some q →
    (∀ h : List Byte, h = d.hdr q → hMaskAddr h + maskBytes h q.maxBlocks ≤ q.list ∨ q.list + 8 ≤ hMaskAddr h) →
    ∃ r, KV.find (d.sealList k true).seqs k = some r ∧ (d.sealList k true).listOk r = true ∧ r.gen = (q.gen + 1) % 2 ^ 32 ∧
      (∀ a, a < q.list ∨ q.list + 8 ≤ a → (d.sealList k true).hbm.read a = d.hbm.read a)

/-- R148 to R150, R152: POOL_SET of a paddock with no sequence gives it an empty pool over the range named, and
with one is refused; SEQ_CREATE with a good header writes an empty list of no tokens, takes its private pages
and enters the sequence; SEQ_SWAP_OUT without free slots for its pages is refused, and otherwise moves them;
SEQ_SWAP_IN brings them back, or ends with ST_PAGE_EXHAUSTED; SEQ_DROP takes the sequence away and no
other. -/
def Obligations.SequencesComeAndGo : Prop :=
  ∀ (s : State) (f : Nat) (x : Flight) (p : Paddock), s.dev.pad x.paddock = some p → SlotFree s.dev x →
    (Runs s f 0x47 x → s.view.seqs.vals.any (fun q => q.paddock == x.paddock) = false →
      ∃ t, exec (.poolSet f) s = s.gives t ∧ Completed s.dev t f x .ok (x.d 6 / pageBytes % 2 ^ 32) (x.d 10 / pageBytes % 2 ^ 32) ∧
        (∃ pl, t.pad x.paddock = some { p with pool := some pl } ∧ pl.base = x.d 4 ∧ pl.pages = x.d 6 / pageBytes ∧ pl.swapBase = x.d 8 ∧
          pl.swapSlots = x.d 10 / pageBytes ∧ pl.policy = fld (x.w 12) 0 4 ∧ pl.refs = [] ∧ pl.swapUsed = []) ∧ t.hbm = s.dev.hbm) ∧
    (Runs s f 0x47 x → s.view.seqs.vals.any (fun q => q.paddock == x.paddock) = true →
      ∃ t, exec (.poolSet f) s = s.gives t ∧ Completed s.dev t f x .badParam 0 0 ∧ Dev.Keeps s.dev t) ∧
    (∀ q pl, Runs s f 0x40 x → q = x.newSeq s.dev.gtc.val → s.view.pool q.paddock = some pl →
      KV.has s.dev.seqs (padKey q.paddock q.handle) = false → hdrOk (s.view.hdr q) = true →
      s.view.listHits q.paddock q.list q.listBytes = false →
      overlaps q.list q.listBytes (hRemote (s.view.hdr q)) (stagingBytes (s.view.hdr q) q.groups) = false →
      overlaps q.list q.listBytes (hMaskAddr (s.view.hdr q)) (maskBytes (s.view.hdr q) q.maxBlocks) = false →
      (KV.keep s.dev.seqs (fun _ v => v.paddock == q.paddock)).length < 4096 → q.privPages ≤ pl.freePages →
      exec (.seqCreate f) s = s.gives ((Dev.sealList { (s.view.takePages q.paddock q.privPages).1 with
          seqs := KV.put (s.view.takePages q.paddock q.privPages).1.seqs (padKey q.paddock q.handle)
            { q with gen := 0, priv := (s.view.takePages q.paddock q.privPages).2 },
          hbm := ((s.view.takePages q.paddock q.privPages).1.hbm.clear (q.list + 256) (4 * q.entries)).writeLE (q.list + 8) 4 0 }
        (padKey q.paddock q.handle) true).finish f .ok (q.entries % 2 ^ 32) 0)) ∧
    (∀ k q, k = padKey x.paddock (fld (x.w 2) 0 16) → KV.find s.dev.seqs k = some q →
      (q.stale = false → Runs s f 0x44 x → ((s.view.pool q.paddock).elim 0 Pool.freeSlots < (s.view.ownEntries q).length → ∀ mf,
          ∃ t, exec (.seqSwapOut f mf) s = s.gives t ∧ Completed s.dev t f x .badParam 0 0 ∧ Dev.Keeps s.dev t) ∧
        ((s.view.ownEntries q).length ≤ (s.view.pool q.paddock).elim 0 Pool.freeSlots → s.dev.poison = [] →
          exec (.seqSwapOut f .none) s = s.gives ((s.view.swapOut k q).1.settle f .ok (s.view.swapOut k q).2 0) ∧
          (s.view.swapOut k q).2 = (s.view.ownEntries q).length)) ∧
      (q.stale = false → Runs s f 0x45 x → (s.view.swapIn f k q true = none →
          ∃ t, exec (.seqSwapIn f .none) s = s.gives t ∧ Completed s.dev t f x .pageExhausted 0 0 ∧ Dev.Keeps s.dev t) ∧
        (∀ z, s.view.swapIn f k q true = some z → exec (.seqSwapIn f .none) s = s.gives (z.1.settle f .ok z.2 0)) ∧
        (s.view.swapEntries q = [] → ∃ t, exec (.seqSwapIn f .none) s = s.gives t ∧ Moving t f .ok 0 0 ∧ t.hbm = s.dev.hbm)) ∧
      (Runs s f 0x46 x → ∃ t, exec (.seqDrop f) s = s.gives t ∧ KV.find t.flights f = none ∧ KV.find t.seqs k = none ∧
        (∀ j, j ≠ k → KV.find t.seqs j = KV.find s.dev.seqs j) ∧ t.hbm = s.dev.hbm))

/-- R151, R162, R163, R168: SEQ_APPEND of no tokens ends with ST_EMPTY, past the last block with ST_BAD_PARAM, and one
without a source whose pages are all there raises TOKENS by its count and takes nothing; SEQ_VERIFY of a list
that is not in order marks the sequence STALE; a valid SEQ_PAGES_EDIT rewrites the list and answers the
generation, an invalid one ends with ST_BAD_PARAM; and a STALE sequence answers nothing but ST_STALE_TABLE. -/
def Obligations.SequencesGrowAndAreEdited : Prop :=
  ∀ (s : State) (f : Nat) (x : Flight) (p : Paddock) (k : Nat) (q : Seq), s.dev.pad x.paddock = some p → SlotFree s.dev x →
    k = padKey x.paddock (fld (x.w 2) 0 16) → KV.find s.dev.seqs k = some q →
    (q.stale = false → Runs s f 0x41 x →
      (x.w 3 = 0 → ∀ mf, ∃ t, exec (.seqAppend f mf) s = s.gives t ∧ Completed s.dev t f x .empty 0 0 ∧ Dev.Keeps s.dev t) ∧
      (x.w 3 ≠ 0 → q.maxBlocks * 256 < hTokens (s.view.hdr q) + x.w 3 → ∀ mf,
        ∃ t, exec (.seqAppend f mf) s = s.gives t ∧ Completed s.dev t f x .badParam 0 0 ∧ Dev.Keeps s.dev t) ∧
      (x.w 3 ≠ 0 → hTokens (s.view.hdr q) + x.w 3 ≤ q.maxBlocks * 256 → x.d 4 = 0 → (s.view.pool q.paddock).isSome = true →
        (∀ a ∈ q.blockAddrs (hTokens (s.view.hdr q) / 256) (appendBlocks (hTokens (s.view.hdr q)) (x.w 3)).length, eKind (s.view.ent a) ≠ 0) →
        ∃ t, exec (.seqAppend f .none) s = s.gives t ∧ Completed s.dev t f x .ok 0 0 ∧
          t.hbm.readLE (q.list + 8) 4 = (hTokens (s.view.hdr q) + x.w 3) % 2 ^ 32 ∧
          (∀ a, a < q.list ∨ q.list + 12 ≤ a → t.hbm.read a = s.dev.hbm.read a))) ∧
    (q.stale = false → Runs s f 0x42 x → (∀ es, es = (List.range (fld (x.w 3) 0 4)).map (fun i => s.dev.hbm.reads (x.d 4 + 32 * i) 32) →
        es.any (fun e => !s.view.hbmOk p (leAt e 8 8) (candBytes e) || !s.view.hbmOk p (leAt e 16 8) (candBytes e)) = false →
        es.any candBad = false →
      (s.view.listOk q = false → ∀ mf, exec (.seqVerify f mf) s = s.gives ((s.view.markStale k).finish f .staleTable 0 0)) ∧
      (s.view.listOk q = true → s.dev.poison = [] → ∀ best, best = bestCand (es.map s.view.accepted) 0 (0, 0) →
        hTokens (s.view.hdr q) + best.1 ≤ q.maxBlocks * 256 → s.view.swapEntries q = [] →
        ∀ y, y = ((s.view.commit k q (hTokens (s.view.hdr q)) best.1 best.2).sealList k
          (best.1 != 0 || q.branchAddrs.any (fun a => eKind (s.view.ent a) != 0))).sendPages f q
          (appendBlocks (hTokens (s.view.hdr q)) best.1) (fld (x.w 6) 0 24) →
        (y.2 = none → exec (.seqVerify f .none) s = s.gives (y.1.settle f .ok best.1 (if best.1 = 0 then 0xFFFFFFFF else best.2))) ∧
        (∀ st, y.2 = some st → exec (.seqVerify f .none) s = s.gives (y.1.finish f st best.1 (if best.1 = 0 then 0xFFFFFFFF else best.2)))))) ∧
    (q.stale = false → s.dev.poison = [] → Runs s f 0x43 x → ∀ r, r = s.view.applyEdits p x k q ((List.range (x.w 6)).map (fun i => s.dev.hbm.reads (x.d 4 + 16 * i) 16)) →
      (∀ d, r = .ok d → exec (.seqPagesEdit f .none) s = s.gives ((d.sealList k true).finish f .ok ((q.gen + 1) % 2 ^ 32) 0)) ∧
      (r = .bad → ∃ t, exec (.seqPagesEdit f .none) s = s.gives t ∧ Completed s.dev t f x .badParam 0 0 ∧ Dev.Keeps s.dev t) ∧
      (r = .busy → ∃ t, exec (.seqPagesEdit f .none) s = s.gives t ∧ Completed s.dev t f x .seqBusy 0 0 ∧ Dev.Keeps s.dev t)) ∧
    (q.stale = true → ∀ mf,
      (Runs s f 0x41 x → ∃ t, exec (.seqAppend f mf) s = s.gives t ∧ Completed s.dev t f x .staleTable 0 0) ∧
      (Runs s f 0x42 x → ∃ t, exec (.seqVerify f mf) s = s.gives t ∧ Completed s.dev t f x .staleTable 0 0) ∧
      (Runs s f 0x43 x → ∃ t, exec (.seqPagesEdit f mf) s = s.gives t ∧ Completed s.dev t f x .staleTable 0 0) ∧
      (Runs s f 0x44 x → ∃ t, exec (.seqSwapOut f mf) s = s.gives t ∧ Completed s.dev t f x .staleTable 0 0) ∧
      (Runs s f 0x45 x → ∃ t, exec (.seqSwapIn f mf) s = s.gives t ∧ Completed s.dev t f x .staleTable 0 0))

/-! ### Collectives -/

/-- R263 to R265, R270: GROUP_DEFINE of a good coordinate block enters the group with its members, its own place and
its digest, and answers their number and the place; GROUP_RELEASE takes an idle group away and waits for one in
use; COLL_RUN and COLL_RUNV without elements, or with a counts table whose total is not the one named, end as
their tables say, and otherwise the group's next instance begins; an
uncorrectable source ends the command in the instance, so that the group hears of it (R262). -/
def Obligations.GroupsAndCollectivesBegin : Prop :=
  ∀ (s : State) (f : Nat) (x : Flight) (p : Paddock), s.dev.pad x.paddock = some p →
    (∀ r n ids ms sw, Runs s f 0x50 x → s.dev.route = some r → s.dev.poison = [] → SlotFree s.dev x →
      n = blockPoints (s.dev.hbm.readLE (x.d 4 + 4) 4) → n ≤ 65536 →
      sw = fld (s.dev.hbm.readLE (x.d 4 + 8) 4) 0 16 → 0x0800 ≤ sw → fld (s.dev.hbm.readLE (x.d 4 + 8) 4) 16 16 = 0 →
      s.dev.hbm.readLE (x.d 4 + 12) 4 = 0 → KV.has s.dev.groups x.groupKey = false →
      (KV.keep s.dev.groups (fun _ g => g.paddock == x.paddock)).length < 256 → s.view.hbmOk p (x.d 4) (16 + 2 * n) = true →
      ids = (List.range n).map (fun i => s.dev.hbm.readLE (x.d 4 + 16 + 2 * i) 2) →
      ids.any (fun i => 0x07FF < i && i != 0xFFFF) = false →
      ms = groupMembers (s.dev.hbm.readLE (x.d 4) 4) (s.dev.hbm.readLE (x.d 4 + 4) 4) (fld (x.w 3) 0 4) r.coord ids →
      hasRepeat ms = false → ownEntry (s.dev.hbm.readLE (x.d 4) 4) (s.dev.hbm.readLE (x.d 4 + 4) 4) r.coord ids = some r.self →
      ∃ t, exec (.groupDefine f) s = s.gives t ∧ Completed s.dev t f x .ok ms.length (ms.findIdx (· == r.self)) ∧
        (∃ g, KV.find t.groups x.groupKey = some g ∧ g.members = ms ∧ g.own = ms.findIdx (· == r.self) ∧ g.switch = sw ∧
          g.digest = groupDigest ms sw ∧ g.inst = 0) ∧ ∀ k, k ≠ x.groupKey → KV.find t.groups k = KV.find s.dev.groups k) ∧
    (Runs s f 0x53 x → KV.has s.dev.groups x.groupKey = true →
      (s.view.groupFree x.groupKey = false → exec (.groupRelease f) s = s.gives s.view) ∧
      (s.view.groupFree x.groupKey = true → SlotFree s.dev x → ∃ t, exec (.groupRelease f) s = s.gives t ∧ Completed s.dev t f x .ok 0 0 ∧
        KV.find t.groups x.groupKey = none ∧ ∀ k, k ≠ x.groupKey → KV.find t.groups k = KV.find s.dev.groups k)) ∧
    (∀ g, Runs s f 0x51 x → KV.has s.dev.colls f = false → KV.find s.dev.groups x.groupKey = some g → s.dev.poison = [] →
      (x.d 8 = 0 → x.collOp ≠ 7 → SlotFree s.dev x → ∀ mf, ∃ t, exec (.collRun f mf) s = s.gives t ∧ Completed s.dev t f x .empty 0 0 ∧ Dev.Keeps s.dev t) ∧
      (x.d 8 ≠ 0 ∨ x.collOp = 7 → ∀ a, exec (.collRun f (.uncorrectable a)) s = s.gives (((s.view.countErr s.nv a (fun c =>
        { c with words := (s.dev.now, a / 32) :: c.words })).collEnter f x.groupKey g (x.coll false [])).finishMem f a)) ∧
      (x.d 8 ≠ 0 ∨ x.collOp = 7 → exec (.collRun f .none) s = s.gives ((s.view.updFlight f (fun y => { y with
        flags := setFlagIf (bitOf (x.w 3) 17) y.flags fDeterministic, countA := x.d 8 % 2 ^ 32 })).collBegin f x.groupKey g (x.coll false [])))) ∧
    (∀ g cs, Runs s f 0x52 x → KV.has s.dev.colls f = false → KV.find s.dev.groups x.groupKey = some g → s.dev.poison = [] →
      cs = (List.range (countEntries x.collOp g.members.length)).map (fun i => s.dev.hbm.readLE (x.d 11 + 8 * i) 8) →
      ((cs.take g.members.length).sum ≠ x.d 8 → SlotFree s.dev x → ∀ mf,
        ∃ t, exec (.collRunv f mf) s = s.gives t ∧ Completed s.dev t f x .badParam 0 0 ∧ Dev.Keeps s.dev t) ∧
      ((cs.take g.members.length).sum = x.d 8 →
        s.view.collRangesBad p (x.d 4) (collBytes x.collFmt (if x.collOp = 4 then cs.getD g.own 0 else (cs.take g.members.length).sum))
          (x.d 6) (collBytes x.collFmt (if x.collOp = 6 then (cs.drop g.members.length).sum else (cs.take g.members.length).sum)) = false →
        exec (.collRunv f .none) s = s.gives ((s.view.updFlight f (fun y => { y with
          flags := setFlagIf (bitOf (x.w 3) 17) y.flags fDeterministic, countA := x.d 8 % 2 ^ 32 })).collBegin f x.groupKey g (x.coll true cs))))

/-- R272: with no SLOT_REPLY 20 µs after the request the slots count as refused, and with no SLOT_RESULT for 100 µs the member
tells the switch and the reduction runs again on the trees. R55, R160, R262: a refused PAGE or COLLECTIVE packet
goes again after 2 µs, a refused message every 10 µs, and a message not delivered 1 ms after GO is given up.
Before those times only time passes. -/
def Obligations.RefusalsAndSilencesRunOut : Prop :=
  (∀ (s : State) (f dt since : Nat) (c : Coll), KV.find s.dev.colls f = some c →
     (c.slotAskedAt = some since →
       (since + 20000 ≤ s.dev.now + dt →
         exec (.slotReplyTimeout f dt) s = s.gives (((s.view.advance dt).collSlotAnswer f 0).collProgress f)) ∧
       (s.dev.now + dt < since + 20000 → exec (.slotReplyTimeout f dt) s = s.gives (s.view.advance dt))) ∧
     (∀ g, KV.find s.dev.groups c.group = some g → c.slotLast = some since → c.onSlot = true → c.complete g = false →
       (since + 100000 ≤ s.dev.now + dt →
         exec (.slotResultGapTimeout f dt) s = s.gives (((s.view.advance dt).switchSend g c phSlotAbort 0 []).slotFall f)) ∧
       (s.dev.now + dt < since + 100000 → exec (.slotResultGapTimeout f dt) s = s.gives (s.view.advance dt)))) ∧
  (∀ (s : State) (dst seq dt : Nat) (x : Sent) (k : Nat) (c : Instr),
     (k = kPage ∧ c = .pageResend dst seq dt) ∨ (k = kCollective ∧ c = .collResend dst seq dt) →
     (s.dev.sent.find? (fun x => x.pkt.kind == k && x.pkt.dst == dst && x.pkt.seq == seq && x.busy) = some x →
       (x.at' + 2000 ≤ s.dev.now + dt → exec c s = s.gives ((s.view.advance dt).resend x)) ∧
       (s.dev.now + dt < x.at' + 2000 → exec c s = s.gives (s.view.advance dt))) ∧
     (∀ v m t, KV.find s.dev.txMbox (v * 8 + m) = some t → t.mbox.full = true →
       (∀ r, t.refusedAt = some r →
         (r + 10000 ≤ s.dev.now + dt → exec (.mboxRemoteResend v m dt) s = s.gives (Dev.sendMbox ((Dev.updTx { s.view.advance dt with
           sent := s.dev.sent.filter (fun x => !isMboxPkt v m x.pkt) } (v * 8 + m) (fun t => { t with refusedAt := none }))) v m)) ∧
         (s.dev.now + dt < r + 10000 → exec (.mboxRemoteResend v m dt) s = s.gives (s.view.advance dt))) ∧
       (t.delivered = none →
         (t.goAt + 1000000 ≤ s.dev.now + dt → exec (.mboxRemoteTimeout v m dt) s = s.gives ((s.view.advance dt).abortTx (v * 8 + m))) ∧
         (s.dev.now + dt < t.goAt + 1000000 → exec (.mboxRemoteTimeout v m dt) s = s.gives (s.view.advance dt)))))

/-! ### Furrow packets -/

/-- R247: a packet of any kind with a bad CRC, not addressed to this device, on a wrong channel, from a paddock that
the ingress mask does not permit, or with bytes outside the paddock's map, is discarded and counted, in that
order of checks; nothing is answered, and no byte of memory changes. -/
def Obligations.PacketsAreDiscarded : Prop :=
  ∀ (s : State) (p : Nat) (pkt : Pkt) (c : Instr), packetRow p pkt c = true → s.view.carries p →
    (pktCrcOk pkt = false → exec c s = s.gives (s.view.endRest.updPort p (fun x => { x with crcDrops := bump x.crcDrops }))) ∧
    (pktCrcOk pkt = true → s.view.addressed p pkt = false →
      exec c s = s.gives (s.view.endRest.updPort p (fun x => { x with misaddressed := bump x.misaddressed }))) ∧
    (pktCrcOk pkt = true → s.view.addressed p pkt = true → ((s.view.noted p pkt).port p).vcOk pkt = false →
      exec c s = s.gives ((s.view.noted p pkt).updPort p (fun x => { x with fenceVcDrops := bump x.fenceVcDrops }))) ∧
    (pktCrcOk pkt = true → s.view.addressed p pkt = true → ((s.view.noted p pkt).port p).vcOk pkt = true →
      ((s.view.noted p pkt).ingressOk p pkt && (s.view.noted p pkt).mapOk pkt) = false →
      exec c s = s.gives ((s.view.noted p pkt).updPort p (fun x => { x with fenceDrops := bump x.fenceDrops }))) ∧
    ∀ e : Port → Port, (s.view.endRest.updPort p e).hbm = s.dev.hbm ∧ ((s.view.noted p pkt).updPort p e).hbm = s.dev.hbm

/-- R55, R81, R160, R246, R247, R256: what each kind of packet does once it passes: a WRITE stores its bytes and no
other and is answered; a READ_REQ of clean words sends them
back and one of a poisoned word nothing; a READ_DATA that a COPY waits for is taken;
a PAGE goes to its sequence's staging or is refused; a SIGNAL reaches the run and is answered; a MAILBOX packet
fills an empty mailbox and is refused by a full one; a RESPONSE is matched with what it answers. -/
def Obligations.PacketsAreTaken : Prop :=
  ∀ (s : State) (p : Nat) (pkt : Pkt), s.view.passes p pkt →
    (pkt.kind = kWrite → ∃ t : Dev, exec (.writePacket p pkt) s = s.gives (t.respond p pkt 0) ∧
      (t.respond p pkt 0).hbm.reads pkt.offset pkt.payload.length = pkt.payload ∧
      ∀ a, a < pkt.offset ∨ pkt.offset + pkt.payload.length ≤ a → (t.respond p pkt 0).hbm.read a = s.dev.hbm.read a) ∧
    (pkt.kind = kReadReq →
      ((s.view.noted p pkt).poisoned pkt.offset pkt.length = none → exec (.readReqPacket p pkt) s = s.gives ((s.view.noted p pkt).sendQuiet none
        { pkt with kind := kReadData, dst := pkt.src, src := 0, payload := s.dev.hbm.reads pkt.offset pkt.length }).1) ∧
      (∀ a, (s.view.noted p pkt).poisoned pkt.offset pkt.length = some a → exec (.readReqPacket p pkt) s = s.gives (s.view.noted p pkt))) ∧
    (pkt.kind = kReadData → ∀ y id x, (s.view.noted p pkt).sent.find? (fun z => z.pkt.kind == kReadReq && z.pkt.dst == pkt.src &&
        z.pkt.vc == pkt.vc && z.pkt.tag == pkt.tag && z.pkt.offset == pkt.offset) = some y → y.flight = some id →
      KV.find s.dev.flights id = some x →
      ∃ l, exec (.readDataPacket p pkt) s = s.gives (Dev.copyPiece { s.view.noted p pkt with sent := l } id x (pkt.offset - x.d 2) pkt.payload)) ∧
    (pkt.kind = kPage → exec (.pagePacket p pkt) s = s.gives ((s.view.noted p pkt).takePagePacket p pkt) ∧
      ((s.view.noted p pkt).pageTaker pkt = none → (s.view.noted p pkt).takePagePacket p pkt = (s.view.noted p pkt).respond p pkt 1)) ∧
    (pkt.kind = kSignal → exec (.signalPacket p pkt) s = s.gives (((s.view.noted p pkt).takeSignal p pkt).respond p pkt 0)) ∧
    (pkt.kind = kMailbox →
      ((KV.getD s.dev.rxMbox (pkt.desc % 8) RxMbox.blank).mbox.full = true →
        exec (.mailboxPacket p pkt) s = s.gives ((s.view.noted p pkt).respond p pkt 1)) ∧
      ((KV.getD s.dev.rxMbox (pkt.desc % 8) RxMbox.blank).mbox.full = false → ∃ t : Dev,
        exec (.mailboxPacket p pkt) s = s.gives (t.respond p pkt 0) ∧ (t.mbox (.remote (pkt.desc % 8))).full = true)) ∧
    (pkt.kind = kResponse → exec (.responsePacket p pkt) s = s.gives ((s.view.noted p pkt).takeResponse p pkt) ∧
      ∀ x, fld pkt.offset 0 2 = 0 → (s.view.noted p pkt).sent.find? (answersTo pkt) = some x → x.flight = none →
        ((s.view.noted p pkt).takeResponse p pkt).sent = (s.view.noted p pkt).sent.filter (fun y => y != x))

/-- R261, R262, R272: a collective packet of no instance that runs here is refused; one of an instance is accepted and
taken by its phase: data and headers go on, FAIL ends the command with the status it carries, and the switch's
reply, results and abort move its reduction. -/
def Obligations.CollectivePacketsReachTheirInstance : Prop :=
  ∀ (s : State) (p : Nat) (pkt : Pkt), s.view.passes p pkt → pkt.kind = kCollective →
    ((s.view.noted p pkt).collOf pkt = none → ∀ c, packetRow p pkt c = true → exec c s = s.gives ((s.view.noted p pkt).respond p pkt 1)) ∧
    (∀ id d, (s.view.noted p pkt).collOf pkt = some id → d = (s.view.noted p pkt).respond p pkt 0 →
      ([phFail, phSlotReply, phSlotResult, phSlotAbort].contains (pktPhase pkt) = false → exec (.collectivePacket p pkt) s = s.gives (d.collTake id pkt)) ∧
      (pktPhase pkt = phFail → exec (.collFailPacket p pkt) s = s.gives (d.failFlight id (Status.ofCode (leAt pkt.payload 0 2)))) ∧
      (∀ c, KV.find d.colls id = some c → pktFromSwitch pkt = true →
        (pktPhase pkt = phSlotReply → exec (.slotReply p pkt) s = s.gives ((d.collSlotAnswer id (leAt pkt.payload 0 4)).collProgress id)) ∧
        (pktPhase pkt = phSlotResult → c.onSlot = true → exec (.slotResult p pkt) s = s.gives (d.slotWrite id pkt)) ∧
        (∀ g, pktPhase pkt = phSlotAbort → c.onSlot = true → KV.find d.groups c.group = some g →
          exec (.slotAbort p pkt) s = s.gives ((d.switchSend g c phSlotAbort 0 []).slotFall id))))

/-! ### Media -/

/-- R189, R196, R200, R205, R210: ENC_OPEN and DEC_OPEN give a free handle of their kind to a stream with the words
named, or are refused on a full engine, a ring that another stream uses or whose HEAD is not 0, and without the queue pair that
Ethernet needs; ENC_KEY marks the next picture and answers its number; MEDIA_CLOSE of an
idle stream ends what the stream has in flight with ST_ABORTED, frees the handle and answers the pictures coded;
of one that codes a picture it waits. -/
def Obligations.MediaStreamsOpenAndClose : Prop :=
  ∀ (s : State) (f : Nat) (x : Flight), SlotFree s.dev x →
    (Runs s f 0x60 x → x.w 9 = 0 → s.view.engineFull (fld (x.w 2) 0 2) = false →
      (bitOf (x.w 10) 0 = true → (s.view.encQp (fld (x.w 2) 0 2) x.paddock).isSome = true) →
      ∀ h, s.view.newStream true = some h → ∃ t, exec (.encOpen f) s = s.gives t ∧ Completed s.dev t f x .ok h 0 ∧
        t.hbm = s.dev.hbm ∧ h < 32 ∧ KV.has s.dev.streams h = false ∧
        (∃ q, KV.find t.streams h = some q ∧ q.enc = true ∧ q.paddock = x.paddock ∧ q.engine = fld (x.w 2) 0 2 ∧ q.words = x.nats ∧
          q.next = 0 ∧ q.debtE = 0 ∧ q.debtK = 0)) ∧
    (Runs s f 0x60 x → x.w 9 ≠ 0 → s.view.engineFull (fld (x.w 2) 0 2) = false →
      s.dev.streams.vals.any (fun q => q.enc && overlaps (x.d 7) (x.w 9) q.ring q.ringBytes) = false → s.dev.host.readLE (x.d 7 + 8) 4 = 0 →
      (bitOf (x.w 10) 0 = true → (s.view.encQp (fld (x.w 2) 0 2) x.paddock).isSome = true) →
      exec (.encOpen f) s = s.gives (Dev.openStream { s.view with host := s.dev.host.writeLE (x.d 7) 4 0 } f x true (fld (x.w 2) 0 2))) ∧
    (Runs s f 0x60 x → s.view.engineFull (fld (x.w 2) 0 2) = true ∨ (x.w 9 ≠ 0 ∧ s.dev.host.readLE (x.d 7 + 8) 4 ≠ 0) ∨
        (x.w 9 ≠ 0 ∧ s.dev.streams.vals.any (fun q => q.enc && overlaps (x.d 7) (x.w 9) q.ring q.ringBytes) = true) ∨
        (bitOf (x.w 10) 0 = true ∧ s.view.encQp (fld (x.w 2) 0 2) x.paddock = none) →
      ∃ t, exec (.encOpen f) s = s.gives t ∧ Completed s.dev t f x .badParam 0 0 ∧ Dev.Keeps s.dev t) ∧
    (Runs s f 0x63 x → s.view.engineFull (4 + fld (x.w 2) 0 2) = false → ∀ h, s.view.newStream false = some h →
      ∃ t, exec (.decOpen f) s = s.gives t ∧ Completed s.dev t f x .ok h 0 ∧ 32 ≤ h ∧ KV.has s.dev.streams h = false ∧
        (∃ q, KV.find t.streams h = some q ∧ q.enc = false ∧ q.paddock = x.paddock ∧ q.engine = 4 + fld (x.w 2) 0 2)) ∧
    (∀ q, KV.find s.dev.streams x.streamId = some q →
      (Runs s f 0x62 x → ∃ t, exec (.encKey f) s = s.gives t ∧ Completed s.dev t f x .ok q.next 0 ∧
        KV.find t.streams x.streamId = some { q with keyNext := true, closing := if q.closing = some f then none else q.closing }) ∧
      (Runs s f 0x65 x → s.dev.engines.vals.any (fun e => e.stream == x.streamId) = false →
        exec (.mediaClose f) s = s.gives (s.view.closeStream f x.streamId q) ∧ KV.has (s.view.closeStream f x.streamId q).streams x.streamId = false) ∧
      (Runs s f 0x65 x → s.dev.engines.vals.any (fun e => e.stream == x.streamId) = true →
        exec (.mediaClose f) s = s.gives (s.view.updStream x.streamId (fun q => { q with closing := some (q.closing.getD f) }))))

/-- R37, R195, R197, R202, R204: ENC_PICTURE within 63 of the next number and DEC_DATA wait in their stream's list, and a
number out of range ends with ST_BAD_PARAM; a free engine takes the picture that R37 puts first, but none in a supply
warning or while the media PLL is stopped (R203, R291); its units are emitted as each is complete, and the picture ends with
the last of them; with the ring full, or without receive credit, the engine stops until there is room. A decoder writes one
picture at a time. An engine without a picture does nothing. -/
def Obligations.PicturesAreCoded : Prop :=
  ∀ (s : State) (f en : Nat) (x : Flight) (q : Stream), KV.find s.dev.streams x.streamId = some q →
    (Runs s f 0x61 x → s.dev.engines.vals.any (fun e => e.flight == f) = false →
      (q.ahead x.picture ≤ 63 → exec (.encPicture f) s = s.gives (s.view.mediaReady f x q)) ∧
      (63 < q.ahead x.picture → SlotFree s.dev x →
        ∃ t, exec (.encPicture f) s = s.gives t ∧ Completed s.dev t f x .badParam 0 0 ∧ Dev.Keeps s.dev t)) ∧
    (Runs s f 0x64 x → s.dev.engines.vals.any (fun e => e.flight == f) = false → q.job = none →
      exec (.decData f) s = s.gives (s.view.mediaReady f x q)) ∧
    (KV.find (s.view.mediaReady f x q).streams x.streamId =
      some { q with ready := if q.ready.contains f then q.ready else q.ready ++ [f] }) ∧
    (KV.has s.dev.engines en = false → s.dev.supply.warn = false → s.dev.pll.contains .media = true → KV.find s.dev.flights f = some x →
      s.view.firstOf ((KV.keep s.dev.streams (fun _ q => q.engine == en)).filterMap (fun e => s.view.offered e.1 e.2)) = some f →
      (∀ mf, exec (.mediaPictureStart en mf) s =
        s.gives (if q.enc then (s.view.beginRun f).startEncode s.nv en f x q mf else s.view.startDecode s.nv en f x q mf)) ∧
      (q.enc = false → s.dev.poison = [] → q.job = none → ∃ t, exec (.mediaPictureStart en .none) s = s.gives t ∧
        (∃ e, KV.find t.engines en = some e ∧ e.flight = f ∧ e.stream = x.streamId) ∧
        ∃ y, KV.find t.flights f = some y ∧ y.phase = .running ∧ y.startNow = s.dev.now ∧ y.gtcStart = s.dev.gtc.val)) ∧
    (∀ mf, KV.has s.dev.engines en = true ∨ s.dev.supply.warn = true ∨ s.dev.pll.contains .media = false →
      exec (.mediaPictureStart en mf) s = s.gives s.view) ∧
    (∀ e n g, KV.find s.dev.engines en = some e → g = s.view.grantCredit en n →
      exec (.encOutputResume en n) s = s.gives (if e.stopped then (g.emitAll en e e.waiting).encodeEnd en else g) ∧
      ∀ upto, (s.dev.supply.warn = true → exec (.mediaPictureDone en upto n) s = s.gives g) ∧
        (s.dev.supply.warn = false → e.flight = f → e.stream = x.streamId → KV.find s.dev.flights f = some x →
          exec (.mediaPictureDone en upto n) s = s.gives (if q.enc then
              (if e.stopped then g else (g.unitsDone en (upto.getD e.units.length)).encodeEnd en)
            else Dev.closeIfDue { g.decPicture f x q with engines := KV.del (g.decPicture f x q).engines en } x.streamId))) ∧
    (KV.find s.dev.engines en = none → ∀ upto n, exec (.encOutputResume en n) s = s.gives s.view ∧ exec (.mediaPictureDone en upto n) s = s.gives s.view)

/-! ### Links -/

/-- R236 to R238, R242, R251, R252: PORT_CONTROL enables a disabled port, which then trains while the command waits
(the model's reading of Table 2.22, log 37), disables, retrains, sets the reach class of a disabled port and releases a fence
that only node or port caused, and is refused otherwise; ROUTE_LOAD waits for the packets queued under the old table, replaces
it and answers the new generation, or refuses a bad one and keeps the old. -/
def Obligations.PortsAreControlled : Prop :=
  ∀ (s : State) (f p : Nat) (x : Flight), SlotFree s.dev x → p = fld (x.w 2) 0 4 →
    (Runs s f 0x71 x →
      (fld (x.w 2) 8 4 = 0 → (s.dev.port p).state = .disabled → ∃ t, exec (.portEnable f) s = s.gives t ∧
        (t.port p).state = .training ∧ (t.port p).since = s.dev.now ∧ (t.port p).off = false ∧ (t.port p).waiter = some f ∧
        (∀ q, q ≠ p → t.port q = s.dev.port q) ∧
        ((s.dev.port p).waiter = none → KV.find t.flights f = some { x with phase := .moving } ∧ t.queues = s.dev.queues)) ∧
      (fld (x.w 2) 8 4 = 0 → (s.dev.port p).state ≠ .disabled →
        exec (.portEnable f) s = s.gives (s.view.finish f .ok (s.dev.port p).state.code (s.dev.port p).lanes)) ∧
      (fld (x.w 2) 8 4 = 1 → (s.dev.port p).state = .disabled → ∃ t, exec (.portDisable f) s = s.gives t ∧
        Completed s.dev t f x .ok 0 0 ∧ (t.port p).state = .disabled ∧ (t.port p).off = true) ∧
      (fld (x.w 2) 8 4 = 1 → (s.dev.port p).state ≠ .disabled → exec (.portDisable f) s = s.gives
        ((((((s.view.updPort p (fun x =>
          { x with state := .disabled, off := true, hold := (none, none), replayUntil := 0, released := false })).portLost p).postLinkFailed p 4).portEnds p
            .linkFailed).gtcFollow.dropPlls).portDone f p .ok)) ∧
      (fld (x.w 2) 8 4 = 2 → (s.dev.port p).state = .disabled →
        ∃ t, exec (.portRetrain f) s = s.gives t ∧ Completed s.dev t f x .badParam 0 0 ∧ Dev.Keeps s.dev t) ∧
      (fld (x.w 2) 8 4 = 2 → (s.dev.port p).state ≠ .disabled → exec (.portRetrain f) s = s.gives
        ((((s.view.trainFor f p).portLost p).postLinkFailed p 4).gtcFollow)) ∧
      (fld (x.w 2) 8 4 = 3 → (s.dev.port p).state = .disabled → fld (x.w 2) 16 2 ≠ 3 → ∃ t, exec (.portSetReachClass f) s = s.gives t ∧
        Completed s.dev t f x .ok 0 0 ∧ t.port p = { s.dev.port p with cls := fld (x.w 2) 16 2 } ∧ ∀ q, q ≠ p → t.port q = s.dev.port q) ∧
      (fld (x.w 2) 8 4 = 3 → (s.dev.port p).state ≠ .disabled ∨ fld (x.w 2) 16 2 = 3 →
        ∃ t, exec (.portSetReachClass f) s = s.gives t ∧ Completed s.dev t f x .badParam 0 0 ∧ Dev.Keeps s.dev t) ∧
      (fld (x.w 2) 8 4 = 4 → (s.dev.port p).state = .fenced → (s.dev.port p).fenceCause % 2 = 0 → (s.dev.port p).fenceCause < 8 →
        exec (.portReleaseFence f) s = s.gives ((s.view.updPort p (fun x => { x with state := .up, released := true })).drainQueue.gtcFollow.portDone f p .ok)) ∧
      (fld (x.w 2) 8 4 = 4 → (s.dev.port p).state ≠ .fenced →
        exec (.portReleaseFence f) s = s.gives (s.view.finish f .ok (s.dev.port p).state.code (s.dev.port p).lanes)) ∧
      (fld (x.w 2) 8 4 = 4 → (s.dev.port p).state = .fenced → (s.dev.port p).fenceCause % 2 = 1 ∨ 8 ≤ (s.dev.port p).fenceCause →
        ∃ t, exec (.portReleaseFence f) s = s.gives t ∧ Completed s.dev t f x .badParam 0 0 ∧ Dev.Keeps s.dev t)) ∧
    (Runs s f 0x70 x →
      (routeBad s.nv s.view (x.d 2) (x.w 4) = true → ∃ t, exec (.routeLoad f) s = s.gives t ∧ Completed s.dev t f x .badParam 0 0 ∧ Dev.Keeps s.dev t) ∧
      (routeBad s.nv s.view (x.d 2) (x.w 4) = false → s.dev.outq ≠ [] → exec (.routeLoad f) s = s.gives s.view) ∧
      (routeBad s.nv s.view (x.d 2) (x.w 4) = false → s.dev.outq = [] → exec (.routeLoad f) s = s.gives ((((List.range 16).foldl Dev.rejudge
        { s.view with route := some (readRoute s.dev.hbm (x.d 2) (x.w 4)), routeGen := (s.dev.routeGen + 1) % 2 ^ 32 }).gtcFollow).finish f .ok
          ((s.dev.routeGen + 1) % 2 ^ 32) 0)))

/-- R237 to R240, R245: at READY every port that is not off trains; training, in which the ends exchange identities, ends with eight lanes or more in
the state that the neighbour, the expectations and the versions give, and else at the limit of the reach class in
FAILED, from which the port trains again after 10 ms and then every second. -/
def Obligations.PortsTrain : Prop :=
  ∀ (s : State) (p dt : Nat) (nb : Neighbour) (lanes : Nat),
    (s.dev.boot.ready = true → exec .portTrainingStart s = s.gives ((List.range 16).foldl (fun d p =>
      if (d.port p).state = .disabled ∧ !(d.port p).off then d.startTraining p else d) s.view)) ∧
    (s.dev.boot.ready = false → exec .portTrainingStart s = s.gives s.view) ∧
    ((s.dev.port p).state = .training → 8 ≤ popLanes lanes →
      (s.view.fenceCauseOf p nb = 0 → ∃ t, exec (.portTrainingDone p nb lanes) s = s.gives t ∧ (t.port p).state = .up ∧
        (t.port p).nb = some nb ∧ (t.port p).fenceCause = 0 ∧ (t.port p).goodLanes = popLanes lanes ∧ (t.port p).retries = 0 ∧
        t.out.ids = [(p, s.view.identity p)]) ∧
      (s.view.fenceCauseOf p nb ≠ 0 → ∃ d : Dev, exec (.portTrainingDone p nb lanes) s = s.gives (((d.portFenced p).postFenced p nb).gtcFollow.portEnds p .ok) ∧
        d.out.ids = [(p, s.view.identity p)] ∧
        (d.port p).state = .fenced ∧ (d.port p).nb = some nb ∧ (d.port p).fenceCause = s.view.fenceCauseOf p nb ∧
        (d.port p).version = (commonVersion nb).getD 0 ∧ ∀ q, q ≠ p → d.port q = s.dev.port q)) ∧
    ((s.dev.port p).state ≠ .training ∨ popLanes lanes < 8 → exec (.portTrainingDone p nb lanes) s = s.gives s.view) ∧
    ((s.dev.port p).state = .training →
      ((s.dev.port p).since + trainLimit (s.dev.port p).cls ≤ s.dev.now + dt →
        exec (.portTrainingTimeout p dt) s = s.gives ((s.view.advance dt).failPort p 3)) ∧
      (s.dev.now + dt < (s.dev.port p).since + trainLimit (s.dev.port p).cls →
        exec (.portTrainingTimeout p dt) s = s.gives (s.view.advance dt))) ∧
    ((s.dev.port p).state = .failed → ∀ w, w = (if (s.dev.port p).retries = 0 then 10000000 else 1000000000) →
      ((s.dev.port p).since + w ≤ s.dev.now + dt → ∃ t, exec (.portAutoRetrain p dt) s = s.gives t ∧ (t.port p).state = .training ∧
        (t.port p).retries = (s.dev.port p).retries + 1 ∧ ∀ q, q ≠ p → t.port q = s.dev.port q) ∧
      (s.dev.now + dt < (s.dev.port p).since + w → exec (.portAutoRetrain p dt) s = s.gives (s.view.advance dt)))

/-- R243 to R245: a replay is counted and takes at most 2 µs, or the round trip of class O; more than 16 replays of a direction within 40 µs, or a lane with too many errors,
move that lane onto the spare with the direction held, and make the port FAILED where the spare is taken or no
lane is named; the swap ends the hold within 200 µs, and at 200 µs the port is FAILED; a lost signal makes it
FAILED at once. -/
def Obligations.LanesFailAndSwap : Prop :=
  ∀ (s : State) (p dt lane : Nat) (dir : Bool),
    ((s.dev.port p).live = true →
      (∃ t, exec (.linkReplay p dir dt) s = s.gives t ∧ (t.port p).replays = bump (s.dev.port p).replays ∧
        sel dir (t.port p).replayTimes = (s.dev.now + dt) :: (s.dev.port p).recentReplays dir (s.dev.now + dt) ∧
        (t.port p).replayUntil ≤ max (s.dev.port p).replayUntil (s.dev.now + dt + replayMax (s.dev.port p).cls) ∧
        (s.dev.port p).replayUntil ≤ (t.port p).replayUntil ∧ (∀ q, q ≠ p → t.port q = s.dev.port q) ∧ t.hbm = s.dev.hbm) ∧
      exec (.linkSignalLoss p) s = s.gives (s.view.failPort p 2) ∧
      (sel dir (s.dev.port p).hold = none →
        ((sel dir (s.dev.port p).spare).isSome = true → exec (.laneErrorExcess p dir lane) s = s.gives (s.view.failPort p 1)) ∧
        ((sel dir (s.dev.port p).spare).isSome = false → ∃ t, exec (.laneErrorExcess p dir lane) s = s.gives t ∧
          sel dir (t.port p).hold = some (lane, s.dev.now) ∧ (t.port p).state = (s.dev.port p).state) ∧
        (17 ≤ ((s.dev.port p).recentReplays dir s.dev.now).length →
          exec (.replayStorm p dir (some lane)) s = exec (.laneErrorExcess p dir lane) s ∧
          exec (.replayStorm p dir none) s = s.gives (s.view.failPort p 0)) ∧
        (((s.dev.port p).recentReplays dir s.dev.now).length < 17 → ∀ l, exec (.replayStorm p dir l) s = s.gives s.view))) ∧
    (∀ l since, sel dir (s.dev.port p).hold = some (l, since) →
      (s.dev.now + dt - since < 200000 → ∃ t, exec (.laneSwapDone p dir dt) s = s.gives t ∧ sel dir (t.port p).hold = none ∧
        sel dir (t.port p).spare = some l ∧ (t.port p).laneSwaps = bump (s.dev.port p).laneSwaps ∧
        exec (.laneSwapHoldTimeout p dir dt) s = s.gives (s.view.advance dt)) ∧
      (200000 ≤ s.dev.now + dt - since → exec (.laneSwapDone p dir dt) s = s.gives (s.view.advance dt) ∧
        exec (.laneSwapHoldTimeout p dir dt) s = s.gives ((s.view.advance dt).failPort p 0)))

/-! ### The global tick counter -/

/-- R277, R278: GTC_CONTROL reads the counter, names the root, turns steering on and off and sets the pulses up (IN_EN on the root
only, and a root without it at its nominal rate), and a read changes nothing of it. R274, R275, R278: the counter steps by an offset above 1 µs of lag and
else keeps its value and takes a rate of at most 200 ppm; it locks after 1 ms within 5 ns and leaves LOCKED with
EV_GTC_UNLOCKED after 100 µs above 100 ns; the pulse output rises at a multiple of 10^9 for 100 µs; a first
pulse edge steps the root to the offset and a later one steers; and no edge for 1.1 s is reported. -/
def Obligations.TickCounterIsControlledAndFollows : Prop :=
  (∀ (s : State) (f : Nat) (x : Flight), Runs s f 0x72 x → SlotFree s.dev x →
     (fld (x.w 2) 0 4 = 0 → ∃ t, exec (.gtcRead f) s = s.gives t ∧ Dev.Keeps s.dev t ∧
       Completed s.dev t f x .ok (s.dev.gtc.val.toNat % 2 ^ 32) (s.dev.gtc.val.toNat / 2 ^ 32)) ∧
     (fld (x.w 2) 0 4 = 1 → ∃ t, exec (.gtcSetRoot f) s = s.gives t ∧ t.gtc.root = fld (x.w 4) 0 16 ∧ t.gtc.val = s.dev.gtc.val ∧
       t.hbm = s.dev.hbm ∧ t.ports = s.dev.ports) ∧
     (fld (x.w 2) 0 4 = 2 → ∃ t, exec (.gtcSteeringOn f) s = s.gives t ∧ t.gtc.steering = true ∧ t.gtc.val = s.dev.gtc.val) ∧
     (fld (x.w 2) 0 4 = 3 → ∃ t, exec (.gtcSteeringOff f) s = s.gives t ∧ t.gtc.steering = false ∧ t.gtc.state = .free ∧
       t.gtc.ratePpb = 0 ∧ t.gtc.val = s.dev.gtc.val) ∧
     (fld (x.w 2) 0 4 = 4 → (bitOf (x.w 4) 1 = true → s.dev.route.isSome = true ∧ s.dev.gtc.root = s.view.selfId) →
       ∃ t, exec (.gtcPpsSetup f) s = s.gives t ∧ Completed s.dev t f x .ok (s.dev.gtc.val.toNat % 2 ^ 32) (s.dev.gtc.val.toNat / 2 ^ 32) ∧
         t.gtc.val = s.dev.gtc.val ∧ t.gtc.outEn = bitOf (x.w 4) 0 ∧ t.gtc.inEn = bitOf (x.w 4) 1 ∧ t.gtc.inOffset = sext (x.w 5) 32 ∧
         t.gtc.ppsSeen = false ∧ t.gtc.ppsLast = s.dev.now ∧ t.gtc.ppsLost = false ∧ t.gtc.root = s.dev.gtc.root ∧
         t.gtc.steering = s.dev.gtc.steering ∧ (t.gtc.state = .root → bitOf (x.w 4) 1 = false → t.gtc.ratePpb = 0)) ∧
     (fld (x.w 2) 0 4 = 4 → bitOf (x.w 4) 1 = true → s.dev.route.isSome = false ∨ s.dev.gtc.root ≠ s.view.selfId →
       ∃ t, exec (.gtcPpsSetup f) s = s.gives t ∧ Completed s.dev t f x .badParam 0 0 ∧ Dev.Keeps s.dev t)) ∧
  (∀ (s : State) (dt : Nat),
     (∀ p t1 t2 t3 t4, s.view.parentPort = some p → s.dev.gtc.state = .acquiring ∨ s.dev.gtc.state = .locked →
       ∃ t, exec (.gtcTimestampExchange p t1 t2 t3 t4) s = s.gives t ∧ t.gtc.theta = theta t1 t2 t3 t4 ∧
         t.gtc.filtered = Config.thetaFilter s.dev.gtc.filtered (theta t1 t2 t3 t4) ∧
         (1000 < theta t1 t2 t3 t4 → t.gtc.val = s.dev.gtc.val + BitVec.ofInt 64 (theta t1 t2 t3 t4)) ∧
         (theta t1 t2 t3 t4 ≤ 1000 → s.dev.gtc.acquired = true → t.gtc.val = s.dev.gtc.val ∧ -200000 ≤ t.gtc.ratePpb ∧ t.gtc.ratePpb ≤ 200000) ∧
         t.hbm = s.dev.hbm ∧ t.flights = s.dev.flights) ∧
     (∀ since, s.dev.gtc.inSince = some since → s.dev.gtc.state = .acquiring →
       (since + 1000000 ≤ s.dev.now + dt → ∃ t, exec (.gtcLock dt) s = s.gives t ∧ t.gtc.state = .locked) ∧
       (s.dev.now + dt < since + 1000000 → exec (.gtcLock dt) s = s.gives (s.view.advance dt))) ∧
     (∀ since, s.dev.gtc.outSince = some since → s.dev.gtc.state = .locked →
       (since + 100000 ≤ s.dev.now + dt → exec (.gtcUnlock dt) s = s.gives (Dev.postUnlocked { s.view.advance dt with
         gtc := { (s.view.advance dt).gtc with state := .acquiring, inSince := none } } s.dev.gtc.parent s.dev.gtc.theta)) ∧
       (s.dev.now + dt < since + 100000 → exec (.gtcUnlock dt) s = s.gives (s.view.advance dt))) ∧
     (s.dev.gtc.outEn = true → (s.view.advance dt).gtc.val.toNat % 1000000000 = 0 →
       ∃ t, exec (.gtcPpsOutPulse dt) s = s.gives t ∧ t.gtc.ppsHighUntil = s.dev.now + dt + 100000) ∧
     (∀ high, 1000 ≤ high → s.dev.gtc.inEn = true → s.dev.gtc.state = .root → s.dev.gtc.ppsSeen = false →
       ∃ t, exec (.gtcPpsInEdge dt high) s = s.gives t ∧ t.gtc.ppsSeen = true ∧ t.gtc.ppsLost = false ∧ t.gtc.ppsLast = s.dev.now + dt ∧
         t.gtc.val = (s.view.advance dt).gtc.val + BitVec.ofNat 64 (s.view.advance dt).gtc.toPulse) ∧
     (∀ high, 1000 ≤ high → s.dev.gtc.inEn = true → s.dev.gtc.state = .root → s.dev.gtc.ppsSeen = true →
       ∃ t, exec (.gtcPpsInEdge dt high) s = s.gives t ∧ t.gtc.val = (s.view.advance dt).gtc.val ∧ -500000000 ≤ t.gtc.theta ∧
         t.gtc.theta < 500000000 ∧ -200000 ≤ t.gtc.ratePpb ∧ t.gtc.ratePpb ≤ 200000) ∧
     (∀ high, high < 1000 → exec (.gtcPpsInEdge dt high) s = s.gives (s.view.advance dt)) ∧
     (s.dev.gtc.inEn = true → s.dev.gtc.state = .root → s.dev.gtc.ppsLost = false →
       (s.dev.gtc.ppsLast + 1100000000 ≤ s.dev.now + dt → ∃ t, exec (.gtcPpsInLoss dt) s = s.gives t ∧ t.gtc.ppsLost = true) ∧
       (s.dev.now + dt < s.dev.gtc.ppsLast + 1100000000 → exec (.gtcPpsInLoss dt) s = s.gives (s.view.advance dt))))

/-! ### Power, clocks and temperature -/

/-- R291, R296 to R298, R300: an idle shed goes one state deeper when its time has come and its target is that deep: to
GATE, HOLD, SAVE once its copy has finished, with its crib and loft in its slot of the save area, and OFF, which clears its accumulators; a woken shed runs once its
die's PLL has locked, and takes its crib and loft back from SAVE; a PLL that some state wants locks; and the device rests once the conditions have held
for 50 ms. A shed that may not go deeper stays as it is. -/
def Obligations.ShedsSleepAndWake : Prop :=
  ∀ (s : State) (sh dt : Nat),
    ((s.view.advance dt).mayDeepen s.nv sh 2000 .gate = true →
      ∃ t, exec (.shedEnterGate sh dt) s = s.gives t ∧ t.shed sh = { s.dev.shed sh with power := .gate } ∧
        (∀ j, j ≠ sh → t.shed j = s.dev.shed j) ∧ SameFlights s.dev t) ∧
    ((s.view.advance dt).mayDeepen s.nv sh 2000 .gate = false → exec (.shedEnterGate sh dt) s = s.gives (s.view.advance dt)) ∧
    ((s.view.advance dt).mayDeepen s.nv sh 100000 .hold = true →
      ∃ t, exec (.shedEnterHold sh dt) s = s.gives t ∧ t.shed sh = { s.dev.shed sh with power := .hold }) ∧
    ((s.view.advance dt).mayDeepen s.nv sh 100000 .hold = false → exec (.shedEnterHold sh dt) s = s.gives (s.view.advance dt)) ∧
    ((s.view.advance dt).mayDeepen s.nv sh 2000000 .save = true → s.view.hasSaveArea = true → (s.dev.shed sh).power = .hold →
      (s.dev.shed sh).saving = none → ∃ t, exec (.shedSaveStart sh dt) s = s.gives t ∧
        t.shed sh = { s.dev.shed sh with saving := some (s.dev.now + dt) }) ∧
    (s.view.hasSaveArea = false → exec (.shedSaveStart sh dt) s = s.gives (s.view.advance dt)) ∧
    ((s.dev.shed sh).saving.isSome = true → ∃ t, exec (.shedSaveDone sh) s = s.gives t ∧
      t.shed sh = { s.dev.shed sh with power := .save, saving := none, saved := true } ∧ t.acc = s.dev.acc ∧
      t.hbm = (s.view.saveShed s.nv sh).hbm ∧ (∀ a, inShed sh a = true → t.sram.read a = Memory.blank) ∧
      (∀ a, inShed sh a = false → t.sram.read a = s.dev.sram.read a) ∧
      ∀ a, a < s.view.saveBase sh ∨ s.view.saveBase sh + contextSlot ≤ a → t.hbm.read a = s.dev.hbm.read a) ∧
    ((s.dev.shed sh).saving = none → exec (.shedSaveDone sh) s = s.gives s.view) ∧
    ((s.view.advance dt).mayDeepen s.nv sh 20000000 .off = true → ∃ t, exec (.shedEnterOff sh dt) s = s.gives t ∧
      (t.shed sh).power = .off ∧ (∀ c, c < 72 → KV.find t.acc (sh * 72 + c) = none) ∧ t.hbm = s.dev.hbm) ∧
    ((s.view.advance dt).mayDeepen s.nv sh 20000000 .off = false → exec (.shedEnterOff sh dt) s = s.gives (s.view.advance dt)) ∧
    (∀ p, (s.dev.shed sh).wakeTo = some p → s.dev.pll.contains (.die (dieOfShed sh)) = true →
      ∃ t, exec (.shedWakeDone sh) s = s.gives t ∧ (t.shed sh).power = p ∧ (t.shed sh).wakeTo = none ∧
        (t.shed sh).idleSince = s.dev.now ∧ (t.shed sh).saved = false ∧
        ((s.dev.shed sh).saved = true → t.sram = (s.view.loadShed (s.view.saveBase sh) sh (s.nv.logical sh)).sram) ∧ (p = .run → (t.shed sh).mbox.wake = false)) ∧
    (∀ p, (s.dev.shed sh).wakeTo = some p → s.dev.pll.contains (.die (dieOfShed sh)) = false →
      exec (.shedWakeDone sh) s = s.gives s.view) ∧
    (∀ pll, s.dev.supply.ref = true → s.dev.supply.off = false → s.dev.supply.trip = false → s.view.pllWanted pll = true →
      s.dev.pll.contains pll = false → exec (.pllLock pll) s = s.gives { s.view with pll := s.dev.pll ++ [pll] }) ∧
    (∀ pll, s.view.pllWanted pll = false → exec (.pllLock pll) s = s.gives s.view) ∧
    ((s.view.advance dt).mayRest s.hay = true → s.dev.restSince + 50000000 ≤ s.dev.now + dt →
      ∃ t, exec (.deviceRestEnter dt) s = s.gives t ∧ t.devPower = .rest ∧ t.hbm = s.dev.hbm ∧ t.sheds = s.dev.sheds) ∧
    ((s.view.advance dt).mayRest s.hay = false → exec (.deviceRestEnter dt) s = s.gives (s.view.advance dt))

/-- R299, R302, R234, R232: LATENCY_SET stores the tolerance and answers the state it selects; POWER_CAP stores the ceiling in
force; above it one die falls one point each millisecond, and well below it one die rises; a stack above
100 °C lowers its die and one below 97 °C for 10 ms lets it rise; refresh doubles above 95 °C; at 105 °C and
700 MHz a stack pauses issue until it is below 100 °C. A scrub of a good word changes nothing, and
of a bad one counts an error of the channel that holds it. -/
def Obligations.ClocksFollowPowerAndTemperature : Prop :=
  ∀ (s : State) (k temp mean dt : Nat),
    (∀ f x p, Runs s f 0x80 x → s.dev.pad x.paddock = some p → ∀ d, d = { s.view with
        pads := KV.put s.dev.pads x.paddock { p with tolNs := x.w 2 * 1000 } } →
      exec (.latencySet f) s = s.gives ((d.finish f .ok (powerOfTol d.hasSaveArea (d.setTol p.shedMask)).depth 0).fitTargets s.nv (shedsOf p.shedMask))) ∧
    (∀ f x, Runs s f 0x81 x → SlotFree s.dev x → capOf (fld (x.w 2) 0 16) ≠ 0 →
      ∃ t, exec (.powerCap f) s = s.gives t ∧ Completed s.dev t f x .ok (capOf (fld (x.w 2) 0 16)) 0 ∧ t.cap = capOf (fld (x.w 2) 0 16) ∧
        t.dies = s.dev.dies) ∧
    (∀ f x, Runs s f 0x81 x → capOf (fld (x.w 2) 0 16) = 0 →
      exec (.powerCap f) s = s.gives ((Dev.finish { s.view with cap := 0, capSince := s.dev.now } f .ok 0 0).liftCap)) ∧
    (s.dev.cap ≠ 0 → s.dev.cap < mean → s.dev.capLast + 1000000 ≤ s.dev.now + dt → ∀ n, s.view.capVictim = some n →
      ∃ d : Dev, exec (.powerCapLower mean dt) s = s.gives ((d.postThrottle n (s.dev.die n).point 1
        ([0, 1, 2, 3].all (fun k => (d.die k).capPt == 7))).flagClocks) ∧
        d.die n = { s.dev.die n with capPt := (s.dev.die n).capPt + 1 } ∧ d.capLast = s.dev.now + dt ∧ ∀ j, j ≠ n → d.die j = s.dev.die j) ∧
    (s.dev.cap = 0 ∨ mean ≤ s.dev.cap → exec (.powerCapLower mean dt) s = s.gives ((s.view.advance dt).setPower mean)) ∧
    (s.dev.cap ≠ 0 → mean * 100 ≤ s.dev.cap * 95 → s.dev.capSince + 10000000 ≤ s.dev.now + dt → s.dev.capLast + 10000000 ≤ s.dev.now + dt →
      ∀ n, s.view.capRaise = some n → ∃ t, exec (.powerCapRaise mean dt) s = s.gives t ∧
        t.die n = { s.dev.die n with capPt := (s.dev.die n).capPt - 1 } ∧ ∀ j, j ≠ n → t.die j = s.dev.die j) ∧
    (s.dev.cap * 95 < mean * 100 → exec (.powerCapRaise mean dt) s = s.gives ((s.view.advance dt).setPower mean)) ∧
    (∃ t, exec (.hbmRefreshChange k temp) s = s.gives t ∧ (t.stack k).temp = temp ∧ (950 < temp → (t.stack k).double = true) ∧
      (temp < 930 → (t.stack k).double = false) ∧ (930 ≤ temp → temp ≤ 950 → (t.stack k).double = (s.dev.stack k).double) ∧
      t.hbm = s.dev.hbm ∧ ∀ j, j ≠ k → t.stack j = s.dev.stack j) ∧
    (1000 < temp → (s.dev.die (dieOfStack k)).tempPt = 0 → ∃ d : Dev, exec (.hbmThrottleStep k temp dt) s = s.gives
      ((d.postThrottle (dieOfStack k) (s.dev.die (dieOfStack k)).point 0 false).flagClocks) ∧ (d.die (dieOfStack k)).tempPt = 1 ∧
      (d.stack k).temp = temp) ∧
    (temp ≤ 1000 → exec (.hbmThrottleStep k temp dt) s = s.gives ((s.view.advance dt).setTemp k temp)) ∧
    (∀ c, (rangeFrom (6 * dieOfStack k) 6).all (fun j => ((s.view.setTemp k temp).stack j).temp < 970) = true → 0 < (s.dev.die (dieOfStack k)).tempPt →
      (s.dev.die (dieOfStack k)).coolSince = some c → c + 10000000 ≤ s.dev.now + dt →
      (s.dev.die (dieOfStack k)).tempSince + 10000000 ≤ s.dev.now + dt → ∃ t, exec (.hbmThrottleRecover k temp dt) s = s.gives t ∧
        (t.die (dieOfStack k)).tempPt = (s.dev.die (dieOfStack k)).tempPt - 1) ∧
    ((s.dev.die (dieOfStack k)).coolSince = none →
      exec (.hbmThrottleRecover k temp dt) s = s.gives ((s.view.advance dt).setTemp k temp)) ∧
    (∃ t, exec (.hbmIssuePause k temp) s = s.gives t ∧ (1050 ≤ temp → 7 ≤ (s.dev.die (dieOfStack k)).point → (t.stack k).paused = true) ∧
      (temp < 1050 → (t.stack k).paused = (s.dev.stack k).paused)) ∧
    (∃ t, exec (.hbmIssueResume k temp) s = s.gives t ∧ (temp < 1000 → (t.stack k).paused = false) ∧
      (1000 ≤ temp → (t.stack k).paused = (s.dev.stack k).paused)) ∧
    (∀ a, exec (.hbmScrub a none) s = s.gives s.view) ∧
    (∀ a b, hbmTop ≤ a ∨ s.nv.hole a = true → exec (.hbmScrub a b) s = s.gives s.view) ∧
    (∀ a, a < hbmTop → s.nv.hole a = false →
      (∃ t, exec (.hbmScrub a (some true)) s = s.gives t ∧ t.hbm = s.dev.hbm ∧
        t.chan (s.nv.channelOf a) = ChanErr.judge { s.dev.chan (s.nv.channelOf a) with corrected := s.dev.now :: (s.dev.chan (s.nv.channelOf a)).corrected } s.dev.now ∧
        ∀ c, c ≠ s.nv.channelOf a → t.chan c = s.dev.chan c) ∧
      ∃ t, exec (.hbmScrub a (some false)) s = s.gives t ∧ t.hbm = s.dev.hbm ∧
        t.chan (s.nv.channelOf a) = ChanErr.judge { s.dev.chan (s.nv.channelOf a) with words := (s.dev.now, a / 32) :: (s.dev.chan (s.nv.channelOf a)).words } s.dev.now ∧
        ∀ c, c ≠ s.nv.channelOf a → t.chan c = s.dev.chan c)

/-- R329 to R331: below 42.0 V, or with PWR_WARN# asserted, a supply warning sets every die to 350 MHz; it ends after
100 µs above 44.0 V with the pin deasserted, at P7 with EV_VDROOP, and each step then raises one die by a
point. R342, R359, Table 18.4: an evaluation sets the alert bits whose conditions hold, a read of the cause register clears it,
ENTDAA gives the address and a 1 to register 0x0E starts the return from STANDBY. -/
def Obligations.SuppliesWarnAndAlertsAreRaised : Prop :=
  ∀ (s : State) (mv low below dt : Nat),
    (mv < 42000 → s.dev.devPower ≠ .standby → s.dev.supply.warn = false → ∃ t, exec (.supplyWarningEnter mv) s = s.gives t ∧
      t.supply.warn = true ∧ t.supply.mv48 = mv ∧ t.supply.lowest = mv ∧ (∀ n, n < 4 → (t.die n).supPt = 8) ∧ t.hbm = s.dev.hbm ∧
      (∀ n, n < 4 → pointMhz (t.die n).point = 350)) ∧
    (42000 ≤ mv → exec (.supplyWarningEnter mv) s = s.gives s.view) ∧
    (s.dev.supply.warn = false → ∃ t, exec .pwrWarnAssert s = s.gives t ∧ t.supply.warn = true ∧ t.supply.warnPin = true ∧
      ∀ n, n < 4 → (t.die n).supPt = 8) ∧
    (exec .pwrWarnDeassert s = s.gives { s.view with supply := { s.dev.supply with warnPin := false } }) ∧
    (s.dev.supply.warn = true → s.dev.supply.warnPin = false → 44000 < mv → 100000 ≤ dt →
      ∃ t, exec (.supplyWarningExit mv low below dt) s = s.gives t ∧ t.supply.warn = false ∧ t.supply.mv48 = mv ∧
        ∀ n, n < 4 → (t.die n).supPt = 7) ∧
    (s.dev.supply.warnPin = true ∨ mv ≤ 44000 ∨ dt < 100000 →
      exec (.supplyWarningExit mv low below dt) s = s.gives (s.view.advance dt)) ∧
    (∀ n, s.dev.supply.warn = false → 0 < (s.dev.die n).supPt → ∃ t, exec (.supplyRecoveryStep n dt) s = s.gives t ∧
      (t.die n).supPt = (if (s.dev.die n).supPt - 1 ≤ (s.dev.die n).limit then 0 else (s.dev.die n).supPt - 1) ∧
      ∀ j, j ≠ n → t.die j = s.dev.die j) ∧
    (∀ temps, ∃ t, exec (.thermAlertEval temps) s = s.gives t ∧ t.i3c.temps = temps ∧
      t.i3c.alert = (s.dev.i3c.alert ||| alertBits temps s.dev.supply.warn) ∧
      (t.out.ibi = true ↔ s.dev.i3c.alert = 0 ∧ t.i3c.alert ≠ 0)) ∧
    (∃ t, exec .i3cAlertCauseRead s = s.gives t ∧ t.out.value = s.dev.i3c.alert ∧ t.i3c = { s.dev.i3c with alert := 0 }) ∧
    (∀ a, exec (.i3cEntdaa a) s = s.gives { s.view with i3c := { s.dev.i3c with addr := some a } }) ∧
    (s.dev.devPower = .standby → s.dev.boot.standbyWake = none →
      exec (.i3cStandbyWake 1) s = s.gives { s.view with boot := { s.dev.boot with standbyWake := some s.dev.now } }) ∧
    (∀ v, v ≠ 1 → exec (.i3cStandbyWake v) s = s.gives s.view)

/-! ### Resets -/

/-- R319, R320, R322, R325, R326: a function level reset of the physical function, a hot reset and a lost link begin a warm reset, after which the
link trains again (R333), and which a reset under way, the trip, a lost supply or reference and a failed boot absorb; a warm reset keeps HBM, the keys,
the links' reach classes and the fallow policy and unbinds every queue; its end maps FAILING channels out and
raises READY. R292, R361, Table 17.4: PERST#, a supply below 38.0 V and a lost reference begin a module reset, which keeps neither
HBM nor a paddock; an over-temperature stops all but the supervisor, and only PERST# and cooling lead out of it. -/
def Obligations.ResetsBegin : Prop :=
  ∀ (s : State) (mv dt : Nat) (temps : Temps),
    (s.view.absorbsWarm = true → exec .pfFlr s = s.gives s.view) ∧
    (s.view.absorbsWarm = false → exec .pfFlr s = s.gives (s.view.beginWarm 5)) ∧
    (∀ link c n, (c, n) ∈ [(Instr.pcieHotReset link, 5), (.pcieLinkDown link, 6)] →
      (s.view.absorbsWarm = true → exec c s = s.gives { s.view with link := some link }) ∧
      (s.view.absorbsWarm = false → exec c s = s.gives { s.view.beginWarm n with link := some link })) ∧
    (∀ n, (s.view.warmCore n).hbm = s.dev.hbm ∧ (s.view.warmCore n).keys = s.dev.keys ∧ (s.view.warmCore n).fallow = s.dev.fallow ∧
      (s.view.warmCore n).flights = [] ∧ (s.view.warmCore n).pads = [] ∧ (∀ q, ((s.view.warmCore n).queue q).state = .unbound) ∧
      (s.view.warmCore n).boot.ready = false) ∧
    (∀ r, s.dev.boot.reset = some r → r.kind = 0 → ∃ t nv, exec .warmResetDone s = .next { s with nv := nv, dev := t } ∧
      nv = s.nv.mapOut (s.view.failing s.nv) ∧ t.boot.ready = true ∧ t.boot.reset = none ∧ t.boot.resetActive = false) ∧
    (s.dev.supply.trip = false → s.dev.boot.reset = none → ∃ t, exec .perstAssert s = s.gives t ∧ t.supply.perst = false ∧ t.hbm = [] ∧ t.pads = [] ∧
      t.flights = [] ∧ t.boot.ready = false ∧ t.boot.reset = some { kind := 1, cause := 1, since := s.dev.now }) ∧
    (s.dev.supply.trip = true → s.dev.supply.tripCool = false → exec .perstAssert s = s.gives { s.view with
      supply := { s.dev.supply with perst := false, tripReset := true } }) ∧
    (exec .perstDeassert s = s.gives { s.view with supply := { s.dev.supply with perst := true } }) ∧
    (mv < 38000 → s.dev.devPower ≠ .standby → s.dev.supply.trip = false → s.dev.boot.reset = none →
      ∃ t, exec (.vinBelow38V mv) s = s.gives t ∧ t.hbm = [] ∧ t.supply.mv48 = mv ∧
        t.boot.reset = some { kind := 1, cause := 2, since := s.dev.now }) ∧
    (38000 ≤ mv → exec (.vinBelow38V mv) s = s.gives s.view) ∧
    (mv < 10800 → 1000000 ≤ dt → ∃ t, exec (.auxSupplyLoss mv dt) s = s.gives t ∧ t.supply.off = true ∧ t.hbm = [] ∧
      t.boot.reset = some { kind := 1, cause := 4, since := s.dev.now + dt }) ∧
    (10800 ≤ mv ∨ dt < 1000000 → exec (.auxSupplyLoss mv dt) s = s.gives (s.view.advance dt)) ∧
    (10000 < dt → s.dev.supply.trip = false → s.dev.boot.reset = none → ∃ t, exec (.refclkLoss dt) s = s.gives t ∧ t.supply.ref = false ∧
      t.pll = [] ∧ t.boot.reset = some { kind := 1, cause := 3, since := s.dev.now + dt }) ∧
    (dt ≤ 10000 → exec (.refclkLoss dt) s = s.gives (s.view.advance dt)) ∧
    (1000000 ≤ dt → s.dev.supply.ref = false → ∃ t, exec (.refclkReturn dt) s = s.gives t ∧ t.supply.ref = true ∧ t.supply.refSince = s.dev.now + dt) ∧
    (Temps.trips temps = true → s.dev.supply.trip = false → s.dev.supply.off = false → ∃ t, exec (.thermalTrip temps) s = s.gives t ∧
      t.supply.trip = true ∧ t.boot.ready = false ∧ t.boot.reset = none ∧ t.i3c.trip = true ∧ t.hbm = [] ∧ t.flights = []) ∧
    (Temps.trips temps = false → exec (.thermalTrip temps) s = s.gives s.view) ∧
    (s.dev.supply.trip = true → temps.die < 850 → temps.hbm < 850 → temps.hay < 850 →
      (s.dev.supply.tripReset = false → ∃ t, exec (.thermalTripCooled temps) s = s.gives t ∧ t.supply.tripCool = true ∧ t.supply.trip = true) ∧
      (s.dev.supply.tripReset = true → s.dev.boot.reset = none → ∃ t, exec (.thermalTripCooled temps) s = s.gives t ∧ t.supply.trip = false ∧
        t.boot.reset = some { kind := 1, cause := 1, since := s.dev.now }))

/-- R301, R321, R324, R343: a cold start with the reference present, PERST# released and no trip boots the active slot, or the
other, or, where neither boots, leaves READY at 0 and FAULT at 1; a shed's reset ends the runs on it; a
DEVICE_RESET waits for the media pictures in progress (R210), aborts what is in flight, completes and begins the reset it names; an accepted STANDBY request
powers the device down, and a wake with 48 V present brings it back. -/
def Obligations.DevicesStartAndStop : Prop :=
  ∀ (s : State) (f sh dt mv : Nat) (x : Flight) (link : PcieLink) (fails : List (Nat × Nat × Nat)),
    (∀ r, s.dev.boot.reset = some r → r.kind = 1 → s.dev.supply.ref = true → s.dev.supply.perst = true → s.dev.supply.trip = false →
      (s.nv.bootSlot = none → ∃ t, exec (.coldStart dt link fails) s = s.gives t ∧ t.boot.fault = true ∧ t.boot.ready = false ∧ t.boot.reset = none ∧
        t.link = some link) ∧
      (∀ b, s.nv.bootSlot = some b → ∃ nv t, exec (.coldStart dt link fails) s = .next { s with nv := nv, dev := t } ∧ t.boot.ready = true ∧
        t.boot.reset = none ∧ t.link = some link ∧ t.boot.policy = b.policy ∧ s.nv.minSvn ≤ nv.minSvn)) ∧
    (s.dev.supply.perst = false → exec (.coldStart dt link fails) s = s.gives s.view) ∧
    (s.dev.boot.ready = true → exec (.shedReset sh) s = s.gives (s.view.shedReset sh)) ∧
    (s.dev.boot.ready = false → exec (.shedReset sh) s = s.gives s.view) ∧
    (Runs s f 0xF0 x → s.view.anySwitch = false → s.view.inflight 0 ≤ (s.dev.queue 0).cqFree → s.view.picturesPend (fun _ => true) = true →
      exec (.deviceReset f) s = s.gives (s.view.markClosing f (fun _ => true))) ∧
    (Runs s f 0xF0 x → s.view.anySwitch = false → s.view.inflight 0 ≤ (s.dev.queue 0).cqFree → s.view.picturesPend (fun _ => true) = false → ∀ ids, ids = s.view.flightsWhere (fun k _ => k != f) →
      (fld (x.w 2) 0 2 = 0 → exec (.deviceReset f) s = s.gives (((ids.foldl Dev.abortOne s.view).finish f .ok ids.length 0).beginWarm 0)) ∧
      (fld (x.w 2) 0 2 ≠ 0 → exec (.deviceReset f) s = s.gives (((ids.foldl Dev.abortOne s.view).finish f .ok ids.length 0).beginModule 0))) ∧
    (Runs s f 0xF0 x → s.view.anySwitch = true ∨ (s.dev.queue 0).cqFree < s.view.inflight 0 → exec (.deviceReset f) s = s.gives s.view) ∧
    (s.dev.boot.standbyAt.isSome = true → s.dev.devPower ≠ .standby → ∃ t, exec .standbyEnter s = s.gives t ∧ t.devPower = .standby ∧
      t.boot.ready = false ∧ t.hbm = [] ∧ t.keys = [] ∧ (∀ q, (t.queue q).state = .unbound)) ∧
    (s.dev.boot.standbyAt = none → exec .standbyEnter s = s.gives s.view) ∧
    (s.dev.devPower = .standby → s.dev.boot.standbyWake.isSome = true →
      (44000 < s.dev.supply.mv48 → ∃ t, exec .standbyWake s = s.gives t ∧ t.devPower = .active ∧ t.boot.ready = true) ∧
      (s.dev.supply.mv48 ≤ 44000 → exec .standbyWake s = s.gives s.view) ∧
      (44000 < mv → ∃ t, exec (.vinRestore mv) s = s.gives t ∧ t.devPower = .active ∧ t.boot.ready = true ∧ t.supply.mv48 = mv))

/-! ### Fallow -/

/-- R306 to R312, R315 to R318: a sweep makes slice k due 75 k s after its start; a slice runs at its opportunity; a PASS marks
it done, a first FAIL calls for its recovery re-execution and a second one retires the core in the non-volatile
area; a yield counts the time stolen and leaves the slice due; a shed below 64 good cores leaves service once
no run is on it. FALLOW_POLICY stores the policy, and TEST_RUN counts the slices it ran. -/
def Obligations.FallowSlicesFindFailingCores : Prop :=
  ∀ (s : State) (shed core k dt t0 f : Nat) (x : Flight) (c : CoreRec) (key now : Nat), key = coreKey shed core → c = s.dev.core key →
    now = s.dev.now + dt →
    (s.nv.inService shed = true → s.nv.isRetired shed core = false → c.sweepAt + 600000000000 ≤ now → (∀ e ∈ c.dueAt, now < e.2) →
      exec (.fallowSweepStart shed core dt) s = s.gives ((s.view.advance dt).setCore key { c with
        sweepAt := now, done := [], dueAt := (List.range 8).map (fun k => (k, now + 75000000000 * k)) })) ∧
    (now < c.sweepAt + 600000000000 → exec (.fallowSweepStart shed core dt) s = s.gives (s.view.advance dt)) ∧
    ((s.view.advance dt).mayRunSlice s.nv shed core k = true →
      exec (.fallowSliceStart shed core k dt) s = s.gives ((s.view.advance dt).setCore key { c with running := some (k, now) })) ∧
    ((s.view.advance dt).mayRunSlice s.nv shed core k = false → exec (.fallowSliceStart shed core k dt) s = s.gives (s.view.advance dt)) ∧
    (c.running = none → ∀ b, exec (.fallowSliceVerdict shed core b dt) s = s.gives (s.view.advance dt)) ∧
    (c.running = some (k, t0) → c.failedOnce.contains k = false →
      (∃ t, exec (.fallowSliceVerdict shed core true dt) s = s.gives t ∧ (t.core key).running = none ∧ k ∈ (t.core key).done ∧
        (∀ e ∈ (t.core key).dueAt, e ∈ c.dueAt ∧ ¬(e.1 = k ∧ e.2 ≤ now)) ∧ ∀ j, j ≠ key → t.core j = s.dev.core j) ∧
      (∃ t, exec (.fallowSliceVerdict shed core false dt) s = s.gives t ∧ (t.core key).running = none ∧
        (t.core key).failedOnce = c.failedOnce ++ [k] ∧ (t.core key).dueAt = c.dueAt)) ∧
    (c.running = some (k, t0) → c.failedOnce.contains k = true → s.nv.isRetired shed core = false →
      ∃ nv t, exec (.fallowSliceVerdict shed core false dt) s = .next { s with nv := nv, dev := t } ∧
        nv = { s.nv with retired := KV.put s.nv.retired key { cause := sliceCause k, tick := (s.view.advance dt).gtc.val } } ∧
        (t.core key).running = none ∧ (t.core key).failedOnce = [] ∧ (t.core key).dueAt = [] ∧
        ((nv.good shed).length < 64 → (t.shed shed).leaving = true)) ∧
    (c.running = some (k, t0) → exec (.fallowSliceYield shed core dt) s = s.gives ((s.view.advance dt).setCore key { c with
      running := none, stolen := (t0, now - t0) :: c.stolen })) ∧
    ((s.dev.shed shed).power = .hold ∨ (s.dev.shed shed).power = .save ∨ (s.dev.shed shed).power = .off →
      s.nv.inService shed = true → s.dev.fallow.enable = true →
      (∃ j ∈ s.nv.good shed, ∃ e ∈ (s.dev.core (coreKey shed j)).dueAt, e.2 + 10000000000 ≤ now) →
      exec (.fallowShedWake shed dt) s = s.gives ((s.view.advance dt).setShed shed { s.dev.shed shed with fallowRun := true, saving := none })) ∧
    (s.nv.inService shed = false ∨ s.dev.fallow.enable = false ∨ (s.dev.shed shed).power = .run ∨ (s.dev.shed shed).power = .gate →
      exec (.fallowShedWake shed dt) s = s.gives (s.view.advance dt)) ∧
    ((s.nv.good shed).length < 64 ∨ (s.dev.shed shed).leaving = true → s.nv.inService shed = true → s.view.busyShed shed = false →
      ∃ t, exec (.shedLeaveService shed) s = .next { s with nv := { s.nv with shedsOut := shed :: s.nv.shedsOut }, dev := t } ∧
        (t.shed shed).leaving = false ∧ t.flights = s.dev.flights ∧ t.pads = s.dev.pads) ∧
    (s.nv.inService shed = false ∨ s.view.busyShed shed = true → exec (.shedLeaveService shed) s = s.gives s.view) ∧
    (∀ cap, cap = (if fld (x.w 4) 0 16 = 0 then 100 else fld (x.w 4) 0 16) → Runs s f 0x90 x → SlotFree s.dev x →
      ∃ t, exec (.fallowPolicy f) s = s.gives t ∧ Completed s.dev t f x .ok cap 0 ∧
        t.fallow = { enable := bitOf (x.w 2) 0, minIdle := if x.w 3 = 0 then 50 else x.w 3, cap := cap } ∧ t.cores = s.dev.cores) ∧
    (Runs s f 0x91 x → SlotFree s.dev x → ∀ fails, ∃ nv t n, exec (.testRun f fails) s = .next { s with nv := nv, dev := t } ∧
      Completed s.dev t f x .ok n ((testCores s.nv (x.w 3)).length * (testSlices (fld (x.w 2) 0 8)).length) ∧ (fails = [] → n = 0))

/-- R313, R314: CORE_RETIRE retires the core it names with cause 6 and answers the spares left (0 of a shed that
has left service), changes nothing and posts
nothing for a core that is already retired, and is refused above core 71; logical core l is the (l + 1)-th
lowest-numbered core in service in every run that starts, the good cores above the 64th are the spares, and
retiring a spare changes no mapping. -/
def Obligations.CoresAreRetiredAndMapped : Prop :=
  (∀ (s : State) (f shed core : Nat) (x : Flight), Runs s f 0x92 x → shed = fld (x.w 2) 0 5 → core = fld (x.w 2) 8 7 → SlotFree s.dev x →
    (s.nv.isRetired shed core = true → ∃ t, exec (.coreRetire f) s = s.gives t ∧ Completed s.dev t f x .ok (s.nv.spares shed) 0 ∧
      Dev.Keeps s.dev t ∧ t = s.view.finish f .ok (s.nv.spares shed) 0) ∧
    (s.nv.isRetired shed core = false → ∃ nv t, exec (.coreRetire f) s = .next { s with nv := nv, dev := t } ∧
      Completed s.dev t f x .ok (nv.spares shed) 0 ∧ nv.spares shed = (if s.nv.inService shed then (nv.good shed).length - 64 else 0) ∧
      nv = { s.nv with retired := KV.put s.nv.retired (coreKey shed core) { cause := 6, tick := s.dev.gtc.val } })) ∧
  (∀ x : Flight, 71 < fld (x.w 2) 8 7 → (true, Status.badParam) ∈ checkCoreRetire x) ∧
  (∀ (nv : NonVol) (s l c : Nat) (r : Retired),
    (nv.logical s)[l]? = (if l < 64 then ((List.range 72).filter (fun k => !nv.isRetired s k))[l]? else none) ∧
    (nv.inService s = true → nv.spares s = ((nv.good s).drop 64).length) ∧ (nv.inService s = false → nv.spares s = 0) ∧
    (c < 72 → (nv.logical s).contains c = false → 64 ≤ (nv.good s).length →
      NonVol.logical { nv with retired := KV.put nv.retired (coreKey s c) r } s = nv.logical s)) ∧
  (∀ (s : State) (f : Nat) (x : Flight) (r : Run) (p : Paddock) (q : Plan), Runs s f 0x11 x → KV.find s.dev.runs f = some r →
    r.started = false → r.zeroBound = false → s.dev.pad x.paddock = some p → s.view.runPlan r = some q → s.view.mayRun p r = true → r.seqKeys = [] →
    (s.view.planImg q).sheds ≤ (p.serving s.nv).length →
    ∃ d : Dev, exec (.planRun f) s = s.gives (d.stepBegin f) ∧ ∀ k y, (KV.find d.runs f).bind (fun z => KV.find z.sheds k) = some y →
      y.cores = s.nv.logical y.phys)

/-! ### Fetching and starting -/

/-- R27, R29 to R32, R38, R41, R43, R258: what the host stored before a doorbell is in its memory (log 3); only a queue that may be fetched is; a failed read stops the queue with SQ_HEAD where it stands; an
entry fetched moves SQ_HEAD, and an opcode that no table defines completes with ST_BAD_OPCODE. A command starts
once what it is ordered behind has cleared and nothing of higher rank contends: it then runs with GTC_START
taken, and sheds it needs that sleep are woken first (R297); FENCE_OK behind a command that failed ends it with ST_ABORTED.
An expired command ends with ST_TIMEOUT, unless a link failure waits for the same tick (R259). -/
def Obligations.CommandsAreFetchedStartedAndTimed : Prop :=
  ∀ (s : State) (q f dt : Nat) (x : Flight) (y : Queue), y = s.dev.queue q →
    (∀ fn v stores, s.dev.fullUp = true → s.dev.answers fn q = true → y.state ≠ .unbound → y.badTail (fld (BitVec.toNat (v : Word)) 0 16) = false →
      ∃ t, exec (.sqDbWrite fn q v stores) s = s.gives t ∧ t.host = stores.foldl (fun m w => m.writes w.1 w.2) s.dev.host) ∧
    (s.view.fetchable q = false → ∀ err, exec (.commandFetch q err) s = s.gives s.view) ∧
    (y.held = true → s.view.turn ≠ some q → ∀ err, exec (.commandFetch q err) s = s.gives s.view) ∧
    (s.view.fetchable q = true → y.held = false ∨ s.view.turn = some q →
      (∀ c, ∃ t, exec (.commandFetch q (some c)) s = s.gives t ∧ t.queue q = { y with state := .stopped } ∧ t.flights = s.dev.flights) ∧
      (∃ t, exec (.commandFetch q none) s = s.gives t ∧ t.nextFlight = s.dev.nextFlight + 1 ∧ (t.queue q).head = (y.head + 1) % 2 ^ y.sqLog2) ∧
      (∀ z g v, z = Flight.fetched q y.head (s.dev.entryWords y) g v → z.badOpcode = true → SlotFree s.dev z →
        ∃ t, exec (.commandFetch q none) s = s.gives t ∧ Completed s.dev t s.dev.nextFlight z .badOpcode 0 0)) ∧
    (KV.find s.dev.flights f = some x →
      (x.phase ≠ .waiting ∨ s.view.fencesClear f x = false → exec (.commandStart f) s = s.gives s.view) ∧
      (x.phase = .waiting → s.view.fencesClear f x = true →
        (x.fenceOk = true → x.fenceBad = true → SlotFree s.dev x →
          ∃ t, exec (.commandStart f) s = s.gives t ∧ Completed s.dev t f x .aborted 0 0 ∧ Dev.Keeps s.dev t) ∧
        (x.fenceOk = false ∨ x.fenceBad = false → x.recheck = false →
          (s.view.outranked s.nv f x = true → exec (.commandStart f) s = s.gives s.view) ∧
          (∀ ss, ss = (if x.opcode = 0x11 then s.view.neededSheds s.nv x
              else if x.opcode = 0x91 then (shedsOf (x.w 3)).filter s.nv.inService else []) →
            s.view.outranked s.nv f x = false → x.opcode ≠ 0x11 ∨ s.view.runSlot x = true →
            ((∀ h ∈ ss, (s.dev.shed h).power = .run) →
              ∃ t z, exec (.commandStart f) s = s.gives t ∧ KV.find t.flights f = some z ∧ z.phase = .running ∧ z.words = x.words ∧
                z.gtcStart = s.dev.gtc.val ∧ z.startNow = s.dev.now ∧ ∀ g, g ≠ f → KV.find t.flights g = KV.find s.dev.flights g) ∧
            ((∃ h ∈ ss, (s.dev.shed h).power ≠ .run) → exec (.commandStart f) s = s.gives (s.view.wakeSheds ss .run))) ∧
          (s.view.outranked s.nv f x = false → x.opcode = 0x11 → s.view.runSlot x = false → exec (.commandStart f) s = s.gives s.view)))) ∧
    (∀ d z, d = s.view.advance dt → KV.find d.flights f = some z →
      (d.expired f z = false ∨ d.linkFirst s f = true → exec (.commandTimeout f dt) s = s.gives d) ∧
      (d.expired f z = true → d.linkFirst s f = false →
        exec (.commandTimeout f dt) s = s.gives ((d.timeoutStream z).failFlight f .timeout)) ∧
      (d.expired f z = true → d.linkFirst s f = false → SlotFree s.dev z → KV.find s.dev.colls f = none →
        ∃ t a b, exec (.commandTimeout f dt) s = s.gives t ∧ Completed s.dev t f z .timeout a b))

/-! ### Tiles -/

/-- R78, R82, R87 to R89, R102, R154, R158, R170, R180, R213, R370: the instruction at the front of a queue executes, is counted and
leaves its queue; a move, a convolution, a transform, a special function, a normalisation, a softmax and an exchange each
do to the device what their operands name, a source page is the one that its sequence's walk finds, and a source page that a
peer has yet to send is waited for; an entry with a limit of 0 or a tile wholly beyond the bound extents is skipped and does
nothing; and an uncorrectable error of an access ends the run. -/
def Obligations.TilesExecuteAtTheFront : Prop :=
  ∀ (s : State) (f k u : Nat) (e : Env) (t : TI) (o a : Opnd) (mf : MemFault) (d : Dev), s.dev.poison = [] → u < 64 →
    (s.view.env f k u = some e →
      (t.idle = true ∨ (e.opnd t 1 = some o ∧ e.opnd t 2 = some a ∧ o.beyond = true) →
        (e.front u cLoad = some t → exec (.tload f k u mf) s = s.gives (s.view.retireTile f k u)) ∧
        (e.front u cStore = some t → exec (.tstore f k u mf) s = s.gives (s.view.retireTile f k u)) ∧
        (e.front u cMm = some t → exec (.tmm f k u mf) s = s.gives (s.view.retireTile f k u)) ∧
        (e.front u cConv = some t → exec (.tconv f k u mf) s = s.gives (s.view.retireTile f k u)) ∧
        (e.front u cSf = some t → exec (.tsf f k u mf) s = s.gives (s.view.retireTile f k u)) ∧
        (e.front u cNorm = some t → exec (.tnorm f k u mf) s = s.gives (s.view.retireTile f k u)) ∧
        (e.front u cSoft = some t → exec (.tsoft f k u mf) s = s.gives (s.view.retireTile f k u))) ∧
      (t.idle = false → e.opnd t 1 = some o → e.opnd t 2 = some a → o.beyond = false →
        (e.front u cLoad = some t → e.sparse s.view t a = true → exec (.tload f k u mf) s = s.gives (((if e.im.placeOf o.desc = 0 ∧
          e.isAbsent s.view o = false then { s.view with absent := e.mark o :: s.dev.absent } else s.view).account e o TileStatus.zero []).tileDone e f k u)) ∧
        (e.front u cLoad = some t → e.sparse s.view t a = false → a.desc.paged = true → ∀ b q kb, e.pageSeq s.view a = some (b, q, kb) →
          (∀ ad n, s.view.walk q kb a.desc.layer a.desc.branch a.desc.pageIdx e.r.stepNo = .page ad → s.view.memFault s.nv f mf = (d, none) →
            n = (if 0 ≤ kb - Int.ofNat (hFirst (s.view.hdr q)) ∧ kb - Int.ofNat (hFirst (s.view.hdr q)) < Int.ofNat q.maxBlocks then
              rowsOfBlock (hTokens (s.view.hdr q)) a.desc.branch (kb - Int.ofNat (hFirst (s.view.hdr q))).toNat else 256) →
            exec (.tload f k u mf) s = s.gives ((d.moveTile e t o (a.onPage (s.view.hdr q) ad n)).tileDone e f k u)) ∧
          (s.view.walk q kb a.desc.layer a.desc.branch a.desc.pageIdx e.r.stepNo = .wait → hPeers (s.view.hdr q) ≠ 0 →
            exec (.tload f k u mf) s = s.gives (s.view.updRun f (fun r => { r with pageWait := (KV.put r.pageWait (waitKey k u)
              ((List.range (hPeers (s.view.hdr q))).map (fun i => (hPeer (s.view.hdr q) i).2.1))) }))) ∧
          (s.view.walk q kb a.desc.layer a.desc.branch a.desc.pageIdx e.r.stepNo = .stale →
            exec (.tload f k u mf) s = s.gives ((s.view.markStale b).failStep f .staleTable))) ∧
        (e.front u cStore = some t → ∀ st, e.peerFails s.view o = some st → exec (.tstore f k u mf) s = s.gives (s.view.failStep f st)) ∧
        (s.view.memFault s.nv f mf = (d, none) →
          (e.front u cLoad = some t → a.desc.paged = false → exec (.tload f k u mf) s = s.gives ((d.moveTile e t o a).tileDone e f k u)) ∧
          (e.front u cStore = some t → o.desc.paged = false → e.peerFails s.view o = none →
            exec (.tstore f k u mf) s = s.gives ((d.moveTile e t o a).tileDone e f k u)) ∧
          (e.front u cStore = some t → o.desc.paged = true → e.peerFails s.view o = none → exec (.tstore f k u mf) s = s.gives
            (s.view.tileEnd e u (e.pageWrite d o (fun d o m => e.sendMain (d.moveTile e t o a) o.desc m)))) ∧
          (e.front u cConv = some t → ∀ c, e.im.convs[t.param]? = some c →
            exec (.tconv f k u mf) s = s.gives ((d.tconv e t c o a (e.opnd t 3)).tileDone e f k u)) ∧
          (e.front u cSf = some t → exec (.tsf f k u mf) s = s.gives ((d.tsf e t o a).tileDone e f k u)) ∧
          (e.front u cNorm = some t → exec (.tnorm f k u mf) s = s.gives ((d.tnorm e t o a (e.opnd t 3)).tileDone e f k u)) ∧
          (e.front u cSoft = some t → exec (.tsoft f k u mf) s = s.gives ((d.tsoft e t a).tileDone e f k u))) ∧
        (∀ ad, s.view.memFault s.nv f mf = (d, some ad) →
          (e.front u cLoad = some t → a.desc.paged = false → exec (.tload f k u mf) s = s.gives (d.finishMem f ad)) ∧
          (e.front u cStore = some t → e.peerFails s.view o = none → exec (.tstore f k u mf) s = s.gives (d.finishMem f ad)) ∧
          (e.front u cSf = some t → exec (.tsf f k u mf) s = s.gives (d.finishMem f ad)) ∧
          (e.front u cNorm = some t → exec (.tnorm f k u mf) s = s.gives (d.finishMem f ad)) ∧
          (e.front u cSoft = some t → exec (.tsoft f k u mf) s = s.gives (d.finishMem f ad)))) ∧
      (t.idle = false → e.front u cXch = some t → ∀ x own e2, e.im.desc? (e.subst (opDesc t.i1)) = some x → e.opnd t 2 = some own →
        e.other (fld t.i3 21 5) (fld t.i3 26 6) = some e2 →
        (e.xchBeyond t own = true → exec (.txch f k u mf) s = s.gives (s.view.retireTile f k u)) ∧
        (e.xchBeyond t own = false → s.view.memFault s.nv f mf = (d, none) →
          exec (.txch f k u mf) s = s.gives ((d.txch e e2 t x own).tileDone e f k u)))) ∧
    (s.view.env f k fftUnit = some e → e.front fftUnit cFft = some t → t.idle = false → e.opnd t 1 = some o → e.opnd t 2 = some a →
      ∀ c, e.im.convs[t.param]? = some c →
        (e.fftBeyond t c o a = true → exec (.tfft f k mf) s = s.gives (s.view.retireTile f k fftUnit)) ∧
        (e.fftBeyond t c o a = false → s.view.memFault s.nv f mf = (d, none) →
          exec (.tfft f k mf) s = s.gives (((d.tfft e t c o a (e.opnd t 3)).countTile e).retireTile f k fftUnit)))

/-- R82, R88, R104, R108, R368: a TMM adds the blocks of its two sources to each element of its tile's box, starting from zero unless
ACC is set outside a TBATCH, keeps the other elements of an accumulator that it does not clear, and without OUT writes no byte;
an exact sum does not depend on the order in which its blocks enter; and rounding to nearest leaves at most
half a unit, a tie on the even neighbour. -/
def Obligations.AccumulatorsSumTheirBlocks : Prop :=
  (∀ (s : State) (f k u : Nat) (e : Env) (t : TI) (c a b : Opnd), s.dev.poison = [] → u < 64 → s.view.env f k u = some e →
    e.front u cMm = some t → t.idle = false → e.opnd t 1 = some c → e.opnd t 2 = some a → e.opnd t 3 = some b → c.beyond = false →
    c.size.getD 0 0 ≤ 128 → c.size.getD 1 0 ≤ 128 → e.isAbsent s.view a = false → e.isAbsent s.view b = false →
    ∃ d : Dev, exec (.tmm f k u .none) s = s.gives (d.tileDone e f k u) ∧
      (∀ m n, m < c.size.getD 1 0 → n < c.size.getD 0 0 →
        KV.getD (e.accumulator d) (accKey m n) AccElem.zero =
          AccElem.addAll (e.r.mode mExact)
            (if t.clears then AccElem.zero else KV.getD (e.accumulator s.view) (accKey m n) AccElem.zero)
            (e.mmBlocks s.view t a b (mmK t a b) n m)) ∧
      (∀ i, (∀ m n, m < c.size.getD 1 0 → n < c.size.getD 0 0 → i ≠ accKey m n) →
        KV.find (e.accumulator d) i = if t.clears then none else KV.find (e.accumulator s.view) i) ∧
      (t.flag 1 = false → d.sram = s.dev.sram ∧ d.hbm = s.dev.hbm ∧ d.host = s.dev.host)) ∧
  (∀ bs cs : List BlockIn, List.Perm bs cs →
    (AccElem.zero.addAll true bs).result true = (AccElem.zero.addAll true cs).result true) ∧
  (∀ draw n r dd : Nat, r < dd →
    2 * (roundN 0 draw n r dd * dd) ≤ 2 * (n * dd + r) + dd ∧ 2 * (n * dd + r) ≤ 2 * (roundN 0 draw n r dd * dd) + dd ∧
    (2 * r = dd → roundN 0 draw n r dd % 2 = 0) ∧ roundN 1 draw n r dd = n ∧
    (roundN 2 draw n r dd = if r ≠ 0 ∧ draw < 65536 * r / dd then n + 1 else n))

/-- R80, R84, R86, R91: a TSIG raises its counter once the writes before it are answered, one with ALL once the shed's queues are
empty, and one with STEP marks the step's end; a TWAIT passes once its counter has reached the threshold and
waits till then; a TBATCH issues the entries of a list whose CRC is still the one of the check, and ends the run
with ST_STALE_TABLE otherwise; a TCHAIN makes the next PARAM instructions of its core a chain. -/
def Obligations.ControlInstructionsSteer : Prop :=
  ∀ (s : State) (f k : Nat) (e : Env) (t : TI),
    (s.view.env f k 0 = some e → e.standsAt k cWait t →
      (t.i2 ≤ KV.getD e.x.counters (fld t.i1 8 8) 0 →
        (e.x.waiting = false → exec (.twait f k) s = s.gives (s.view.ctrlNext e id)) ∧
        (e.x.waiting = true → exec (.twaitRelease f k) s = s.gives (s.view.ctrlNext e (fun x => { x with waiting := false })))) ∧
      (KV.getD e.x.counters (fld t.i1 8 8) 0 < t.i2 →
        (e.x.waiting = false → exec (.twait f k) s = s.gives (s.view.updShedRun f k (fun x => { x with waiting := true }))) ∧
        exec (.twaitRelease f k) s = s.gives s.view)) ∧
    (s.view.env f k 0 = some e → e.standsAt k cBatch t → ∀ z mf d, z = e.listBytes s.view t →
      (s.view.memFault s.nv f mf = (d, none) → d.poison = [] →
        (KV.find e.r.lists (listKey k t (batchCount t e.pv)) = some (crc32c z.2) →
          exec (.tbatch f k mf) s = s.gives ((d.updShedRun f k (fun x => { x with batch := some (0, batchEntries z.2) })).pumpRun f)) ∧
        (KV.find e.r.lists (listKey k t (batchCount t e.pv)) ≠ some (crc32c z.2) →
          exec (.tbatch f k mf) s = s.gives (d.failStep f .staleTable))) ∧
      (∀ ad, s.view.memFault s.nv f mf = (d, some ad) → exec (.tbatch f k mf) s = s.gives (d.finishMem f ad))) ∧
    (s.view.env f k 0 = some e → e.standsAt k cSig t →
      (t.flag 1 = true → exec (.tsig f k none) s = s.gives (s.view.ctrlNext e (fun x => { x with markers := x.markers + 1 }))) ∧
      (t.flag 1 = false → e.x.drained = false ∨ e.writesOpen s.view (t.flag 0) = true → exec (.tsig f k none) s = s.gives s.view) ∧
      (t.flag 1 = false → e.x.drained = true → e.writesOpen s.view (t.flag 0) = false → t.flag 2 = false →
        exec (.tsig f k none) s = s.gives ((s.view.updRun f (fun r => r.signal (fld t.i1 16 5) (fld t.i1 8 8) t.i2)).ctrlNext e id)) ∧
      (t.flag 1 = false → e.x.drained = true → e.writesOpen s.view (t.flag 0) = false → t.flag 2 = true → ∀ d,
        s.view.send (some f) 0 (signalPkt e t) = (d, none) → exec (.tsig f k none) s = s.gives (d.ctrlNext e id))) ∧
    (∀ c, c < 64 → s.view.env f k c = some e →
      (e.front c cSig = some t → e.writesOpen s.view (t.flag 0) = true → exec (.tsig f k (some c)) s = s.gives s.view) ∧
      (e.front c cSig = some t → e.writesOpen s.view (t.flag 0) = false →
        (t.flag 2 = false → exec (.tsig f k (some c)) s = s.gives
          ((s.view.updRun f (fun r => r.signal (fld t.i1 16 5) (fld t.i1 8 8) t.i2)).retireTile f k c)) ∧
        (t.flag 2 = true → ∀ d, s.view.send (some f) 0 (signalPkt e t) = (d, none) →
          exec (.tsig f k (some c)) s = s.gives (d.retireTile f k c)) ∧
        (t.flag 2 = true → ∀ d st, s.view.send (some f) 0 (signalPkt e t) = (d, some st) →
          exec (.tsig f k (some c)) s = s.gives (d.failFlight f st))) ∧
      (e.front c cChain = some t → exec (.tchain f k c) s = s.gives ((s.view.updShedRun f k (fun x =>
        { x.dequeue c with chain := KV.put (x.dequeue c).chain c t.param })).pumpRun f)))

/-! ### Ethernet -/

/-- R337 to R341: an RDMA WRITE inside its paddock's map under the right key lands whole and is acknowledged, and no other byte
changes; a READ answers the bytes, but not of a poisoned word; outside the map or under another key both are refused, a SEND always is, and
in ERROR every request is; a congestion notification never raises the rate; a pause frame stops its priority for
the time it names (PRESUMED, log 33); a frame of another protocol is counted and dropped. -/
def Obligations.EthernetRequestsAreServed : Prop :=
  ∀ (s : State) (qp rkey a n p prio : Nat) (data : List Byte) (q : Qp),
    (s.dev.boot.ready = false ∨ s.dev.devPower = .standby → ∀ c, c ∈ [Instr.rdmaWriteIn qp rkey a data, .rdmaReadIn qp rkey a n,
      .rdmaSendIn qp, .cnpIn qp, .pfcFrameIn p prio n, .ethFrameDiscard p] → exec c s = s.gives s.view) ∧
    (s.dev.boot.ready = true → s.dev.devPower ≠ .standby →
      (KV.find s.dev.qps qp = some q →
        (q.error = true → ∀ c, c ∈ [Instr.rdmaWriteIn qp rkey a data, .rdmaReadIn qp rkey a n, .rdmaSendIn qp] →
          exec c s = s.gives (s.view.endRest.sendEth (.nakOperational qp))) ∧
        (q.error = false → exec (.rdmaSendIn qp) s = s.gives (s.view.endRest.sendEth (.nakInvalid qp))) ∧
        (q.error = false → s.view.rdmaBad q rkey a data.length = true →
          exec (.rdmaWriteIn qp rkey a data) s = s.gives (s.view.endRest.sendEth (.nakAccess qp))) ∧
        (q.error = false → s.view.rdmaBad q rkey a data.length = false → ∃ t, exec (.rdmaWriteIn qp rkey a data) s = s.gives t ∧
          t.out.eth = [.ack qp] ∧ t.hbm.reads a data.length = data ∧ (∀ b, b < a ∨ a + data.length ≤ b → t.hbm.read b = s.dev.hbm.read b) ∧
          t.queues = s.dev.queues ∧ t.flights = s.dev.flights ∧ t.host = s.dev.host) ∧
        (q.error = false → s.view.rdmaBad q rkey a n = true →
          exec (.rdmaReadIn qp rkey a n) s = s.gives (s.view.endRest.sendEth (.nakAccess qp))) ∧
        (q.error = false → s.view.rdmaBad q rkey a n = false → s.view.poisoned a n ≠ none →
          exec (.rdmaReadIn qp rkey a n) s = s.gives (s.view.endRest.sendEth (.nakOperational qp))) ∧
        (q.error = false → s.view.rdmaBad q rkey a n = false → s.view.poisoned a n = none →
          exec (.rdmaReadIn qp rkey a n) s = s.gives (s.view.endRest.sendEth (.readResp qp (s.dev.hbm.reads a n)))) ∧
        (∃ r, r ≤ q.rate ∧ exec (.cnpIn qp) s = s.gives { s.view.endRest with qps := KV.put s.dev.qps qp { q with rate := r } })) ∧
      (KV.find s.dev.qps qp = none → ∀ c, c ∈ [Instr.rdmaWriteIn qp rkey a data, .rdmaReadIn qp rkey a n, .rdmaSendIn qp, .cnpIn qp] →
        exec c s = s.gives s.view) ∧
      (exec (.pfcFrameIn p prio n) s = s.gives { s.view with eth := KV.put s.dev.eth p { KV.getD s.dev.eth p EthPort.blank with
        paused := KV.put (KV.getD s.dev.eth p EthPort.blank).paused (prio % 8) (s.dev.now + ceilDiv (n * 512) 800) } }) ∧
      (exec (.ethFrameDiscard p) s = s.gives { s.view.endRest with eth := KV.put s.dev.eth p { KV.getD s.dev.eth p EthPort.blank with
        discarded := (KV.getD s.dev.eth p EthPort.blank).discarded + 1 } }))

/-! ### Paddocks -/

/-- R26, R281, R284 to R288, R323: PADDOCK_CREATE gives the paddock what the command asks for, IN when it is the first of its set, and clears
its sheds then, and with room in the context store of its own when it joins a set; a refused one changes nothing; PADDOCK_DESTROY and PADDOCK_RESET take what the paddock's
commands made, and wait for a started switch and for the picture that an engine works on (R210). A switch starts at once when
nothing runs, saves the outgoing contents, or waits for the step's end; 10 ms IN end an ordinary member's turn; at its end,
once its sheds run, the incoming member is IN. -/
def Obligations.PaddocksShareSheds : Prop :=
  ∀ (s : State) (f mask dt : Nat) (x : Flight),
    (Runs s f 0x04 x → SlotFree s.dev x →
      (∀ cls, x.cls = some cls → createBad s.nv s.view x = false → ∃ t, exec (.paddockCreate f) s = s.gives t ∧
        Completed s.dev t f x .ok (shedsOf (x.w 3)).length (s.nv.dedicatedChans (x.newPad cls 0 true)) ∧
        (∃ l, t.pad x.paddock = some { x.newPad cls s.dev.now (s.view.setOf (x.w 3)).isEmpty with ctxSlots := l } ∧
          ((s.view.setOf (x.w 3)).isEmpty = true → l = []) ∧
          ((s.view.setOf (x.w 3)).isEmpty = false → l.length = (shedsOf (x.w 3)).length ∧ ∀ i ∈ l, i ∉ s.view.ctxHeld)) ∧
        t.hbm = s.dev.hbm ∧ ((s.view.setOf (x.w 3)).isEmpty = true → ∀ c ∈ t.sram, ∀ h ∈ shedsOf (x.w 3), inShed h c.1 = false)) ∧
      (x.cls = none ∨ createBad s.nv s.view x = true →
        ∃ t, exec (.paddockCreate f) s = s.gives t ∧ Completed s.dev t f x .badParam 0 0 ∧ Dev.Keeps s.dev t)) ∧
    (∀ p, s.dev.pad x.paddock = some p →
      (s.view.switchHolds p.shedMask = true → (Runs s f 0x05 x → exec (.paddockDestroy f) s = s.gives s.view) ∧
        (Runs s f 0xF1 x → exec (.paddockReset f) s = s.gives s.view)) ∧
      (s.view.switchHolds p.shedMask = false → s.view.picturesPend (fun q => q.paddock == x.paddock) = true → ∀ t,
        t = s.view.markClosing f (fun q => q.paddock == x.paddock) →
        (Runs s f 0x05 x → exec (.paddockDestroy f) s = s.gives t) ∧ (Runs s f 0xF1 x → exec (.paddockReset f) s = s.gives t)) ∧
      (s.view.switchHolds p.shedMask = false → s.view.picturesPend (fun q => q.paddock == x.paddock) = false → ∀ z, z = s.view.teardownPad x.paddock f p →
        (Runs s f 0x05 x → exec (.paddockDestroy f) s = s.gives
          (Dev.finish { z.1 with pads := KV.del z.1.pads x.paddock, restSince := z.1.now } f .ok z.2.1 z.2.2)) ∧
        (Runs s f 0xF1 x → exec (.paddockReset f) s = s.gives
          ((((z.1.setPool x.paddock (fun q => { q with refs := [], swapUsed := [] })).postP evSettingsDefaulted x.paddock 2 [0x0078, 0]).postP
            evResetDone x.paddock 2 [z.2.1, 0, 0]).finish f .ok z.2.1 0)))) ∧
    (∀ (d : Dev) pad, (∀ k p, KV.find (d.dropMade pad).plans k = some p → p.paddock ≠ pad) ∧
      (∀ k g, KV.find (d.dropMade pad).groups k = some g → g.paddock ≠ pad) ∧
      (∀ k h, KV.find (d.dropMade pad).streams k = some h → h.paddock ≠ pad) ∧
      (∀ k q, KV.find (d.dropMade pad).qps k = some q → q.paddock = pad → q.error = true)) ∧
    (KV.find s.dev.switches mask = none →
      (s.view.incoming mask (s.view.inOf mask) = none → exec (.paddockSwitch mask) s = s.gives s.view) ∧
      (∀ i o, s.view.inOf mask = some o → s.view.incoming mask (some o) = some i →
        (s.view.demand o = true → s.view.isCls i .reserved = false ∨ s.view.isCls o .reserved = true →
          exec (.paddockSwitch mask) s = s.gives s.view) ∧
        (s.view.demand o = false ∨ (s.view.isCls i .reserved = true ∧ s.view.isCls o .reserved = false) →
          (s.view.activeRun o = none → ∃ t, exec (.paddockSwitch mask) s = s.gives t ∧
            KV.find t.switches mask = some { outgoing := some o, incoming := i, since := s.dev.now, started := true } ∧
            ∀ p, s.dev.pad o = some p → p.shedMask = mask →
              KV.find t.saved o = some (s.view.contents (s.view.coreMap s.nv o) mask) ∧ t.pad o = some { p with isIn := false }) ∧
          (∀ id r p, s.view.activeRun o = some (id, r) → r.stepOn = false → s.view.runPlan r = some p →
            exec (.paddockSwitch mask) s = s.gives ((if s.view.coupled r p then s.view.failFlight id .preempted
              else s.view.updRun id (fun r => { r with suspended := true })).switchGo s.nv mask (some o) i)) ∧
          (∀ id r, s.view.activeRun o = some (id, r) → r.stepOn = true → ∃ t, exec (.paddockSwitch mask) s = s.gives t ∧
            KV.find t.switches mask = some { outgoing := some o, incoming := i, since := s.dev.now, started := false } ∧
            t.pads = s.dev.pads ∧ t.saved = s.dev.saved)))) ∧
    (∀ o i, s.view.inOf mask = some o → (s.view.advance dt).incoming mask (some o) = some i →
      (∀ p, s.dev.pad o = some p → s.dev.now + dt < p.inSince + 10000000 →
        exec (.paddockTurnExpiry mask dt) s = s.gives (s.view.advance dt)) ∧
      (∀ p, s.dev.pad o = some p → p.cls = .ordinary → p.inSince + 10000000 ≤ s.dev.now + dt → s.dev.runs = [] →
        KV.find s.dev.switches mask = none → s.view.isCls i .ordinary = true → (s.view.advance dt).demand i = true → i ≠ o →
        (s.view.setOf mask).contains i = true →
        ∃ t, exec (.paddockTurnExpiry mask dt) s = s.gives t ∧
          KV.find t.switches mask = some { outgoing := some o, incoming := i, since := s.dev.now + dt, started := true })) ∧
    (∀ w, KV.find s.dev.switches mask = some w →
      (w.started = false → exec (.paddockSwitchDone mask) s = s.gives s.view) ∧
      (∀ h ∈ shedsOf mask, s.nv.inService h = true → (s.dev.shed h).power ≠ .run → exec (.paddockSwitchDone mask) s = s.gives s.view) ∧
      (w.started = true → (∀ h ∈ shedsOf mask, s.nv.inService h = true → (s.dev.shed h).power = .run) → s.dev.runs = [] → ∀ p, s.dev.pad w.incoming = some p → ∃ t, exec (.paddockSwitchDone mask) s = s.gives t ∧
        KV.find t.switches mask = none ∧ KV.find t.saved w.incoming = none ∧
        t.pad w.incoming = some { p with isIn := true, inSince := s.dev.now }))

/-! ### What rows leave alone -/

/-- R227, R312, R315, R344: no row but those that the spec gives such an effect changes the non-volatile area or the Hayloft, and no
row takes or adds a waiting command. -/
def Obligations.OnlyTheirRowsWriteTheLastingStores : Prop :=
  ∀ (c : Instr) (s t : State), exec c s = .next t →
    (writesNv c = false → t.nv = s.nv) ∧ (writesHay c = false → t.hay = s.hay) ∧ t.pending = s.pending
end

