-- ==== Sys2Proof/Laws/Bits.lean ====
section
/-! SUPPORT. Laws of keyed tables, byte memories and little-endian numbers. -/
namespace Sys2Proof.Machine
open Sys2Proof

/-! ### Keyed tables: reading back -/

theorem KV.find_put_same {α : Type} (t : KV α) (i : Nat) (a : α) : KV.find (KV.put t i a) i = some a := by
  induction t with
  | nil => simp [KV.put, KV.find]
  | cons e t ih =>
    obtain ⟨k, v⟩ := e
    simp only [KV.put]
    split
    · simp [KV.find]
    · split
      · simp [KV.find]
      · rename_i h1 h2
        simp only [KV.find]
        rw [if_neg (fun h => h2 h.symm)]
        exact ih

theorem KV.find_put_other {α : Type} (t : KV α) {i j : Nat} (a : α) (h : j ≠ i) : KV.find (KV.put t i a) j = KV.find t j := by
  induction t with
  | nil => simp [KV.put, KV.find, h.symm]
  | cons e t ih =>
    obtain ⟨k, v⟩ := e
    simp only [KV.put]
    split
    · simp [KV.find, h.symm]
    · split
      · rename_i h1 h2
        subst h2
        simp [KV.find, h.symm]
      · simp only [KV.find]
        split
        · rfl
        · exact ih

@[simp] theorem KV.getD_put_same {α : Type} (t : KV α) (i : Nat) (a d : α) : KV.getD (KV.put t i a) i d = a := by
  simp [KV.getD, KV.find_put_same]

theorem KV.getD_put_other {α : Type} (t : KV α) {i j : Nat} (a d : α) (h : j ≠ i) : KV.getD (KV.put t i a) j d = KV.getD t j d := by
  simp [KV.getD, KV.find_put_other t a h]

theorem KV.has_put {α : Type} (t : KV α) (i j : Nat) (a : α) (h : KV.has t j = true) : KV.has (KV.put t i a) j = true := by
  by_cases e : j = i
  · subst e; simp [KV.has, KV.find_put_same]
  · simpa [KV.has, KV.find_put_other t a e] using h

theorem KV.find_del_same {α : Type} (t : KV α) (i : Nat) : KV.find (KV.del t i) i = none := by
  induction t with
  | nil => rfl
  | cons e t ih =>
    obtain ⟨k, v⟩ := e
    by_cases h : k = i
    · simpa [KV.del, h] using ih
    · have : KV.del ((k, v) :: t) i = (k, v) :: KV.del t i := by simp [KV.del, h]
      rw [this]; simp [KV.find, h, ih]

theorem KV.find_del_other {α : Type} (t : KV α) {i j : Nat} (h : j ≠ i) : KV.find (KV.del t i) j = KV.find t j := by
  induction t with
  | nil => rfl
  | cons e t ih =>
    obtain ⟨k, v⟩ := e
    by_cases hk : k = i
    · have : KV.del ((k, v) :: t) i = KV.del t i := by simp [KV.del, hk]
      rw [this, ih]; subst hk; simp [KV.find, h.symm]
    · have : KV.del ((k, v) :: t) i = (k, v) :: KV.del t i := by simp [KV.del, hk]
      rw [this]; simp only [KV.find]; split <;> simp_all

theorem KV.find_upd_same {α : Type} (t : KV α) (i : Nat) (f : α → α) : KV.find (KV.upd t i f) i = (KV.find t i).map f := by
  induction t with
  | nil => rfl
  | cons e t ih =>
    obtain ⟨k, v⟩ := e
    simp only [KV.upd]
    split
    · simp [KV.find, *]
    · simp [KV.find, *]

theorem KV.find_upd_other {α : Type} (t : KV α) {i j : Nat} (f : α → α) (h : j ≠ i) : KV.find (KV.upd t i f) j = KV.find t j := by
  induction t with
  | nil => rfl
  | cons e t ih =>
    obtain ⟨k, v⟩ := e
    simp only [KV.upd]
    split
    · rename_i hk; subst hk; simp [KV.find, h.symm]
    · simp only [KV.find]; split <;> simp_all

theorem KV.find_mapV {α : Type} (t : KV α) (f : Nat → α → α) (i : Nat) : KV.find (KV.mapV t f) i = (KV.find t i).map (f i) := by
  induction t with
  | nil => rfl
  | cons e t ih =>
    obtain ⟨k, v⟩ := e
    show KV.find ((k, f k v) :: KV.mapV t f) i = _
    simp only [KV.find]
    split
    · rename_i h; subst h; rfl
    · exact ih

/-! ### Keyed tables: rising keys -/

/-- Every key of the table is above `a`. -/
def KV.above {α : Type} (a : Nat) (t : KV α) : Prop := ∀ e ∈ t, a < e.1

theorem KV.sorted_cons {α : Type} (e : Nat × α) (t : KV α) : KV.sorted (e :: t) = true ↔ KV.above e.1 t ∧ KV.sorted t = true := by
  induction t generalizing e with
  | nil => simp [KV.sorted, KV.above]
  | cons x t ih =>
    obtain ⟨k, v⟩ := e
    obtain ⟨l, w⟩ := x
    simp only [KV.sorted, Bool.and_eq_true, decide_eq_true_eq]
    constructor
    · rintro ⟨h, hs⟩
      refine ⟨?_, hs⟩
      intro y hy
      rcases List.mem_cons.1 hy with rfl | hy
      · exact h
      · exact Nat.lt_trans h (((ih (l, w)).1 hs).1 y hy)
    · rintro ⟨h, hs⟩
      exact ⟨h (l, w) (by simp), hs⟩

theorem KV.above_put {α : Type} {b i : Nat} {t : KV α} (a : α) (h : KV.above b t) (hi : b < i) : KV.above b (KV.put t i a) := by
  induction t with
  | nil => intro e he; simp [KV.put] at he; subst he; exact hi
  | cons x t ih =>
    obtain ⟨k, v⟩ := x
    have ht : KV.above b t := fun e he => h e (List.mem_cons_of_mem _ he)
    have hk : b < k := h (k, v) (by simp)
    simp only [KV.put]
    split
    · intro e he; rcases List.mem_cons.1 he with rfl | he
      · exact hi
      · exact h e he
    · split
      · intro e he; rcases List.mem_cons.1 he with rfl | he
        · exact hi
        · exact ht e he
      · intro e he; rcases List.mem_cons.1 he with rfl | he
        · exact hk
        · exact ih ht e he

theorem KV.sorted_put {α : Type} (t : KV α) (i : Nat) (a : α) (h : KV.sorted t = true) : KV.sorted (KV.put t i a) = true := by
  induction t with
  | nil => rfl
  | cons x t ih =>
    obtain ⟨k, v⟩ := x
    obtain ⟨hk, ht⟩ := (KV.sorted_cons _ _).1 h
    simp only [KV.put]
    split
    · rename_i hik
      refine (KV.sorted_cons _ _).2 ⟨?_, h⟩
      intro e he; rcases List.mem_cons.1 he with rfl | he
      · exact hik
      · exact Nat.lt_trans hik (hk e he)
    · split
      · rename_i hik; subst hik; exact (KV.sorted_cons _ _).2 ⟨hk, ht⟩
      · rename_i h1 h2
        exact (KV.sorted_cons _ _).2 ⟨KV.above_put a hk (Nat.lt_of_le_of_ne (Nat.le_of_not_lt h1) (fun e => h2 e.symm)), ih ht⟩

theorem KV.sorted_filter {α : Type} (t : KV α) (p : Nat × α → Bool) (h : KV.sorted t = true) : KV.sorted (t.filter p : KV α) = true := by
  induction t with
  | nil => rfl
  | cons x t ih =>
    obtain ⟨hk, ht⟩ := (KV.sorted_cons _ _).1 h
    by_cases hp : p x = true
    · rw [List.filter_cons_of_pos hp]
      exact (KV.sorted_cons _ _).2 ⟨fun e he => hk e (List.mem_filter.1 he).1, ih ht⟩
    · rw [List.filter_cons_of_neg hp]; exact ih ht

/-! ### Byte memories: reading back -/

theorem Memory.read_filter_same (m : Memory) (a : Nat) : Memory.read (m.filter (fun c => c.1 != a)) a = Memory.blank := by
  induction m with
  | nil => rfl
  | cons e t ih =>
    obtain ⟨k, v⟩ := e
    by_cases h : k = a
    · simpa [h] using ih
    · simp [h, Memory.read, ih]

theorem Memory.read_filter_other (m : Memory) {a c : Nat} (h : c ≠ a) : Memory.read (m.filter (fun x => x.1 != a)) c = m.read c := by
  induction m with
  | nil => rfl
  | cons e t ih =>
    obtain ⟨k, v⟩ := e
    by_cases hk : k = a
    · subst hk; simpa [Memory.read, h.symm] using ih
    · simp only [bne_iff_ne, ne_eq, hk, not_false_eq_true, List.filter_cons_of_pos, Memory.read]
      split
      · rfl
      · exact ih

theorem Memory.read_insert_same (m : Memory) (a : Nat) (b : Byte) : (m.insert a b).read a = b := by
  induction m with
  | nil => simp [Memory.insert, Memory.read]
  | cons e t ih =>
    obtain ⟨k, v⟩ := e
    simp only [Memory.insert]
    split
    · simp [Memory.read]
    · split
      · simp [Memory.read]
      · rename_i h1 h2
        simp only [Memory.read]
        rw [if_neg (fun h => h2 h.symm)]
        exact ih

theorem Memory.read_insert_other (m : Memory) {a c : Nat} (b : Byte) (h : c ≠ a) : (m.insert a b).read c = m.read c := by
  induction m with
  | nil => simp [Memory.insert, Memory.read, h.symm]
  | cons e t ih =>
    obtain ⟨k, v⟩ := e
    simp only [Memory.insert]
    split
    · simp [Memory.read, h.symm]
    · split
      · rename_i h1 h2
        subst h2
        simp [Memory.read, h.symm]
      · simp only [Memory.read]
        split
        · rfl
        · exact ih

/-- A byte written reads back. -/
theorem Memory.read_write_same (m : Memory) (a : Nat) (b : Byte) : (m.write a b).read a = b := by
  unfold Memory.write
  split
  · rename_i hb
    split
    · rename_i hr; rw [hr, hb]
    · rw [Memory.read_filter_same, hb]
  · exact Memory.read_insert_same m a b

/-- A write leaves every other byte alone. -/
theorem Memory.read_write_other (m : Memory) {a c : Nat} (b : Byte) (h : c ≠ a) : (m.write a b).read c = m.read c := by
  unfold Memory.write
  split
  · split
    · rfl
    · exact Memory.read_filter_other m h
  · exact Memory.read_insert_other m b h

theorem Memory.read_writes_below (bs : List Byte) : ∀ (m : Memory) (a c : Nat), c < a → (m.writes a bs).read c = m.read c := by
  induction bs with
  | nil => intros; rfl
  | cons b bs ih =>
    intro m a c h
    rw [Memory.writes, ih _ _ _ (Nat.lt_succ_of_lt h), Memory.read_write_other _ _ (Nat.ne_of_lt h)]

/-- Bytes outside a written range stay. -/
theorem Memory.read_writes_outside (bs : List Byte) : ∀ (m : Memory) (a c : Nat), c < a ∨ a + bs.length ≤ c → (m.writes a bs).read c = m.read c := by
  induction bs with
  | nil => intros; rfl
  | cons b bs ih =>
    intro m a c h
    have hl : (b :: bs).length = bs.length + 1 := rfl
    rw [Memory.writes, ih _ _ _ (by omega), Memory.read_write_other _ _ (by omega)]

/-- A written range reads back. -/
theorem Memory.reads_writes (bs : List Byte) : ∀ (m : Memory) (a : Nat), (m.writes a bs).reads a bs.length = bs := by
  induction bs with
  | nil => intros; rfl
  | cons b bs ih =>
    intro m a
    show (Memory.writes (m.write a b) (a + 1) bs).read a :: (Memory.writes (m.write a b) (a + 1) bs).reads (a + 1) bs.length = b :: bs
    rw [Memory.read_writes_below _ _ _ _ (Nat.lt_succ_self a), Memory.read_write_same, ih]

theorem Memory.reads_add (m : Memory) (n : Nat) : ∀ (a k : Nat), m.reads a (k + n) = m.reads a k ++ m.reads (a + k) n := by
  intro a k
  induction k generalizing a with
  | zero => simp [Memory.reads]
  | succ k ih =>
    rw [show k + 1 + n = (k + n) + 1 by omega]
    simp only [Memory.reads, List.cons_append]
    rw [ih, show a + 1 + k = a + (k + 1) by omega]

theorem Memory.length_reads (m : Memory) : ∀ (n a : Nat), (m.reads a n).length = n := by
  intro n
  induction n with
  | zero => intro; rfl
  | succ n ih => intro a; simp [Memory.reads, ih]

/-- Part of a written range reads back. -/
theorem Memory.reads_writes_part (m : Memory) (a : Nat) (bs : List Byte) (k n : Nat) (h : k + n ≤ bs.length) :
    (m.writes a bs).reads (a + k) n = (bs.drop k).take n := by
  have hw := Memory.reads_writes bs m a
  have h1 : bs.length = k + (n + (bs.length - (k + n))) := by omega
  rw [h1, Memory.reads_add, Memory.reads_add] at hw
  have hk := Memory.length_reads (m.writes a bs) k a
  have hn := Memory.length_reads (m.writes a bs) n (a + k)
  conv => rhs; rw [← hw]
  rw [List.drop_append_of_le_length (by omega), List.drop_of_length_le (by omega), List.nil_append,
    List.take_append_of_le_length (by omega), List.take_of_length_le (by omega)]

/-! ### Byte memories: the canonical form -/

theorem Memory.wf_cons (e : Host.Cell) (t : Memory) :
    Memory.wf (e :: t) = true ↔ e.2 ≠ Memory.blank ∧ (∀ x ∈ t, e.1 < x.1) ∧ Memory.wf t = true := by
  induction t generalizing e with
  | nil => obtain ⟨a, v⟩ := e; simp [Memory.wf]
  | cons x t ih =>
    obtain ⟨a, v⟩ := e
    obtain ⟨b, w⟩ := x
    simp only [Memory.wf, Bool.and_eq_true, decide_eq_true_eq, bne_iff_ne, ne_eq]
    constructor
    · rintro ⟨⟨hv, hab⟩, hs⟩
      refine ⟨hv, ?_, hs⟩
      intro y hy
      rcases List.mem_cons.1 hy with rfl | hy
      · exact hab
      · exact Nat.lt_trans hab (((ih (b, w)).1 hs).2.1 y hy)
    · rintro ⟨hv, hab, hs⟩
      exact ⟨⟨hv, hab (b, w) (by simp)⟩, hs⟩

theorem Memory.wf_filter (m : Memory) (p : Host.Cell → Bool) (h : m.wf = true) : Memory.wf (m.filter p) = true := by
  induction m with
  | nil => rfl
  | cons x t ih =>
    obtain ⟨hv, hk, ht⟩ := (Memory.wf_cons _ _).1 h
    by_cases hp : p x = true
    · rw [List.filter_cons_of_pos hp]
      exact (Memory.wf_cons _ _).2 ⟨hv, fun e he => hk e (List.mem_filter.1 he).1, ih ht⟩
    · rw [List.filter_cons_of_neg hp]; exact ih ht

theorem Memory.insert_above {m : Memory} {c a : Nat} (b : Byte) (h : ∀ x ∈ m, c < x.1) (ha : c < a) : ∀ x ∈ m.insert a b, c < x.1 := by
  induction m with
  | nil => intro x hx; simp [Memory.insert] at hx; subst hx; exact ha
  | cons e t ih =>
    obtain ⟨k, v⟩ := e
    simp only [Memory.insert]
    split
    · intro x hx
      rcases List.mem_cons.1 hx with rfl | hx
      · exact ha
      · exact h x hx
    · split
      · intro x hx
        rcases List.mem_cons.1 hx with rfl | hx
        · exact ha
        · exact h x (List.mem_cons_of_mem _ hx)
      · intro x hx
        rcases List.mem_cons.1 hx with rfl | hx
        · exact h (k, v) (by simp)
        · exact ih (fun y hy => h y (List.mem_cons_of_mem _ hy)) x hx

theorem Memory.wf_insert (m : Memory) (a : Nat) (b : Byte) (hb : b ≠ Memory.blank) (h : m.wf = true) : Memory.wf (m.insert a b) = true := by
  induction m with
  | nil => simp [Memory.insert, Memory.wf, hb]
  | cons e t ih =>
    obtain ⟨k, v⟩ := e
    obtain ⟨hv, hk, ht⟩ := (Memory.wf_cons _ _).1 h
    simp only [Memory.insert]
    split
    · rename_i hak
      refine (Memory.wf_cons _ _).2 ⟨hb, ?_, h⟩
      intro x hx
      rcases List.mem_cons.1 hx with rfl | hx
      · exact hak
      · exact Nat.lt_trans hak (hk x hx)
    · split
      · rename_i hak; subst hak; exact (Memory.wf_cons _ _).2 ⟨hb, hk, ht⟩
      · rename_i h1 h2
        exact (Memory.wf_cons _ _).2 ⟨hv, Memory.insert_above b hk (Nat.lt_of_le_of_ne (Nat.le_of_not_lt h1) (fun e => h2 e.symm)), ih ht⟩

/-- Every memory operation keeps the canonical form. -/
theorem Memory.wf_write (m : Memory) (a : Nat) (b : Byte) (h : m.wf = true) : (m.write a b).wf = true := by
  unfold Memory.write
  split
  · split
    · exact h
    · exact Memory.wf_filter m _ h
  · rename_i hb; exact Memory.wf_insert m a b hb h

theorem Memory.wf_writes (bs : List Byte) : ∀ (m : Memory) (a : Nat), m.wf = true → (m.writes a bs).wf = true := by
  induction bs with
  | nil => intro m a h; exact h
  | cons b bs ih => intro m a h; exact ih _ _ (Memory.wf_write m a b h)

theorem Memory.wf_clear (m : Memory) (a n : Nat) (h : m.wf = true) : (m.clear a n).wf = true := Memory.wf_filter m _ h

theorem Memory.wf_writeAll (ws : List Host.Cell) : ∀ (m : Memory), m.wf = true → (m.writeAll ws).wf = true := by
  induction ws with
  | nil => intro m h; exact h
  | cons w ws ih => intro m h; exact ih _ (Memory.wf_write m w.1 w.2 h)

theorem Memory.wf_writeLE (m : Memory) (a n v : Nat) (h : m.wf = true) : (m.writeLE a n v).wf = true := Memory.wf_writes _ _ _ h

/-! ### Little-endian numbers -/

theorem length_bytesLE : ∀ (n v : Nat), (bytesLE n v).length = n := by
  intro n
  induction n with
  | zero => intro; rfl
  | succ n ih => intro v; simp [bytesLE, ih]

/-- R8: the bytes of a number give it back, as far as they reach. -/
theorem natLE_bytesLE : ∀ (n v : Nat), natLE (bytesLE n v) = v % 256 ^ n := by
  intro n
  induction n with
  | zero => intro v; simp [bytesLE, natLE, Nat.mod_one]
  | succ n ih =>
    intro v
    rw [bytesLE, natLE, ih, BitVec.toNat_ofNat, show 256 ^ (n + 1) = 256 * 256 ^ n from Nat.pow_succ', Nat.mod_mul (a := 256)]

theorem Memory.readLE_writeLE (m : Memory) (a n v : Nat) : (m.writeLE a n v).readLE a n = v % 256 ^ n := by
  have h := Memory.reads_writes (bytesLE n v) m a
  rw [length_bytesLE] at h
  rw [Memory.readLE, Memory.writeLE, h, natLE_bytesLE]

end Sys2Proof.Machine
end

