-- ==== Sys2Proof/Laws/State.lean ====
section
/-! SUPPORT. What each named update of the state leaves in each field. -/
namespace Sys2Proof.Machine
open Sys2Proof

/-! ### What a row sees -/

@[simp] theorem State.view_now (s : State) : s.view.now = s.dev.now := rfl
@[simp] theorem State.view_free (s : State) : s.view.free = s.dev.free := rfl
@[simp] theorem State.view_adm (s : State) : s.view.adm = s.dev.adm := rfl
@[simp] theorem State.view_bar2 (s : State) : s.view.bar2 = s.dev.bar2 := rfl
@[simp] theorem State.view_numVfs (s : State) : s.view.numVfs = s.dev.numVfs := rfl
@[simp] theorem State.view_aer (s : State) : s.view.aer = s.dev.aer := rfl
@[simp] theorem State.view_queues (s : State) : s.view.queues = s.dev.queues := rfl
@[simp] theorem State.view_lastServed (s : State) : s.view.lastServed = s.dev.lastServed := rfl
@[simp] theorem State.view_flights (s : State) : s.view.flights = s.dev.flights := rfl
@[simp] theorem State.view_nextFlight (s : State) : s.view.nextFlight = s.dev.nextFlight := rfl
@[simp] theorem State.view_fns (s : State) : s.view.fns = s.dev.fns := rfl
@[simp] theorem State.view_rxMbox (s : State) : s.view.rxMbox = s.dev.rxMbox := rfl
@[simp] theorem State.view_txMbox (s : State) : s.view.txMbox = s.dev.txMbox := rfl
@[simp] theorem State.view_pads (s : State) : s.view.pads = s.dev.pads := rfl
@[simp] theorem State.view_saved (s : State) : s.view.saved = s.dev.saved := rfl
@[simp] theorem State.view_switches (s : State) : s.view.switches = s.dev.switches := rfl
@[simp] theorem State.view_plans (s : State) : s.view.plans = s.dev.plans := rfl
@[simp] theorem State.view_runs (s : State) : s.view.runs = s.dev.runs := rfl
@[simp] theorem State.view_acc (s : State) : s.view.acc = s.dev.acc := rfl
@[simp] theorem State.view_soft (s : State) : s.view.soft = s.dev.soft := rfl
@[simp] theorem State.view_absent (s : State) : s.view.absent = s.dev.absent := rfl
@[simp] theorem State.view_seqs (s : State) : s.view.seqs = s.dev.seqs := rfl
@[simp] theorem State.view_groups (s : State) : s.view.groups = s.dev.groups := rfl
@[simp] theorem State.view_colls (s : State) : s.view.colls = s.dev.colls := rfl
@[simp] theorem State.view_streams (s : State) : s.view.streams = s.dev.streams := rfl
@[simp] theorem State.view_engines (s : State) : s.view.engines = s.dev.engines := rfl
@[simp] theorem State.view_features (s : State) : s.view.features = s.dev.features := rfl
@[simp] theorem State.view_keys (s : State) : s.view.keys = s.dev.keys := rfl
@[simp] theorem State.view_hbm (s : State) : s.view.hbm = s.dev.hbm := rfl
@[simp] theorem State.view_host (s : State) : s.view.host = s.dev.host := rfl
@[simp] theorem State.view_sram (s : State) : s.view.sram = s.dev.sram := rfl
@[simp] theorem State.view_stacks (s : State) : s.view.stackTab = s.dev.stackTab := rfl
@[simp] theorem State.view_chanErr (s : State) : s.view.chanErr = s.dev.chanErr := rfl
@[simp] theorem State.view_poison (s : State) : s.view.poison = s.dev.poison := rfl
@[simp] theorem State.view_link (s : State) : s.view.link = s.dev.link := rfl
@[simp] theorem State.view_ports (s : State) : s.view.ports = s.dev.ports := rfl
@[simp] theorem State.view_route (s : State) : s.view.route = s.dev.route := rfl
@[simp] theorem State.view_routeGen (s : State) : s.view.routeGen = s.dev.routeGen := rfl
@[simp] theorem State.view_sent (s : State) : s.view.sent = s.dev.sent := rfl
@[simp] theorem State.view_outq (s : State) : s.view.outq = s.dev.outq := rfl
@[simp] theorem State.view_sendSeq (s : State) : s.view.sendSeq = s.dev.sendSeq := rfl
@[simp] theorem State.view_recvSeq (s : State) : s.view.recvSeq = s.dev.recvSeq := rfl
@[simp] theorem State.view_gtc (s : State) : s.view.gtc = s.dev.gtc := rfl
@[simp] theorem State.view_dies (s : State) : s.view.dies = s.dev.dies := rfl
@[simp] theorem State.view_sheds (s : State) : s.view.sheds = s.dev.sheds := rfl
@[simp] theorem State.view_supply (s : State) : s.view.supply = s.dev.supply := rfl
@[simp] theorem State.view_pll (s : State) : s.view.pll = s.dev.pll := rfl
@[simp] theorem State.view_devPower (s : State) : s.view.devPower = s.dev.devPower := rfl
@[simp] theorem State.view_restSince (s : State) : s.view.restSince = s.dev.restSince := rfl
@[simp] theorem State.view_cap (s : State) : s.view.cap = s.dev.cap := rfl
@[simp] theorem State.view_capSince (s : State) : s.view.capSince = s.dev.capSince := rfl
@[simp] theorem State.view_capLast (s : State) : s.view.capLast = s.dev.capLast := rfl
@[simp] theorem State.view_fallow (s : State) : s.view.fallow = s.dev.fallow := rfl
@[simp] theorem State.view_cores (s : State) : s.view.cores = s.dev.cores := rfl
@[simp] theorem State.view_eth (s : State) : s.view.eth = s.dev.eth := rfl
@[simp] theorem State.view_qps (s : State) : s.view.qps = s.dev.qps := rfl
@[simp] theorem State.view_i3c (s : State) : s.view.i3c = s.dev.i3c := rfl
@[simp] theorem State.view_jtag (s : State) : s.view.jtag = s.dev.jtag := rfl
@[simp] theorem State.view_boot (s : State) : s.view.boot = s.dev.boot := rfl
@[simp] theorem State.view_out (s : State) : s.view.out = Out.blank := rfl

/-! ### Dev.setFn -/

@[simp] theorem Dev.setFn_now (d : Dev) (n : Nat) (x : Fn) : (d.setFn n x).now = d.now := rfl
@[simp] theorem Dev.setFn_free (d : Dev) (n : Nat) (x : Fn) : (d.setFn n x).free = d.free := rfl
@[simp] theorem Dev.setFn_out (d : Dev) (n : Nat) (x : Fn) : (d.setFn n x).out = d.out := rfl
@[simp] theorem Dev.setFn_adm (d : Dev) (n : Nat) (x : Fn) : (d.setFn n x).adm = d.adm := rfl
@[simp] theorem Dev.setFn_bar2 (d : Dev) (n : Nat) (x : Fn) : (d.setFn n x).bar2 = d.bar2 := rfl
@[simp] theorem Dev.setFn_numVfs (d : Dev) (n : Nat) (x : Fn) : (d.setFn n x).numVfs = d.numVfs := rfl
@[simp] theorem Dev.setFn_aer (d : Dev) (n : Nat) (x : Fn) : (d.setFn n x).aer = d.aer := rfl
@[simp] theorem Dev.setFn_queues (d : Dev) (n : Nat) (x : Fn) : (d.setFn n x).queues = d.queues := rfl
@[simp] theorem Dev.setFn_lastServed (d : Dev) (n : Nat) (x : Fn) : (d.setFn n x).lastServed = d.lastServed := rfl
@[simp] theorem Dev.setFn_flights (d : Dev) (n : Nat) (x : Fn) : (d.setFn n x).flights = d.flights := rfl
@[simp] theorem Dev.setFn_nextFlight (d : Dev) (n : Nat) (x : Fn) : (d.setFn n x).nextFlight = d.nextFlight := rfl
@[simp] theorem Dev.setFn_fns (d : Dev) (n : Nat) (x : Fn) : (d.setFn n x).fns = KV.put d.fns n x := rfl
@[simp] theorem Dev.setFn_rxMbox (d : Dev) (n : Nat) (x : Fn) : (d.setFn n x).rxMbox = d.rxMbox := rfl
@[simp] theorem Dev.setFn_txMbox (d : Dev) (n : Nat) (x : Fn) : (d.setFn n x).txMbox = d.txMbox := rfl
@[simp] theorem Dev.setFn_pads (d : Dev) (n : Nat) (x : Fn) : (d.setFn n x).pads = d.pads := rfl
@[simp] theorem Dev.setFn_saved (d : Dev) (n : Nat) (x : Fn) : (d.setFn n x).saved = d.saved := rfl
@[simp] theorem Dev.setFn_switches (d : Dev) (n : Nat) (x : Fn) : (d.setFn n x).switches = d.switches := rfl
@[simp] theorem Dev.setFn_plans (d : Dev) (n : Nat) (x : Fn) : (d.setFn n x).plans = d.plans := rfl
@[simp] theorem Dev.setFn_runs (d : Dev) (n : Nat) (x : Fn) : (d.setFn n x).runs = d.runs := rfl
@[simp] theorem Dev.setFn_acc (d : Dev) (n : Nat) (x : Fn) : (d.setFn n x).acc = d.acc := rfl
@[simp] theorem Dev.setFn_soft (d : Dev) (n : Nat) (x : Fn) : (d.setFn n x).soft = d.soft := rfl
@[simp] theorem Dev.setFn_absent (d : Dev) (n : Nat) (x : Fn) : (d.setFn n x).absent = d.absent := rfl
@[simp] theorem Dev.setFn_seqs (d : Dev) (n : Nat) (x : Fn) : (d.setFn n x).seqs = d.seqs := rfl
@[simp] theorem Dev.setFn_groups (d : Dev) (n : Nat) (x : Fn) : (d.setFn n x).groups = d.groups := rfl
@[simp] theorem Dev.setFn_colls (d : Dev) (n : Nat) (x : Fn) : (d.setFn n x).colls = d.colls := rfl
@[simp] theorem Dev.setFn_streams (d : Dev) (n : Nat) (x : Fn) : (d.setFn n x).streams = d.streams := rfl
@[simp] theorem Dev.setFn_engines (d : Dev) (n : Nat) (x : Fn) : (d.setFn n x).engines = d.engines := rfl
@[simp] theorem Dev.setFn_features (d : Dev) (n : Nat) (x : Fn) : (d.setFn n x).features = d.features := rfl
@[simp] theorem Dev.setFn_keys (d : Dev) (n : Nat) (x : Fn) : (d.setFn n x).keys = d.keys := rfl
@[simp] theorem Dev.setFn_hbm (d : Dev) (n : Nat) (x : Fn) : (d.setFn n x).hbm = d.hbm := rfl
@[simp] theorem Dev.setFn_host (d : Dev) (n : Nat) (x : Fn) : (d.setFn n x).host = d.host := rfl
@[simp] theorem Dev.setFn_sram (d : Dev) (n : Nat) (x : Fn) : (d.setFn n x).sram = d.sram := rfl
@[simp] theorem Dev.setFn_stacks (d : Dev) (n : Nat) (x : Fn) : (d.setFn n x).stackTab = d.stackTab := rfl
@[simp] theorem Dev.setFn_chanErr (d : Dev) (n : Nat) (x : Fn) : (d.setFn n x).chanErr = d.chanErr := rfl
@[simp] theorem Dev.setFn_poison (d : Dev) (n : Nat) (x : Fn) : (d.setFn n x).poison = d.poison := rfl
@[simp] theorem Dev.setFn_link (d : Dev) (n : Nat) (x : Fn) : (d.setFn n x).link = d.link := rfl
@[simp] theorem Dev.setFn_ports (d : Dev) (n : Nat) (x : Fn) : (d.setFn n x).ports = d.ports := rfl
@[simp] theorem Dev.setFn_route (d : Dev) (n : Nat) (x : Fn) : (d.setFn n x).route = d.route := rfl
@[simp] theorem Dev.setFn_routeGen (d : Dev) (n : Nat) (x : Fn) : (d.setFn n x).routeGen = d.routeGen := rfl
@[simp] theorem Dev.setFn_sent (d : Dev) (n : Nat) (x : Fn) : (d.setFn n x).sent = d.sent := rfl
@[simp] theorem Dev.setFn_outq (d : Dev) (n : Nat) (x : Fn) : (d.setFn n x).outq = d.outq := rfl
@[simp] theorem Dev.setFn_sendSeq (d : Dev) (n : Nat) (x : Fn) : (d.setFn n x).sendSeq = d.sendSeq := rfl
@[simp] theorem Dev.setFn_recvSeq (d : Dev) (n : Nat) (x : Fn) : (d.setFn n x).recvSeq = d.recvSeq := rfl
@[simp] theorem Dev.setFn_gtc (d : Dev) (n : Nat) (x : Fn) : (d.setFn n x).gtc = d.gtc := rfl
@[simp] theorem Dev.setFn_dies (d : Dev) (n : Nat) (x : Fn) : (d.setFn n x).dies = d.dies := rfl
@[simp] theorem Dev.setFn_sheds (d : Dev) (n : Nat) (x : Fn) : (d.setFn n x).sheds = d.sheds := rfl
@[simp] theorem Dev.setFn_supply (d : Dev) (n : Nat) (x : Fn) : (d.setFn n x).supply = d.supply := rfl
@[simp] theorem Dev.setFn_pll (d : Dev) (n : Nat) (x : Fn) : (d.setFn n x).pll = d.pll := rfl
@[simp] theorem Dev.setFn_devPower (d : Dev) (n : Nat) (x : Fn) : (d.setFn n x).devPower = d.devPower := rfl
@[simp] theorem Dev.setFn_restSince (d : Dev) (n : Nat) (x : Fn) : (d.setFn n x).restSince = d.restSince := rfl
@[simp] theorem Dev.setFn_cap (d : Dev) (n : Nat) (x : Fn) : (d.setFn n x).cap = d.cap := rfl
@[simp] theorem Dev.setFn_capSince (d : Dev) (n : Nat) (x : Fn) : (d.setFn n x).capSince = d.capSince := rfl
@[simp] theorem Dev.setFn_capLast (d : Dev) (n : Nat) (x : Fn) : (d.setFn n x).capLast = d.capLast := rfl
@[simp] theorem Dev.setFn_fallow (d : Dev) (n : Nat) (x : Fn) : (d.setFn n x).fallow = d.fallow := rfl
@[simp] theorem Dev.setFn_cores (d : Dev) (n : Nat) (x : Fn) : (d.setFn n x).cores = d.cores := rfl
@[simp] theorem Dev.setFn_eth (d : Dev) (n : Nat) (x : Fn) : (d.setFn n x).eth = d.eth := rfl
@[simp] theorem Dev.setFn_qps (d : Dev) (n : Nat) (x : Fn) : (d.setFn n x).qps = d.qps := rfl
@[simp] theorem Dev.setFn_i3c (d : Dev) (n : Nat) (x : Fn) : (d.setFn n x).i3c = d.i3c := rfl
@[simp] theorem Dev.setFn_jtag (d : Dev) (n : Nat) (x : Fn) : (d.setFn n x).jtag = d.jtag := rfl
@[simp] theorem Dev.setFn_boot (d : Dev) (n : Nat) (x : Fn) : (d.setFn n x).boot = d.boot := rfl

/-! ### Dev.setQueue -/

@[simp] theorem Dev.setQueue_now (d : Dev) (n : Nat) (x : Queue) : (d.setQueue n x).now = d.now := rfl
@[simp] theorem Dev.setQueue_free (d : Dev) (n : Nat) (x : Queue) : (d.setQueue n x).free = d.free := rfl
@[simp] theorem Dev.setQueue_out (d : Dev) (n : Nat) (x : Queue) : (d.setQueue n x).out = d.out := rfl
@[simp] theorem Dev.setQueue_adm (d : Dev) (n : Nat) (x : Queue) : (d.setQueue n x).adm = d.adm := rfl
@[simp] theorem Dev.setQueue_bar2 (d : Dev) (n : Nat) (x : Queue) : (d.setQueue n x).bar2 = d.bar2 := rfl
@[simp] theorem Dev.setQueue_numVfs (d : Dev) (n : Nat) (x : Queue) : (d.setQueue n x).numVfs = d.numVfs := rfl
@[simp] theorem Dev.setQueue_aer (d : Dev) (n : Nat) (x : Queue) : (d.setQueue n x).aer = d.aer := rfl
@[simp] theorem Dev.setQueue_queues (d : Dev) (n : Nat) (x : Queue) : (d.setQueue n x).queues = KV.put d.queues n x := rfl
@[simp] theorem Dev.setQueue_lastServed (d : Dev) (n : Nat) (x : Queue) : (d.setQueue n x).lastServed = d.lastServed := rfl
@[simp] theorem Dev.setQueue_flights (d : Dev) (n : Nat) (x : Queue) : (d.setQueue n x).flights = d.flights := rfl
@[simp] theorem Dev.setQueue_nextFlight (d : Dev) (n : Nat) (x : Queue) : (d.setQueue n x).nextFlight = d.nextFlight := rfl
@[simp] theorem Dev.setQueue_fns (d : Dev) (n : Nat) (x : Queue) : (d.setQueue n x).fns = d.fns := rfl
@[simp] theorem Dev.setQueue_rxMbox (d : Dev) (n : Nat) (x : Queue) : (d.setQueue n x).rxMbox = d.rxMbox := rfl
@[simp] theorem Dev.setQueue_txMbox (d : Dev) (n : Nat) (x : Queue) : (d.setQueue n x).txMbox = d.txMbox := rfl
@[simp] theorem Dev.setQueue_pads (d : Dev) (n : Nat) (x : Queue) : (d.setQueue n x).pads = d.pads := rfl
@[simp] theorem Dev.setQueue_saved (d : Dev) (n : Nat) (x : Queue) : (d.setQueue n x).saved = d.saved := rfl
@[simp] theorem Dev.setQueue_switches (d : Dev) (n : Nat) (x : Queue) : (d.setQueue n x).switches = d.switches := rfl
@[simp] theorem Dev.setQueue_plans (d : Dev) (n : Nat) (x : Queue) : (d.setQueue n x).plans = d.plans := rfl
@[simp] theorem Dev.setQueue_runs (d : Dev) (n : Nat) (x : Queue) : (d.setQueue n x).runs = d.runs := rfl
@[simp] theorem Dev.setQueue_acc (d : Dev) (n : Nat) (x : Queue) : (d.setQueue n x).acc = d.acc := rfl
@[simp] theorem Dev.setQueue_soft (d : Dev) (n : Nat) (x : Queue) : (d.setQueue n x).soft = d.soft := rfl
@[simp] theorem Dev.setQueue_absent (d : Dev) (n : Nat) (x : Queue) : (d.setQueue n x).absent = d.absent := rfl
@[simp] theorem Dev.setQueue_seqs (d : Dev) (n : Nat) (x : Queue) : (d.setQueue n x).seqs = d.seqs := rfl
@[simp] theorem Dev.setQueue_groups (d : Dev) (n : Nat) (x : Queue) : (d.setQueue n x).groups = d.groups := rfl
@[simp] theorem Dev.setQueue_colls (d : Dev) (n : Nat) (x : Queue) : (d.setQueue n x).colls = d.colls := rfl
@[simp] theorem Dev.setQueue_streams (d : Dev) (n : Nat) (x : Queue) : (d.setQueue n x).streams = d.streams := rfl
@[simp] theorem Dev.setQueue_engines (d : Dev) (n : Nat) (x : Queue) : (d.setQueue n x).engines = d.engines := rfl
@[simp] theorem Dev.setQueue_features (d : Dev) (n : Nat) (x : Queue) : (d.setQueue n x).features = d.features := rfl
@[simp] theorem Dev.setQueue_keys (d : Dev) (n : Nat) (x : Queue) : (d.setQueue n x).keys = d.keys := rfl
@[simp] theorem Dev.setQueue_hbm (d : Dev) (n : Nat) (x : Queue) : (d.setQueue n x).hbm = d.hbm := rfl
@[simp] theorem Dev.setQueue_host (d : Dev) (n : Nat) (x : Queue) : (d.setQueue n x).host = d.host := rfl
@[simp] theorem Dev.setQueue_sram (d : Dev) (n : Nat) (x : Queue) : (d.setQueue n x).sram = d.sram := rfl
@[simp] theorem Dev.setQueue_stacks (d : Dev) (n : Nat) (x : Queue) : (d.setQueue n x).stackTab = d.stackTab := rfl
@[simp] theorem Dev.setQueue_chanErr (d : Dev) (n : Nat) (x : Queue) : (d.setQueue n x).chanErr = d.chanErr := rfl
@[simp] theorem Dev.setQueue_poison (d : Dev) (n : Nat) (x : Queue) : (d.setQueue n x).poison = d.poison := rfl
@[simp] theorem Dev.setQueue_link (d : Dev) (n : Nat) (x : Queue) : (d.setQueue n x).link = d.link := rfl
@[simp] theorem Dev.setQueue_ports (d : Dev) (n : Nat) (x : Queue) : (d.setQueue n x).ports = d.ports := rfl
@[simp] theorem Dev.setQueue_route (d : Dev) (n : Nat) (x : Queue) : (d.setQueue n x).route = d.route := rfl
@[simp] theorem Dev.setQueue_routeGen (d : Dev) (n : Nat) (x : Queue) : (d.setQueue n x).routeGen = d.routeGen := rfl
@[simp] theorem Dev.setQueue_sent (d : Dev) (n : Nat) (x : Queue) : (d.setQueue n x).sent = d.sent := rfl
@[simp] theorem Dev.setQueue_outq (d : Dev) (n : Nat) (x : Queue) : (d.setQueue n x).outq = d.outq := rfl
@[simp] theorem Dev.setQueue_sendSeq (d : Dev) (n : Nat) (x : Queue) : (d.setQueue n x).sendSeq = d.sendSeq := rfl
@[simp] theorem Dev.setQueue_recvSeq (d : Dev) (n : Nat) (x : Queue) : (d.setQueue n x).recvSeq = d.recvSeq := rfl
@[simp] theorem Dev.setQueue_gtc (d : Dev) (n : Nat) (x : Queue) : (d.setQueue n x).gtc = d.gtc := rfl
@[simp] theorem Dev.setQueue_dies (d : Dev) (n : Nat) (x : Queue) : (d.setQueue n x).dies = d.dies := rfl
@[simp] theorem Dev.setQueue_sheds (d : Dev) (n : Nat) (x : Queue) : (d.setQueue n x).sheds = d.sheds := rfl
@[simp] theorem Dev.setQueue_supply (d : Dev) (n : Nat) (x : Queue) : (d.setQueue n x).supply = d.supply := rfl
@[simp] theorem Dev.setQueue_pll (d : Dev) (n : Nat) (x : Queue) : (d.setQueue n x).pll = d.pll := rfl
@[simp] theorem Dev.setQueue_devPower (d : Dev) (n : Nat) (x : Queue) : (d.setQueue n x).devPower = d.devPower := rfl
@[simp] theorem Dev.setQueue_restSince (d : Dev) (n : Nat) (x : Queue) : (d.setQueue n x).restSince = d.restSince := rfl
@[simp] theorem Dev.setQueue_cap (d : Dev) (n : Nat) (x : Queue) : (d.setQueue n x).cap = d.cap := rfl
@[simp] theorem Dev.setQueue_capSince (d : Dev) (n : Nat) (x : Queue) : (d.setQueue n x).capSince = d.capSince := rfl
@[simp] theorem Dev.setQueue_capLast (d : Dev) (n : Nat) (x : Queue) : (d.setQueue n x).capLast = d.capLast := rfl
@[simp] theorem Dev.setQueue_fallow (d : Dev) (n : Nat) (x : Queue) : (d.setQueue n x).fallow = d.fallow := rfl
@[simp] theorem Dev.setQueue_cores (d : Dev) (n : Nat) (x : Queue) : (d.setQueue n x).cores = d.cores := rfl
@[simp] theorem Dev.setQueue_eth (d : Dev) (n : Nat) (x : Queue) : (d.setQueue n x).eth = d.eth := rfl
@[simp] theorem Dev.setQueue_qps (d : Dev) (n : Nat) (x : Queue) : (d.setQueue n x).qps = d.qps := rfl
@[simp] theorem Dev.setQueue_i3c (d : Dev) (n : Nat) (x : Queue) : (d.setQueue n x).i3c = d.i3c := rfl
@[simp] theorem Dev.setQueue_jtag (d : Dev) (n : Nat) (x : Queue) : (d.setQueue n x).jtag = d.jtag := rfl
@[simp] theorem Dev.setQueue_boot (d : Dev) (n : Nat) (x : Queue) : (d.setQueue n x).boot = d.boot := rfl

/-! ### Dev.setFlight -/

@[simp] theorem Dev.setFlight_now (d : Dev) (n : Nat) (x : Flight) : (d.setFlight n x).now = d.now := rfl
@[simp] theorem Dev.setFlight_free (d : Dev) (n : Nat) (x : Flight) : (d.setFlight n x).free = d.free := rfl
@[simp] theorem Dev.setFlight_out (d : Dev) (n : Nat) (x : Flight) : (d.setFlight n x).out = d.out := rfl
@[simp] theorem Dev.setFlight_adm (d : Dev) (n : Nat) (x : Flight) : (d.setFlight n x).adm = d.adm := rfl
@[simp] theorem Dev.setFlight_bar2 (d : Dev) (n : Nat) (x : Flight) : (d.setFlight n x).bar2 = d.bar2 := rfl
@[simp] theorem Dev.setFlight_numVfs (d : Dev) (n : Nat) (x : Flight) : (d.setFlight n x).numVfs = d.numVfs := rfl
@[simp] theorem Dev.setFlight_aer (d : Dev) (n : Nat) (x : Flight) : (d.setFlight n x).aer = d.aer := rfl
@[simp] theorem Dev.setFlight_queues (d : Dev) (n : Nat) (x : Flight) : (d.setFlight n x).queues = d.queues := rfl
@[simp] theorem Dev.setFlight_lastServed (d : Dev) (n : Nat) (x : Flight) : (d.setFlight n x).lastServed = d.lastServed := rfl
@[simp] theorem Dev.setFlight_flights (d : Dev) (n : Nat) (x : Flight) : (d.setFlight n x).flights = KV.upd d.flights n (fun _ => x) := rfl
@[simp] theorem Dev.setFlight_nextFlight (d : Dev) (n : Nat) (x : Flight) : (d.setFlight n x).nextFlight = d.nextFlight := rfl
@[simp] theorem Dev.setFlight_fns (d : Dev) (n : Nat) (x : Flight) : (d.setFlight n x).fns = d.fns := rfl
@[simp] theorem Dev.setFlight_rxMbox (d : Dev) (n : Nat) (x : Flight) : (d.setFlight n x).rxMbox = d.rxMbox := rfl
@[simp] theorem Dev.setFlight_txMbox (d : Dev) (n : Nat) (x : Flight) : (d.setFlight n x).txMbox = d.txMbox := rfl
@[simp] theorem Dev.setFlight_pads (d : Dev) (n : Nat) (x : Flight) : (d.setFlight n x).pads = d.pads := rfl
@[simp] theorem Dev.setFlight_saved (d : Dev) (n : Nat) (x : Flight) : (d.setFlight n x).saved = d.saved := rfl
@[simp] theorem Dev.setFlight_switches (d : Dev) (n : Nat) (x : Flight) : (d.setFlight n x).switches = d.switches := rfl
@[simp] theorem Dev.setFlight_plans (d : Dev) (n : Nat) (x : Flight) : (d.setFlight n x).plans = d.plans := rfl
@[simp] theorem Dev.setFlight_runs (d : Dev) (n : Nat) (x : Flight) : (d.setFlight n x).runs = d.runs := rfl
@[simp] theorem Dev.setFlight_acc (d : Dev) (n : Nat) (x : Flight) : (d.setFlight n x).acc = d.acc := rfl
@[simp] theorem Dev.setFlight_soft (d : Dev) (n : Nat) (x : Flight) : (d.setFlight n x).soft = d.soft := rfl
@[simp] theorem Dev.setFlight_absent (d : Dev) (n : Nat) (x : Flight) : (d.setFlight n x).absent = d.absent := rfl
@[simp] theorem Dev.setFlight_seqs (d : Dev) (n : Nat) (x : Flight) : (d.setFlight n x).seqs = d.seqs := rfl
@[simp] theorem Dev.setFlight_groups (d : Dev) (n : Nat) (x : Flight) : (d.setFlight n x).groups = d.groups := rfl
@[simp] theorem Dev.setFlight_colls (d : Dev) (n : Nat) (x : Flight) : (d.setFlight n x).colls = d.colls := rfl
@[simp] theorem Dev.setFlight_streams (d : Dev) (n : Nat) (x : Flight) : (d.setFlight n x).streams = d.streams := rfl
@[simp] theorem Dev.setFlight_engines (d : Dev) (n : Nat) (x : Flight) : (d.setFlight n x).engines = d.engines := rfl
@[simp] theorem Dev.setFlight_features (d : Dev) (n : Nat) (x : Flight) : (d.setFlight n x).features = d.features := rfl
@[simp] theorem Dev.setFlight_keys (d : Dev) (n : Nat) (x : Flight) : (d.setFlight n x).keys = d.keys := rfl
@[simp] theorem Dev.setFlight_hbm (d : Dev) (n : Nat) (x : Flight) : (d.setFlight n x).hbm = d.hbm := rfl
@[simp] theorem Dev.setFlight_host (d : Dev) (n : Nat) (x : Flight) : (d.setFlight n x).host = d.host := rfl
@[simp] theorem Dev.setFlight_sram (d : Dev) (n : Nat) (x : Flight) : (d.setFlight n x).sram = d.sram := rfl
@[simp] theorem Dev.setFlight_stacks (d : Dev) (n : Nat) (x : Flight) : (d.setFlight n x).stackTab = d.stackTab := rfl
@[simp] theorem Dev.setFlight_chanErr (d : Dev) (n : Nat) (x : Flight) : (d.setFlight n x).chanErr = d.chanErr := rfl
@[simp] theorem Dev.setFlight_poison (d : Dev) (n : Nat) (x : Flight) : (d.setFlight n x).poison = d.poison := rfl
@[simp] theorem Dev.setFlight_link (d : Dev) (n : Nat) (x : Flight) : (d.setFlight n x).link = d.link := rfl
@[simp] theorem Dev.setFlight_ports (d : Dev) (n : Nat) (x : Flight) : (d.setFlight n x).ports = d.ports := rfl
@[simp] theorem Dev.setFlight_route (d : Dev) (n : Nat) (x : Flight) : (d.setFlight n x).route = d.route := rfl
@[simp] theorem Dev.setFlight_routeGen (d : Dev) (n : Nat) (x : Flight) : (d.setFlight n x).routeGen = d.routeGen := rfl
@[simp] theorem Dev.setFlight_sent (d : Dev) (n : Nat) (x : Flight) : (d.setFlight n x).sent = d.sent := rfl
@[simp] theorem Dev.setFlight_outq (d : Dev) (n : Nat) (x : Flight) : (d.setFlight n x).outq = d.outq := rfl
@[simp] theorem Dev.setFlight_sendSeq (d : Dev) (n : Nat) (x : Flight) : (d.setFlight n x).sendSeq = d.sendSeq := rfl
@[simp] theorem Dev.setFlight_recvSeq (d : Dev) (n : Nat) (x : Flight) : (d.setFlight n x).recvSeq = d.recvSeq := rfl
@[simp] theorem Dev.setFlight_gtc (d : Dev) (n : Nat) (x : Flight) : (d.setFlight n x).gtc = d.gtc := rfl
@[simp] theorem Dev.setFlight_dies (d : Dev) (n : Nat) (x : Flight) : (d.setFlight n x).dies = d.dies := rfl
@[simp] theorem Dev.setFlight_sheds (d : Dev) (n : Nat) (x : Flight) : (d.setFlight n x).sheds = d.sheds := rfl
@[simp] theorem Dev.setFlight_supply (d : Dev) (n : Nat) (x : Flight) : (d.setFlight n x).supply = d.supply := rfl
@[simp] theorem Dev.setFlight_pll (d : Dev) (n : Nat) (x : Flight) : (d.setFlight n x).pll = d.pll := rfl
@[simp] theorem Dev.setFlight_devPower (d : Dev) (n : Nat) (x : Flight) : (d.setFlight n x).devPower = d.devPower := rfl
@[simp] theorem Dev.setFlight_restSince (d : Dev) (n : Nat) (x : Flight) : (d.setFlight n x).restSince = d.restSince := rfl
@[simp] theorem Dev.setFlight_cap (d : Dev) (n : Nat) (x : Flight) : (d.setFlight n x).cap = d.cap := rfl
@[simp] theorem Dev.setFlight_capSince (d : Dev) (n : Nat) (x : Flight) : (d.setFlight n x).capSince = d.capSince := rfl
@[simp] theorem Dev.setFlight_capLast (d : Dev) (n : Nat) (x : Flight) : (d.setFlight n x).capLast = d.capLast := rfl
@[simp] theorem Dev.setFlight_fallow (d : Dev) (n : Nat) (x : Flight) : (d.setFlight n x).fallow = d.fallow := rfl
@[simp] theorem Dev.setFlight_cores (d : Dev) (n : Nat) (x : Flight) : (d.setFlight n x).cores = d.cores := rfl
@[simp] theorem Dev.setFlight_eth (d : Dev) (n : Nat) (x : Flight) : (d.setFlight n x).eth = d.eth := rfl
@[simp] theorem Dev.setFlight_qps (d : Dev) (n : Nat) (x : Flight) : (d.setFlight n x).qps = d.qps := rfl
@[simp] theorem Dev.setFlight_i3c (d : Dev) (n : Nat) (x : Flight) : (d.setFlight n x).i3c = d.i3c := rfl
@[simp] theorem Dev.setFlight_jtag (d : Dev) (n : Nat) (x : Flight) : (d.setFlight n x).jtag = d.jtag := rfl
@[simp] theorem Dev.setFlight_boot (d : Dev) (n : Nat) (x : Flight) : (d.setFlight n x).boot = d.boot := rfl

/-! ### Dev.updFlight -/

@[simp] theorem Dev.updFlight_now (d : Dev) (n : Nat) (g : Flight → Flight) : (d.updFlight n g).now = d.now := rfl
@[simp] theorem Dev.updFlight_free (d : Dev) (n : Nat) (g : Flight → Flight) : (d.updFlight n g).free = d.free := rfl
@[simp] theorem Dev.updFlight_out (d : Dev) (n : Nat) (g : Flight → Flight) : (d.updFlight n g).out = d.out := rfl
@[simp] theorem Dev.updFlight_adm (d : Dev) (n : Nat) (g : Flight → Flight) : (d.updFlight n g).adm = d.adm := rfl
@[simp] theorem Dev.updFlight_bar2 (d : Dev) (n : Nat) (g : Flight → Flight) : (d.updFlight n g).bar2 = d.bar2 := rfl
@[simp] theorem Dev.updFlight_numVfs (d : Dev) (n : Nat) (g : Flight → Flight) : (d.updFlight n g).numVfs = d.numVfs := rfl
@[simp] theorem Dev.updFlight_aer (d : Dev) (n : Nat) (g : Flight → Flight) : (d.updFlight n g).aer = d.aer := rfl
@[simp] theorem Dev.updFlight_queues (d : Dev) (n : Nat) (g : Flight → Flight) : (d.updFlight n g).queues = d.queues := rfl
@[simp] theorem Dev.updFlight_lastServed (d : Dev) (n : Nat) (g : Flight → Flight) : (d.updFlight n g).lastServed = d.lastServed := rfl
@[simp] theorem Dev.updFlight_flights (d : Dev) (n : Nat) (g : Flight → Flight) : (d.updFlight n g).flights = KV.upd d.flights n g := rfl
@[simp] theorem Dev.updFlight_nextFlight (d : Dev) (n : Nat) (g : Flight → Flight) : (d.updFlight n g).nextFlight = d.nextFlight := rfl
@[simp] theorem Dev.updFlight_fns (d : Dev) (n : Nat) (g : Flight → Flight) : (d.updFlight n g).fns = d.fns := rfl
@[simp] theorem Dev.updFlight_rxMbox (d : Dev) (n : Nat) (g : Flight → Flight) : (d.updFlight n g).rxMbox = d.rxMbox := rfl
@[simp] theorem Dev.updFlight_txMbox (d : Dev) (n : Nat) (g : Flight → Flight) : (d.updFlight n g).txMbox = d.txMbox := rfl
@[simp] theorem Dev.updFlight_pads (d : Dev) (n : Nat) (g : Flight → Flight) : (d.updFlight n g).pads = d.pads := rfl
@[simp] theorem Dev.updFlight_saved (d : Dev) (n : Nat) (g : Flight → Flight) : (d.updFlight n g).saved = d.saved := rfl
@[simp] theorem Dev.updFlight_switches (d : Dev) (n : Nat) (g : Flight → Flight) : (d.updFlight n g).switches = d.switches := rfl
@[simp] theorem Dev.updFlight_plans (d : Dev) (n : Nat) (g : Flight → Flight) : (d.updFlight n g).plans = d.plans := rfl
@[simp] theorem Dev.updFlight_runs (d : Dev) (n : Nat) (g : Flight → Flight) : (d.updFlight n g).runs = d.runs := rfl
@[simp] theorem Dev.updFlight_acc (d : Dev) (n : Nat) (g : Flight → Flight) : (d.updFlight n g).acc = d.acc := rfl
@[simp] theorem Dev.updFlight_soft (d : Dev) (n : Nat) (g : Flight → Flight) : (d.updFlight n g).soft = d.soft := rfl
@[simp] theorem Dev.updFlight_absent (d : Dev) (n : Nat) (g : Flight → Flight) : (d.updFlight n g).absent = d.absent := rfl
@[simp] theorem Dev.updFlight_seqs (d : Dev) (n : Nat) (g : Flight → Flight) : (d.updFlight n g).seqs = d.seqs := rfl
@[simp] theorem Dev.updFlight_groups (d : Dev) (n : Nat) (g : Flight → Flight) : (d.updFlight n g).groups = d.groups := rfl
@[simp] theorem Dev.updFlight_colls (d : Dev) (n : Nat) (g : Flight → Flight) : (d.updFlight n g).colls = d.colls := rfl
@[simp] theorem Dev.updFlight_streams (d : Dev) (n : Nat) (g : Flight → Flight) : (d.updFlight n g).streams = d.streams := rfl
@[simp] theorem Dev.updFlight_engines (d : Dev) (n : Nat) (g : Flight → Flight) : (d.updFlight n g).engines = d.engines := rfl
@[simp] theorem Dev.updFlight_features (d : Dev) (n : Nat) (g : Flight → Flight) : (d.updFlight n g).features = d.features := rfl
@[simp] theorem Dev.updFlight_keys (d : Dev) (n : Nat) (g : Flight → Flight) : (d.updFlight n g).keys = d.keys := rfl
@[simp] theorem Dev.updFlight_hbm (d : Dev) (n : Nat) (g : Flight → Flight) : (d.updFlight n g).hbm = d.hbm := rfl
@[simp] theorem Dev.updFlight_host (d : Dev) (n : Nat) (g : Flight → Flight) : (d.updFlight n g).host = d.host := rfl
@[simp] theorem Dev.updFlight_sram (d : Dev) (n : Nat) (g : Flight → Flight) : (d.updFlight n g).sram = d.sram := rfl
@[simp] theorem Dev.updFlight_stacks (d : Dev) (n : Nat) (g : Flight → Flight) : (d.updFlight n g).stackTab = d.stackTab := rfl
@[simp] theorem Dev.updFlight_chanErr (d : Dev) (n : Nat) (g : Flight → Flight) : (d.updFlight n g).chanErr = d.chanErr := rfl
@[simp] theorem Dev.updFlight_poison (d : Dev) (n : Nat) (g : Flight → Flight) : (d.updFlight n g).poison = d.poison := rfl
@[simp] theorem Dev.updFlight_link (d : Dev) (n : Nat) (g : Flight → Flight) : (d.updFlight n g).link = d.link := rfl
@[simp] theorem Dev.updFlight_ports (d : Dev) (n : Nat) (g : Flight → Flight) : (d.updFlight n g).ports = d.ports := rfl
@[simp] theorem Dev.updFlight_route (d : Dev) (n : Nat) (g : Flight → Flight) : (d.updFlight n g).route = d.route := rfl
@[simp] theorem Dev.updFlight_routeGen (d : Dev) (n : Nat) (g : Flight → Flight) : (d.updFlight n g).routeGen = d.routeGen := rfl
@[simp] theorem Dev.updFlight_sent (d : Dev) (n : Nat) (g : Flight → Flight) : (d.updFlight n g).sent = d.sent := rfl
@[simp] theorem Dev.updFlight_outq (d : Dev) (n : Nat) (g : Flight → Flight) : (d.updFlight n g).outq = d.outq := rfl
@[simp] theorem Dev.updFlight_sendSeq (d : Dev) (n : Nat) (g : Flight → Flight) : (d.updFlight n g).sendSeq = d.sendSeq := rfl
@[simp] theorem Dev.updFlight_recvSeq (d : Dev) (n : Nat) (g : Flight → Flight) : (d.updFlight n g).recvSeq = d.recvSeq := rfl
@[simp] theorem Dev.updFlight_gtc (d : Dev) (n : Nat) (g : Flight → Flight) : (d.updFlight n g).gtc = d.gtc := rfl
@[simp] theorem Dev.updFlight_dies (d : Dev) (n : Nat) (g : Flight → Flight) : (d.updFlight n g).dies = d.dies := rfl
@[simp] theorem Dev.updFlight_sheds (d : Dev) (n : Nat) (g : Flight → Flight) : (d.updFlight n g).sheds = d.sheds := rfl
@[simp] theorem Dev.updFlight_supply (d : Dev) (n : Nat) (g : Flight → Flight) : (d.updFlight n g).supply = d.supply := rfl
@[simp] theorem Dev.updFlight_pll (d : Dev) (n : Nat) (g : Flight → Flight) : (d.updFlight n g).pll = d.pll := rfl
@[simp] theorem Dev.updFlight_devPower (d : Dev) (n : Nat) (g : Flight → Flight) : (d.updFlight n g).devPower = d.devPower := rfl
@[simp] theorem Dev.updFlight_restSince (d : Dev) (n : Nat) (g : Flight → Flight) : (d.updFlight n g).restSince = d.restSince := rfl
@[simp] theorem Dev.updFlight_cap (d : Dev) (n : Nat) (g : Flight → Flight) : (d.updFlight n g).cap = d.cap := rfl
@[simp] theorem Dev.updFlight_capSince (d : Dev) (n : Nat) (g : Flight → Flight) : (d.updFlight n g).capSince = d.capSince := rfl
@[simp] theorem Dev.updFlight_capLast (d : Dev) (n : Nat) (g : Flight → Flight) : (d.updFlight n g).capLast = d.capLast := rfl
@[simp] theorem Dev.updFlight_fallow (d : Dev) (n : Nat) (g : Flight → Flight) : (d.updFlight n g).fallow = d.fallow := rfl
@[simp] theorem Dev.updFlight_cores (d : Dev) (n : Nat) (g : Flight → Flight) : (d.updFlight n g).cores = d.cores := rfl
@[simp] theorem Dev.updFlight_eth (d : Dev) (n : Nat) (g : Flight → Flight) : (d.updFlight n g).eth = d.eth := rfl
@[simp] theorem Dev.updFlight_qps (d : Dev) (n : Nat) (g : Flight → Flight) : (d.updFlight n g).qps = d.qps := rfl
@[simp] theorem Dev.updFlight_i3c (d : Dev) (n : Nat) (g : Flight → Flight) : (d.updFlight n g).i3c = d.i3c := rfl
@[simp] theorem Dev.updFlight_jtag (d : Dev) (n : Nat) (g : Flight → Flight) : (d.updFlight n g).jtag = d.jtag := rfl
@[simp] theorem Dev.updFlight_boot (d : Dev) (n : Nat) (g : Flight → Flight) : (d.updFlight n g).boot = d.boot := rfl

/-! ### Dev.setShed -/

@[simp] theorem Dev.setShed_now (d : Dev) (n : Nat) (x : Shed) : (d.setShed n x).now = d.now := rfl
@[simp] theorem Dev.setShed_free (d : Dev) (n : Nat) (x : Shed) : (d.setShed n x).free = d.free := rfl
@[simp] theorem Dev.setShed_out (d : Dev) (n : Nat) (x : Shed) : (d.setShed n x).out = d.out := rfl
@[simp] theorem Dev.setShed_adm (d : Dev) (n : Nat) (x : Shed) : (d.setShed n x).adm = d.adm := rfl
@[simp] theorem Dev.setShed_bar2 (d : Dev) (n : Nat) (x : Shed) : (d.setShed n x).bar2 = d.bar2 := rfl
@[simp] theorem Dev.setShed_numVfs (d : Dev) (n : Nat) (x : Shed) : (d.setShed n x).numVfs = d.numVfs := rfl
@[simp] theorem Dev.setShed_aer (d : Dev) (n : Nat) (x : Shed) : (d.setShed n x).aer = d.aer := rfl
@[simp] theorem Dev.setShed_queues (d : Dev) (n : Nat) (x : Shed) : (d.setShed n x).queues = d.queues := rfl
@[simp] theorem Dev.setShed_lastServed (d : Dev) (n : Nat) (x : Shed) : (d.setShed n x).lastServed = d.lastServed := rfl
@[simp] theorem Dev.setShed_flights (d : Dev) (n : Nat) (x : Shed) : (d.setShed n x).flights = d.flights := rfl
@[simp] theorem Dev.setShed_nextFlight (d : Dev) (n : Nat) (x : Shed) : (d.setShed n x).nextFlight = d.nextFlight := rfl
@[simp] theorem Dev.setShed_fns (d : Dev) (n : Nat) (x : Shed) : (d.setShed n x).fns = d.fns := rfl
@[simp] theorem Dev.setShed_rxMbox (d : Dev) (n : Nat) (x : Shed) : (d.setShed n x).rxMbox = d.rxMbox := rfl
@[simp] theorem Dev.setShed_txMbox (d : Dev) (n : Nat) (x : Shed) : (d.setShed n x).txMbox = d.txMbox := rfl
@[simp] theorem Dev.setShed_pads (d : Dev) (n : Nat) (x : Shed) : (d.setShed n x).pads = d.pads := rfl
@[simp] theorem Dev.setShed_saved (d : Dev) (n : Nat) (x : Shed) : (d.setShed n x).saved = d.saved := rfl
@[simp] theorem Dev.setShed_switches (d : Dev) (n : Nat) (x : Shed) : (d.setShed n x).switches = d.switches := rfl
@[simp] theorem Dev.setShed_plans (d : Dev) (n : Nat) (x : Shed) : (d.setShed n x).plans = d.plans := rfl
@[simp] theorem Dev.setShed_runs (d : Dev) (n : Nat) (x : Shed) : (d.setShed n x).runs = d.runs := rfl
@[simp] theorem Dev.setShed_acc (d : Dev) (n : Nat) (x : Shed) : (d.setShed n x).acc = d.acc := rfl
@[simp] theorem Dev.setShed_soft (d : Dev) (n : Nat) (x : Shed) : (d.setShed n x).soft = d.soft := rfl
@[simp] theorem Dev.setShed_absent (d : Dev) (n : Nat) (x : Shed) : (d.setShed n x).absent = d.absent := rfl
@[simp] theorem Dev.setShed_seqs (d : Dev) (n : Nat) (x : Shed) : (d.setShed n x).seqs = d.seqs := rfl
@[simp] theorem Dev.setShed_groups (d : Dev) (n : Nat) (x : Shed) : (d.setShed n x).groups = d.groups := rfl
@[simp] theorem Dev.setShed_colls (d : Dev) (n : Nat) (x : Shed) : (d.setShed n x).colls = d.colls := rfl
@[simp] theorem Dev.setShed_streams (d : Dev) (n : Nat) (x : Shed) : (d.setShed n x).streams = d.streams := rfl
@[simp] theorem Dev.setShed_engines (d : Dev) (n : Nat) (x : Shed) : (d.setShed n x).engines = d.engines := rfl
@[simp] theorem Dev.setShed_features (d : Dev) (n : Nat) (x : Shed) : (d.setShed n x).features = d.features := rfl
@[simp] theorem Dev.setShed_keys (d : Dev) (n : Nat) (x : Shed) : (d.setShed n x).keys = d.keys := rfl
@[simp] theorem Dev.setShed_hbm (d : Dev) (n : Nat) (x : Shed) : (d.setShed n x).hbm = d.hbm := rfl
@[simp] theorem Dev.setShed_host (d : Dev) (n : Nat) (x : Shed) : (d.setShed n x).host = d.host := rfl
@[simp] theorem Dev.setShed_sram (d : Dev) (n : Nat) (x : Shed) : (d.setShed n x).sram = d.sram := rfl
@[simp] theorem Dev.setShed_stacks (d : Dev) (n : Nat) (x : Shed) : (d.setShed n x).stackTab = d.stackTab := rfl
@[simp] theorem Dev.setShed_chanErr (d : Dev) (n : Nat) (x : Shed) : (d.setShed n x).chanErr = d.chanErr := rfl
@[simp] theorem Dev.setShed_poison (d : Dev) (n : Nat) (x : Shed) : (d.setShed n x).poison = d.poison := rfl
@[simp] theorem Dev.setShed_link (d : Dev) (n : Nat) (x : Shed) : (d.setShed n x).link = d.link := rfl
@[simp] theorem Dev.setShed_ports (d : Dev) (n : Nat) (x : Shed) : (d.setShed n x).ports = d.ports := rfl
@[simp] theorem Dev.setShed_route (d : Dev) (n : Nat) (x : Shed) : (d.setShed n x).route = d.route := rfl
@[simp] theorem Dev.setShed_routeGen (d : Dev) (n : Nat) (x : Shed) : (d.setShed n x).routeGen = d.routeGen := rfl
@[simp] theorem Dev.setShed_sent (d : Dev) (n : Nat) (x : Shed) : (d.setShed n x).sent = d.sent := rfl
@[simp] theorem Dev.setShed_outq (d : Dev) (n : Nat) (x : Shed) : (d.setShed n x).outq = d.outq := rfl
@[simp] theorem Dev.setShed_sendSeq (d : Dev) (n : Nat) (x : Shed) : (d.setShed n x).sendSeq = d.sendSeq := rfl
@[simp] theorem Dev.setShed_recvSeq (d : Dev) (n : Nat) (x : Shed) : (d.setShed n x).recvSeq = d.recvSeq := rfl
@[simp] theorem Dev.setShed_gtc (d : Dev) (n : Nat) (x : Shed) : (d.setShed n x).gtc = d.gtc := rfl
@[simp] theorem Dev.setShed_dies (d : Dev) (n : Nat) (x : Shed) : (d.setShed n x).dies = d.dies := rfl
@[simp] theorem Dev.setShed_sheds (d : Dev) (n : Nat) (x : Shed) : (d.setShed n x).sheds = KV.put d.sheds n x := rfl
@[simp] theorem Dev.setShed_supply (d : Dev) (n : Nat) (x : Shed) : (d.setShed n x).supply = d.supply := rfl
@[simp] theorem Dev.setShed_pll (d : Dev) (n : Nat) (x : Shed) : (d.setShed n x).pll = d.pll := rfl
@[simp] theorem Dev.setShed_devPower (d : Dev) (n : Nat) (x : Shed) : (d.setShed n x).devPower = d.devPower := rfl
@[simp] theorem Dev.setShed_restSince (d : Dev) (n : Nat) (x : Shed) : (d.setShed n x).restSince = d.restSince := rfl
@[simp] theorem Dev.setShed_cap (d : Dev) (n : Nat) (x : Shed) : (d.setShed n x).cap = d.cap := rfl
@[simp] theorem Dev.setShed_capSince (d : Dev) (n : Nat) (x : Shed) : (d.setShed n x).capSince = d.capSince := rfl
@[simp] theorem Dev.setShed_capLast (d : Dev) (n : Nat) (x : Shed) : (d.setShed n x).capLast = d.capLast := rfl
@[simp] theorem Dev.setShed_fallow (d : Dev) (n : Nat) (x : Shed) : (d.setShed n x).fallow = d.fallow := rfl
@[simp] theorem Dev.setShed_cores (d : Dev) (n : Nat) (x : Shed) : (d.setShed n x).cores = d.cores := rfl
@[simp] theorem Dev.setShed_eth (d : Dev) (n : Nat) (x : Shed) : (d.setShed n x).eth = d.eth := rfl
@[simp] theorem Dev.setShed_qps (d : Dev) (n : Nat) (x : Shed) : (d.setShed n x).qps = d.qps := rfl
@[simp] theorem Dev.setShed_i3c (d : Dev) (n : Nat) (x : Shed) : (d.setShed n x).i3c = d.i3c := rfl
@[simp] theorem Dev.setShed_jtag (d : Dev) (n : Nat) (x : Shed) : (d.setShed n x).jtag = d.jtag := rfl
@[simp] theorem Dev.setShed_boot (d : Dev) (n : Nat) (x : Shed) : (d.setShed n x).boot = d.boot := rfl

/-! ### Dev.setPort -/

@[simp] theorem Dev.setPort_now (d : Dev) (n : Nat) (x : Port) : (d.setPort n x).now = d.now := rfl
@[simp] theorem Dev.setPort_free (d : Dev) (n : Nat) (x : Port) : (d.setPort n x).free = d.free := rfl
@[simp] theorem Dev.setPort_out (d : Dev) (n : Nat) (x : Port) : (d.setPort n x).out = d.out := rfl
@[simp] theorem Dev.setPort_adm (d : Dev) (n : Nat) (x : Port) : (d.setPort n x).adm = d.adm := rfl
@[simp] theorem Dev.setPort_bar2 (d : Dev) (n : Nat) (x : Port) : (d.setPort n x).bar2 = d.bar2 := rfl
@[simp] theorem Dev.setPort_numVfs (d : Dev) (n : Nat) (x : Port) : (d.setPort n x).numVfs = d.numVfs := rfl
@[simp] theorem Dev.setPort_aer (d : Dev) (n : Nat) (x : Port) : (d.setPort n x).aer = d.aer := rfl
@[simp] theorem Dev.setPort_queues (d : Dev) (n : Nat) (x : Port) : (d.setPort n x).queues = d.queues := rfl
@[simp] theorem Dev.setPort_lastServed (d : Dev) (n : Nat) (x : Port) : (d.setPort n x).lastServed = d.lastServed := rfl
@[simp] theorem Dev.setPort_flights (d : Dev) (n : Nat) (x : Port) : (d.setPort n x).flights = d.flights := rfl
@[simp] theorem Dev.setPort_nextFlight (d : Dev) (n : Nat) (x : Port) : (d.setPort n x).nextFlight = d.nextFlight := rfl
@[simp] theorem Dev.setPort_fns (d : Dev) (n : Nat) (x : Port) : (d.setPort n x).fns = d.fns := rfl
@[simp] theorem Dev.setPort_rxMbox (d : Dev) (n : Nat) (x : Port) : (d.setPort n x).rxMbox = d.rxMbox := rfl
@[simp] theorem Dev.setPort_txMbox (d : Dev) (n : Nat) (x : Port) : (d.setPort n x).txMbox = d.txMbox := rfl
@[simp] theorem Dev.setPort_pads (d : Dev) (n : Nat) (x : Port) : (d.setPort n x).pads = d.pads := rfl
@[simp] theorem Dev.setPort_saved (d : Dev) (n : Nat) (x : Port) : (d.setPort n x).saved = d.saved := rfl
@[simp] theorem Dev.setPort_switches (d : Dev) (n : Nat) (x : Port) : (d.setPort n x).switches = d.switches := rfl
@[simp] theorem Dev.setPort_plans (d : Dev) (n : Nat) (x : Port) : (d.setPort n x).plans = d.plans := rfl
@[simp] theorem Dev.setPort_runs (d : Dev) (n : Nat) (x : Port) : (d.setPort n x).runs = d.runs := rfl
@[simp] theorem Dev.setPort_acc (d : Dev) (n : Nat) (x : Port) : (d.setPort n x).acc = d.acc := rfl
@[simp] theorem Dev.setPort_soft (d : Dev) (n : Nat) (x : Port) : (d.setPort n x).soft = d.soft := rfl
@[simp] theorem Dev.setPort_absent (d : Dev) (n : Nat) (x : Port) : (d.setPort n x).absent = d.absent := rfl
@[simp] theorem Dev.setPort_seqs (d : Dev) (n : Nat) (x : Port) : (d.setPort n x).seqs = d.seqs := rfl
@[simp] theorem Dev.setPort_groups (d : Dev) (n : Nat) (x : Port) : (d.setPort n x).groups = d.groups := rfl
@[simp] theorem Dev.setPort_colls (d : Dev) (n : Nat) (x : Port) : (d.setPort n x).colls = d.colls := rfl
@[simp] theorem Dev.setPort_streams (d : Dev) (n : Nat) (x : Port) : (d.setPort n x).streams = d.streams := rfl
@[simp] theorem Dev.setPort_engines (d : Dev) (n : Nat) (x : Port) : (d.setPort n x).engines = d.engines := rfl
@[simp] theorem Dev.setPort_features (d : Dev) (n : Nat) (x : Port) : (d.setPort n x).features = d.features := rfl
@[simp] theorem Dev.setPort_keys (d : Dev) (n : Nat) (x : Port) : (d.setPort n x).keys = d.keys := rfl
@[simp] theorem Dev.setPort_hbm (d : Dev) (n : Nat) (x : Port) : (d.setPort n x).hbm = d.hbm := rfl
@[simp] theorem Dev.setPort_host (d : Dev) (n : Nat) (x : Port) : (d.setPort n x).host = d.host := rfl
@[simp] theorem Dev.setPort_sram (d : Dev) (n : Nat) (x : Port) : (d.setPort n x).sram = d.sram := rfl
@[simp] theorem Dev.setPort_stacks (d : Dev) (n : Nat) (x : Port) : (d.setPort n x).stackTab = d.stackTab := rfl
@[simp] theorem Dev.setPort_chanErr (d : Dev) (n : Nat) (x : Port) : (d.setPort n x).chanErr = d.chanErr := rfl
@[simp] theorem Dev.setPort_poison (d : Dev) (n : Nat) (x : Port) : (d.setPort n x).poison = d.poison := rfl
@[simp] theorem Dev.setPort_link (d : Dev) (n : Nat) (x : Port) : (d.setPort n x).link = d.link := rfl
@[simp] theorem Dev.setPort_ports (d : Dev) (n : Nat) (x : Port) : (d.setPort n x).ports = KV.put d.ports n x := rfl
@[simp] theorem Dev.setPort_route (d : Dev) (n : Nat) (x : Port) : (d.setPort n x).route = d.route := rfl
@[simp] theorem Dev.setPort_routeGen (d : Dev) (n : Nat) (x : Port) : (d.setPort n x).routeGen = d.routeGen := rfl
@[simp] theorem Dev.setPort_sent (d : Dev) (n : Nat) (x : Port) : (d.setPort n x).sent = d.sent := rfl
@[simp] theorem Dev.setPort_outq (d : Dev) (n : Nat) (x : Port) : (d.setPort n x).outq = d.outq := rfl
@[simp] theorem Dev.setPort_sendSeq (d : Dev) (n : Nat) (x : Port) : (d.setPort n x).sendSeq = d.sendSeq := rfl
@[simp] theorem Dev.setPort_recvSeq (d : Dev) (n : Nat) (x : Port) : (d.setPort n x).recvSeq = d.recvSeq := rfl
@[simp] theorem Dev.setPort_gtc (d : Dev) (n : Nat) (x : Port) : (d.setPort n x).gtc = d.gtc := rfl
@[simp] theorem Dev.setPort_dies (d : Dev) (n : Nat) (x : Port) : (d.setPort n x).dies = d.dies := rfl
@[simp] theorem Dev.setPort_sheds (d : Dev) (n : Nat) (x : Port) : (d.setPort n x).sheds = d.sheds := rfl
@[simp] theorem Dev.setPort_supply (d : Dev) (n : Nat) (x : Port) : (d.setPort n x).supply = d.supply := rfl
@[simp] theorem Dev.setPort_pll (d : Dev) (n : Nat) (x : Port) : (d.setPort n x).pll = d.pll := rfl
@[simp] theorem Dev.setPort_devPower (d : Dev) (n : Nat) (x : Port) : (d.setPort n x).devPower = d.devPower := rfl
@[simp] theorem Dev.setPort_restSince (d : Dev) (n : Nat) (x : Port) : (d.setPort n x).restSince = d.restSince := rfl
@[simp] theorem Dev.setPort_cap (d : Dev) (n : Nat) (x : Port) : (d.setPort n x).cap = d.cap := rfl
@[simp] theorem Dev.setPort_capSince (d : Dev) (n : Nat) (x : Port) : (d.setPort n x).capSince = d.capSince := rfl
@[simp] theorem Dev.setPort_capLast (d : Dev) (n : Nat) (x : Port) : (d.setPort n x).capLast = d.capLast := rfl
@[simp] theorem Dev.setPort_fallow (d : Dev) (n : Nat) (x : Port) : (d.setPort n x).fallow = d.fallow := rfl
@[simp] theorem Dev.setPort_cores (d : Dev) (n : Nat) (x : Port) : (d.setPort n x).cores = d.cores := rfl
@[simp] theorem Dev.setPort_eth (d : Dev) (n : Nat) (x : Port) : (d.setPort n x).eth = d.eth := rfl
@[simp] theorem Dev.setPort_qps (d : Dev) (n : Nat) (x : Port) : (d.setPort n x).qps = d.qps := rfl
@[simp] theorem Dev.setPort_i3c (d : Dev) (n : Nat) (x : Port) : (d.setPort n x).i3c = d.i3c := rfl
@[simp] theorem Dev.setPort_jtag (d : Dev) (n : Nat) (x : Port) : (d.setPort n x).jtag = d.jtag := rfl
@[simp] theorem Dev.setPort_boot (d : Dev) (n : Nat) (x : Port) : (d.setPort n x).boot = d.boot := rfl

/-! ### Dev.setDie -/

@[simp] theorem Dev.setDie_now (d : Dev) (n : Nat) (x : Die) : (d.setDie n x).now = d.now := rfl
@[simp] theorem Dev.setDie_free (d : Dev) (n : Nat) (x : Die) : (d.setDie n x).free = d.free := rfl
@[simp] theorem Dev.setDie_out (d : Dev) (n : Nat) (x : Die) : (d.setDie n x).out = d.out := rfl
@[simp] theorem Dev.setDie_adm (d : Dev) (n : Nat) (x : Die) : (d.setDie n x).adm = d.adm := rfl
@[simp] theorem Dev.setDie_bar2 (d : Dev) (n : Nat) (x : Die) : (d.setDie n x).bar2 = d.bar2 := rfl
@[simp] theorem Dev.setDie_numVfs (d : Dev) (n : Nat) (x : Die) : (d.setDie n x).numVfs = d.numVfs := rfl
@[simp] theorem Dev.setDie_aer (d : Dev) (n : Nat) (x : Die) : (d.setDie n x).aer = d.aer := rfl
@[simp] theorem Dev.setDie_queues (d : Dev) (n : Nat) (x : Die) : (d.setDie n x).queues = d.queues := rfl
@[simp] theorem Dev.setDie_lastServed (d : Dev) (n : Nat) (x : Die) : (d.setDie n x).lastServed = d.lastServed := rfl
@[simp] theorem Dev.setDie_flights (d : Dev) (n : Nat) (x : Die) : (d.setDie n x).flights = d.flights := rfl
@[simp] theorem Dev.setDie_nextFlight (d : Dev) (n : Nat) (x : Die) : (d.setDie n x).nextFlight = d.nextFlight := rfl
@[simp] theorem Dev.setDie_fns (d : Dev) (n : Nat) (x : Die) : (d.setDie n x).fns = d.fns := rfl
@[simp] theorem Dev.setDie_rxMbox (d : Dev) (n : Nat) (x : Die) : (d.setDie n x).rxMbox = d.rxMbox := rfl
@[simp] theorem Dev.setDie_txMbox (d : Dev) (n : Nat) (x : Die) : (d.setDie n x).txMbox = d.txMbox := rfl
@[simp] theorem Dev.setDie_pads (d : Dev) (n : Nat) (x : Die) : (d.setDie n x).pads = d.pads := rfl
@[simp] theorem Dev.setDie_saved (d : Dev) (n : Nat) (x : Die) : (d.setDie n x).saved = d.saved := rfl
@[simp] theorem Dev.setDie_switches (d : Dev) (n : Nat) (x : Die) : (d.setDie n x).switches = d.switches := rfl
@[simp] theorem Dev.setDie_plans (d : Dev) (n : Nat) (x : Die) : (d.setDie n x).plans = d.plans := rfl
@[simp] theorem Dev.setDie_runs (d : Dev) (n : Nat) (x : Die) : (d.setDie n x).runs = d.runs := rfl
@[simp] theorem Dev.setDie_acc (d : Dev) (n : Nat) (x : Die) : (d.setDie n x).acc = d.acc := rfl
@[simp] theorem Dev.setDie_soft (d : Dev) (n : Nat) (x : Die) : (d.setDie n x).soft = d.soft := rfl
@[simp] theorem Dev.setDie_absent (d : Dev) (n : Nat) (x : Die) : (d.setDie n x).absent = d.absent := rfl
@[simp] theorem Dev.setDie_seqs (d : Dev) (n : Nat) (x : Die) : (d.setDie n x).seqs = d.seqs := rfl
@[simp] theorem Dev.setDie_groups (d : Dev) (n : Nat) (x : Die) : (d.setDie n x).groups = d.groups := rfl
@[simp] theorem Dev.setDie_colls (d : Dev) (n : Nat) (x : Die) : (d.setDie n x).colls = d.colls := rfl
@[simp] theorem Dev.setDie_streams (d : Dev) (n : Nat) (x : Die) : (d.setDie n x).streams = d.streams := rfl
@[simp] theorem Dev.setDie_engines (d : Dev) (n : Nat) (x : Die) : (d.setDie n x).engines = d.engines := rfl
@[simp] theorem Dev.setDie_features (d : Dev) (n : Nat) (x : Die) : (d.setDie n x).features = d.features := rfl
@[simp] theorem Dev.setDie_keys (d : Dev) (n : Nat) (x : Die) : (d.setDie n x).keys = d.keys := rfl
@[simp] theorem Dev.setDie_hbm (d : Dev) (n : Nat) (x : Die) : (d.setDie n x).hbm = d.hbm := rfl
@[simp] theorem Dev.setDie_host (d : Dev) (n : Nat) (x : Die) : (d.setDie n x).host = d.host := rfl
@[simp] theorem Dev.setDie_sram (d : Dev) (n : Nat) (x : Die) : (d.setDie n x).sram = d.sram := rfl
@[simp] theorem Dev.setDie_stacks (d : Dev) (n : Nat) (x : Die) : (d.setDie n x).stackTab = d.stackTab := rfl
@[simp] theorem Dev.setDie_chanErr (d : Dev) (n : Nat) (x : Die) : (d.setDie n x).chanErr = d.chanErr := rfl
@[simp] theorem Dev.setDie_poison (d : Dev) (n : Nat) (x : Die) : (d.setDie n x).poison = d.poison := rfl
@[simp] theorem Dev.setDie_link (d : Dev) (n : Nat) (x : Die) : (d.setDie n x).link = d.link := rfl
@[simp] theorem Dev.setDie_ports (d : Dev) (n : Nat) (x : Die) : (d.setDie n x).ports = d.ports := rfl
@[simp] theorem Dev.setDie_route (d : Dev) (n : Nat) (x : Die) : (d.setDie n x).route = d.route := rfl
@[simp] theorem Dev.setDie_routeGen (d : Dev) (n : Nat) (x : Die) : (d.setDie n x).routeGen = d.routeGen := rfl
@[simp] theorem Dev.setDie_sent (d : Dev) (n : Nat) (x : Die) : (d.setDie n x).sent = d.sent := rfl
@[simp] theorem Dev.setDie_outq (d : Dev) (n : Nat) (x : Die) : (d.setDie n x).outq = d.outq := rfl
@[simp] theorem Dev.setDie_sendSeq (d : Dev) (n : Nat) (x : Die) : (d.setDie n x).sendSeq = d.sendSeq := rfl
@[simp] theorem Dev.setDie_recvSeq (d : Dev) (n : Nat) (x : Die) : (d.setDie n x).recvSeq = d.recvSeq := rfl
@[simp] theorem Dev.setDie_gtc (d : Dev) (n : Nat) (x : Die) : (d.setDie n x).gtc = d.gtc := rfl
@[simp] theorem Dev.setDie_dies (d : Dev) (n : Nat) (x : Die) : (d.setDie n x).dies = KV.put d.dies n x := rfl
@[simp] theorem Dev.setDie_sheds (d : Dev) (n : Nat) (x : Die) : (d.setDie n x).sheds = d.sheds := rfl
@[simp] theorem Dev.setDie_supply (d : Dev) (n : Nat) (x : Die) : (d.setDie n x).supply = d.supply := rfl
@[simp] theorem Dev.setDie_pll (d : Dev) (n : Nat) (x : Die) : (d.setDie n x).pll = d.pll := rfl
@[simp] theorem Dev.setDie_devPower (d : Dev) (n : Nat) (x : Die) : (d.setDie n x).devPower = d.devPower := rfl
@[simp] theorem Dev.setDie_restSince (d : Dev) (n : Nat) (x : Die) : (d.setDie n x).restSince = d.restSince := rfl
@[simp] theorem Dev.setDie_cap (d : Dev) (n : Nat) (x : Die) : (d.setDie n x).cap = d.cap := rfl
@[simp] theorem Dev.setDie_capSince (d : Dev) (n : Nat) (x : Die) : (d.setDie n x).capSince = d.capSince := rfl
@[simp] theorem Dev.setDie_capLast (d : Dev) (n : Nat) (x : Die) : (d.setDie n x).capLast = d.capLast := rfl
@[simp] theorem Dev.setDie_fallow (d : Dev) (n : Nat) (x : Die) : (d.setDie n x).fallow = d.fallow := rfl
@[simp] theorem Dev.setDie_cores (d : Dev) (n : Nat) (x : Die) : (d.setDie n x).cores = d.cores := rfl
@[simp] theorem Dev.setDie_eth (d : Dev) (n : Nat) (x : Die) : (d.setDie n x).eth = d.eth := rfl
@[simp] theorem Dev.setDie_qps (d : Dev) (n : Nat) (x : Die) : (d.setDie n x).qps = d.qps := rfl
@[simp] theorem Dev.setDie_i3c (d : Dev) (n : Nat) (x : Die) : (d.setDie n x).i3c = d.i3c := rfl
@[simp] theorem Dev.setDie_jtag (d : Dev) (n : Nat) (x : Die) : (d.setDie n x).jtag = d.jtag := rfl
@[simp] theorem Dev.setDie_boot (d : Dev) (n : Nat) (x : Die) : (d.setDie n x).boot = d.boot := rfl

/-! ### Dev.setCore -/

@[simp] theorem Dev.setCore_now (d : Dev) (n : Nat) (x : CoreRec) : (d.setCore n x).now = d.now := rfl
@[simp] theorem Dev.setCore_free (d : Dev) (n : Nat) (x : CoreRec) : (d.setCore n x).free = d.free := rfl
@[simp] theorem Dev.setCore_out (d : Dev) (n : Nat) (x : CoreRec) : (d.setCore n x).out = d.out := rfl
@[simp] theorem Dev.setCore_adm (d : Dev) (n : Nat) (x : CoreRec) : (d.setCore n x).adm = d.adm := rfl
@[simp] theorem Dev.setCore_bar2 (d : Dev) (n : Nat) (x : CoreRec) : (d.setCore n x).bar2 = d.bar2 := rfl
@[simp] theorem Dev.setCore_numVfs (d : Dev) (n : Nat) (x : CoreRec) : (d.setCore n x).numVfs = d.numVfs := rfl
@[simp] theorem Dev.setCore_aer (d : Dev) (n : Nat) (x : CoreRec) : (d.setCore n x).aer = d.aer := rfl
@[simp] theorem Dev.setCore_queues (d : Dev) (n : Nat) (x : CoreRec) : (d.setCore n x).queues = d.queues := rfl
@[simp] theorem Dev.setCore_lastServed (d : Dev) (n : Nat) (x : CoreRec) : (d.setCore n x).lastServed = d.lastServed := rfl
@[simp] theorem Dev.setCore_flights (d : Dev) (n : Nat) (x : CoreRec) : (d.setCore n x).flights = d.flights := rfl
@[simp] theorem Dev.setCore_nextFlight (d : Dev) (n : Nat) (x : CoreRec) : (d.setCore n x).nextFlight = d.nextFlight := rfl
@[simp] theorem Dev.setCore_fns (d : Dev) (n : Nat) (x : CoreRec) : (d.setCore n x).fns = d.fns := rfl
@[simp] theorem Dev.setCore_rxMbox (d : Dev) (n : Nat) (x : CoreRec) : (d.setCore n x).rxMbox = d.rxMbox := rfl
@[simp] theorem Dev.setCore_txMbox (d : Dev) (n : Nat) (x : CoreRec) : (d.setCore n x).txMbox = d.txMbox := rfl
@[simp] theorem Dev.setCore_pads (d : Dev) (n : Nat) (x : CoreRec) : (d.setCore n x).pads = d.pads := rfl
@[simp] theorem Dev.setCore_saved (d : Dev) (n : Nat) (x : CoreRec) : (d.setCore n x).saved = d.saved := rfl
@[simp] theorem Dev.setCore_switches (d : Dev) (n : Nat) (x : CoreRec) : (d.setCore n x).switches = d.switches := rfl
@[simp] theorem Dev.setCore_plans (d : Dev) (n : Nat) (x : CoreRec) : (d.setCore n x).plans = d.plans := rfl
@[simp] theorem Dev.setCore_runs (d : Dev) (n : Nat) (x : CoreRec) : (d.setCore n x).runs = d.runs := rfl
@[simp] theorem Dev.setCore_acc (d : Dev) (n : Nat) (x : CoreRec) : (d.setCore n x).acc = d.acc := rfl
@[simp] theorem Dev.setCore_soft (d : Dev) (n : Nat) (x : CoreRec) : (d.setCore n x).soft = d.soft := rfl
@[simp] theorem Dev.setCore_absent (d : Dev) (n : Nat) (x : CoreRec) : (d.setCore n x).absent = d.absent := rfl
@[simp] theorem Dev.setCore_seqs (d : Dev) (n : Nat) (x : CoreRec) : (d.setCore n x).seqs = d.seqs := rfl
@[simp] theorem Dev.setCore_groups (d : Dev) (n : Nat) (x : CoreRec) : (d.setCore n x).groups = d.groups := rfl
@[simp] theorem Dev.setCore_colls (d : Dev) (n : Nat) (x : CoreRec) : (d.setCore n x).colls = d.colls := rfl
@[simp] theorem Dev.setCore_streams (d : Dev) (n : Nat) (x : CoreRec) : (d.setCore n x).streams = d.streams := rfl
@[simp] theorem Dev.setCore_engines (d : Dev) (n : Nat) (x : CoreRec) : (d.setCore n x).engines = d.engines := rfl
@[simp] theorem Dev.setCore_features (d : Dev) (n : Nat) (x : CoreRec) : (d.setCore n x).features = d.features := rfl
@[simp] theorem Dev.setCore_keys (d : Dev) (n : Nat) (x : CoreRec) : (d.setCore n x).keys = d.keys := rfl
@[simp] theorem Dev.setCore_hbm (d : Dev) (n : Nat) (x : CoreRec) : (d.setCore n x).hbm = d.hbm := rfl
@[simp] theorem Dev.setCore_host (d : Dev) (n : Nat) (x : CoreRec) : (d.setCore n x).host = d.host := rfl
@[simp] theorem Dev.setCore_sram (d : Dev) (n : Nat) (x : CoreRec) : (d.setCore n x).sram = d.sram := rfl
@[simp] theorem Dev.setCore_stacks (d : Dev) (n : Nat) (x : CoreRec) : (d.setCore n x).stackTab = d.stackTab := rfl
@[simp] theorem Dev.setCore_chanErr (d : Dev) (n : Nat) (x : CoreRec) : (d.setCore n x).chanErr = d.chanErr := rfl
@[simp] theorem Dev.setCore_poison (d : Dev) (n : Nat) (x : CoreRec) : (d.setCore n x).poison = d.poison := rfl
@[simp] theorem Dev.setCore_link (d : Dev) (n : Nat) (x : CoreRec) : (d.setCore n x).link = d.link := rfl
@[simp] theorem Dev.setCore_ports (d : Dev) (n : Nat) (x : CoreRec) : (d.setCore n x).ports = d.ports := rfl
@[simp] theorem Dev.setCore_route (d : Dev) (n : Nat) (x : CoreRec) : (d.setCore n x).route = d.route := rfl
@[simp] theorem Dev.setCore_routeGen (d : Dev) (n : Nat) (x : CoreRec) : (d.setCore n x).routeGen = d.routeGen := rfl
@[simp] theorem Dev.setCore_sent (d : Dev) (n : Nat) (x : CoreRec) : (d.setCore n x).sent = d.sent := rfl
@[simp] theorem Dev.setCore_outq (d : Dev) (n : Nat) (x : CoreRec) : (d.setCore n x).outq = d.outq := rfl
@[simp] theorem Dev.setCore_sendSeq (d : Dev) (n : Nat) (x : CoreRec) : (d.setCore n x).sendSeq = d.sendSeq := rfl
@[simp] theorem Dev.setCore_recvSeq (d : Dev) (n : Nat) (x : CoreRec) : (d.setCore n x).recvSeq = d.recvSeq := rfl
@[simp] theorem Dev.setCore_gtc (d : Dev) (n : Nat) (x : CoreRec) : (d.setCore n x).gtc = d.gtc := rfl
@[simp] theorem Dev.setCore_dies (d : Dev) (n : Nat) (x : CoreRec) : (d.setCore n x).dies = d.dies := rfl
@[simp] theorem Dev.setCore_sheds (d : Dev) (n : Nat) (x : CoreRec) : (d.setCore n x).sheds = d.sheds := rfl
@[simp] theorem Dev.setCore_supply (d : Dev) (n : Nat) (x : CoreRec) : (d.setCore n x).supply = d.supply := rfl
@[simp] theorem Dev.setCore_pll (d : Dev) (n : Nat) (x : CoreRec) : (d.setCore n x).pll = d.pll := rfl
@[simp] theorem Dev.setCore_devPower (d : Dev) (n : Nat) (x : CoreRec) : (d.setCore n x).devPower = d.devPower := rfl
@[simp] theorem Dev.setCore_restSince (d : Dev) (n : Nat) (x : CoreRec) : (d.setCore n x).restSince = d.restSince := rfl
@[simp] theorem Dev.setCore_cap (d : Dev) (n : Nat) (x : CoreRec) : (d.setCore n x).cap = d.cap := rfl
@[simp] theorem Dev.setCore_capSince (d : Dev) (n : Nat) (x : CoreRec) : (d.setCore n x).capSince = d.capSince := rfl
@[simp] theorem Dev.setCore_capLast (d : Dev) (n : Nat) (x : CoreRec) : (d.setCore n x).capLast = d.capLast := rfl
@[simp] theorem Dev.setCore_fallow (d : Dev) (n : Nat) (x : CoreRec) : (d.setCore n x).fallow = d.fallow := rfl
@[simp] theorem Dev.setCore_cores (d : Dev) (n : Nat) (x : CoreRec) : (d.setCore n x).cores = KV.put d.cores n x := rfl
@[simp] theorem Dev.setCore_eth (d : Dev) (n : Nat) (x : CoreRec) : (d.setCore n x).eth = d.eth := rfl
@[simp] theorem Dev.setCore_qps (d : Dev) (n : Nat) (x : CoreRec) : (d.setCore n x).qps = d.qps := rfl
@[simp] theorem Dev.setCore_i3c (d : Dev) (n : Nat) (x : CoreRec) : (d.setCore n x).i3c = d.i3c := rfl
@[simp] theorem Dev.setCore_jtag (d : Dev) (n : Nat) (x : CoreRec) : (d.setCore n x).jtag = d.jtag := rfl
@[simp] theorem Dev.setCore_boot (d : Dev) (n : Nat) (x : CoreRec) : (d.setCore n x).boot = d.boot := rfl

/-! ### Dev.updPlan -/

@[simp] theorem Dev.updPlan_now (d : Dev) (n : Nat) (g : Plan → Plan) : (d.updPlan n g).now = d.now := rfl
@[simp] theorem Dev.updPlan_free (d : Dev) (n : Nat) (g : Plan → Plan) : (d.updPlan n g).free = d.free := rfl
@[simp] theorem Dev.updPlan_out (d : Dev) (n : Nat) (g : Plan → Plan) : (d.updPlan n g).out = d.out := rfl
@[simp] theorem Dev.updPlan_adm (d : Dev) (n : Nat) (g : Plan → Plan) : (d.updPlan n g).adm = d.adm := rfl
@[simp] theorem Dev.updPlan_bar2 (d : Dev) (n : Nat) (g : Plan → Plan) : (d.updPlan n g).bar2 = d.bar2 := rfl
@[simp] theorem Dev.updPlan_numVfs (d : Dev) (n : Nat) (g : Plan → Plan) : (d.updPlan n g).numVfs = d.numVfs := rfl
@[simp] theorem Dev.updPlan_aer (d : Dev) (n : Nat) (g : Plan → Plan) : (d.updPlan n g).aer = d.aer := rfl
@[simp] theorem Dev.updPlan_queues (d : Dev) (n : Nat) (g : Plan → Plan) : (d.updPlan n g).queues = d.queues := rfl
@[simp] theorem Dev.updPlan_lastServed (d : Dev) (n : Nat) (g : Plan → Plan) : (d.updPlan n g).lastServed = d.lastServed := rfl
@[simp] theorem Dev.updPlan_flights (d : Dev) (n : Nat) (g : Plan → Plan) : (d.updPlan n g).flights = d.flights := rfl
@[simp] theorem Dev.updPlan_nextFlight (d : Dev) (n : Nat) (g : Plan → Plan) : (d.updPlan n g).nextFlight = d.nextFlight := rfl
@[simp] theorem Dev.updPlan_fns (d : Dev) (n : Nat) (g : Plan → Plan) : (d.updPlan n g).fns = d.fns := rfl
@[simp] theorem Dev.updPlan_rxMbox (d : Dev) (n : Nat) (g : Plan → Plan) : (d.updPlan n g).rxMbox = d.rxMbox := rfl
@[simp] theorem Dev.updPlan_txMbox (d : Dev) (n : Nat) (g : Plan → Plan) : (d.updPlan n g).txMbox = d.txMbox := rfl
@[simp] theorem Dev.updPlan_pads (d : Dev) (n : Nat) (g : Plan → Plan) : (d.updPlan n g).pads = d.pads := rfl
@[simp] theorem Dev.updPlan_saved (d : Dev) (n : Nat) (g : Plan → Plan) : (d.updPlan n g).saved = d.saved := rfl
@[simp] theorem Dev.updPlan_switches (d : Dev) (n : Nat) (g : Plan → Plan) : (d.updPlan n g).switches = d.switches := rfl
@[simp] theorem Dev.updPlan_plans (d : Dev) (n : Nat) (g : Plan → Plan) : (d.updPlan n g).plans = KV.upd d.plans n g := rfl
@[simp] theorem Dev.updPlan_runs (d : Dev) (n : Nat) (g : Plan → Plan) : (d.updPlan n g).runs = d.runs := rfl
@[simp] theorem Dev.updPlan_acc (d : Dev) (n : Nat) (g : Plan → Plan) : (d.updPlan n g).acc = d.acc := rfl
@[simp] theorem Dev.updPlan_soft (d : Dev) (n : Nat) (g : Plan → Plan) : (d.updPlan n g).soft = d.soft := rfl
@[simp] theorem Dev.updPlan_absent (d : Dev) (n : Nat) (g : Plan → Plan) : (d.updPlan n g).absent = d.absent := rfl
@[simp] theorem Dev.updPlan_seqs (d : Dev) (n : Nat) (g : Plan → Plan) : (d.updPlan n g).seqs = d.seqs := rfl
@[simp] theorem Dev.updPlan_groups (d : Dev) (n : Nat) (g : Plan → Plan) : (d.updPlan n g).groups = d.groups := rfl
@[simp] theorem Dev.updPlan_colls (d : Dev) (n : Nat) (g : Plan → Plan) : (d.updPlan n g).colls = d.colls := rfl
@[simp] theorem Dev.updPlan_streams (d : Dev) (n : Nat) (g : Plan → Plan) : (d.updPlan n g).streams = d.streams := rfl
@[simp] theorem Dev.updPlan_engines (d : Dev) (n : Nat) (g : Plan → Plan) : (d.updPlan n g).engines = d.engines := rfl
@[simp] theorem Dev.updPlan_features (d : Dev) (n : Nat) (g : Plan → Plan) : (d.updPlan n g).features = d.features := rfl
@[simp] theorem Dev.updPlan_keys (d : Dev) (n : Nat) (g : Plan → Plan) : (d.updPlan n g).keys = d.keys := rfl
@[simp] theorem Dev.updPlan_hbm (d : Dev) (n : Nat) (g : Plan → Plan) : (d.updPlan n g).hbm = d.hbm := rfl
@[simp] theorem Dev.updPlan_host (d : Dev) (n : Nat) (g : Plan → Plan) : (d.updPlan n g).host = d.host := rfl
@[simp] theorem Dev.updPlan_sram (d : Dev) (n : Nat) (g : Plan → Plan) : (d.updPlan n g).sram = d.sram := rfl
@[simp] theorem Dev.updPlan_stacks (d : Dev) (n : Nat) (g : Plan → Plan) : (d.updPlan n g).stackTab = d.stackTab := rfl
@[simp] theorem Dev.updPlan_chanErr (d : Dev) (n : Nat) (g : Plan → Plan) : (d.updPlan n g).chanErr = d.chanErr := rfl
@[simp] theorem Dev.updPlan_poison (d : Dev) (n : Nat) (g : Plan → Plan) : (d.updPlan n g).poison = d.poison := rfl
@[simp] theorem Dev.updPlan_link (d : Dev) (n : Nat) (g : Plan → Plan) : (d.updPlan n g).link = d.link := rfl
@[simp] theorem Dev.updPlan_ports (d : Dev) (n : Nat) (g : Plan → Plan) : (d.updPlan n g).ports = d.ports := rfl
@[simp] theorem Dev.updPlan_route (d : Dev) (n : Nat) (g : Plan → Plan) : (d.updPlan n g).route = d.route := rfl
@[simp] theorem Dev.updPlan_routeGen (d : Dev) (n : Nat) (g : Plan → Plan) : (d.updPlan n g).routeGen = d.routeGen := rfl
@[simp] theorem Dev.updPlan_sent (d : Dev) (n : Nat) (g : Plan → Plan) : (d.updPlan n g).sent = d.sent := rfl
@[simp] theorem Dev.updPlan_outq (d : Dev) (n : Nat) (g : Plan → Plan) : (d.updPlan n g).outq = d.outq := rfl
@[simp] theorem Dev.updPlan_sendSeq (d : Dev) (n : Nat) (g : Plan → Plan) : (d.updPlan n g).sendSeq = d.sendSeq := rfl
@[simp] theorem Dev.updPlan_recvSeq (d : Dev) (n : Nat) (g : Plan → Plan) : (d.updPlan n g).recvSeq = d.recvSeq := rfl
@[simp] theorem Dev.updPlan_gtc (d : Dev) (n : Nat) (g : Plan → Plan) : (d.updPlan n g).gtc = d.gtc := rfl
@[simp] theorem Dev.updPlan_dies (d : Dev) (n : Nat) (g : Plan → Plan) : (d.updPlan n g).dies = d.dies := rfl
@[simp] theorem Dev.updPlan_sheds (d : Dev) (n : Nat) (g : Plan → Plan) : (d.updPlan n g).sheds = d.sheds := rfl
@[simp] theorem Dev.updPlan_supply (d : Dev) (n : Nat) (g : Plan → Plan) : (d.updPlan n g).supply = d.supply := rfl
@[simp] theorem Dev.updPlan_pll (d : Dev) (n : Nat) (g : Plan → Plan) : (d.updPlan n g).pll = d.pll := rfl
@[simp] theorem Dev.updPlan_devPower (d : Dev) (n : Nat) (g : Plan → Plan) : (d.updPlan n g).devPower = d.devPower := rfl
@[simp] theorem Dev.updPlan_restSince (d : Dev) (n : Nat) (g : Plan → Plan) : (d.updPlan n g).restSince = d.restSince := rfl
@[simp] theorem Dev.updPlan_cap (d : Dev) (n : Nat) (g : Plan → Plan) : (d.updPlan n g).cap = d.cap := rfl
@[simp] theorem Dev.updPlan_capSince (d : Dev) (n : Nat) (g : Plan → Plan) : (d.updPlan n g).capSince = d.capSince := rfl
@[simp] theorem Dev.updPlan_capLast (d : Dev) (n : Nat) (g : Plan → Plan) : (d.updPlan n g).capLast = d.capLast := rfl
@[simp] theorem Dev.updPlan_fallow (d : Dev) (n : Nat) (g : Plan → Plan) : (d.updPlan n g).fallow = d.fallow := rfl
@[simp] theorem Dev.updPlan_cores (d : Dev) (n : Nat) (g : Plan → Plan) : (d.updPlan n g).cores = d.cores := rfl
@[simp] theorem Dev.updPlan_eth (d : Dev) (n : Nat) (g : Plan → Plan) : (d.updPlan n g).eth = d.eth := rfl
@[simp] theorem Dev.updPlan_qps (d : Dev) (n : Nat) (g : Plan → Plan) : (d.updPlan n g).qps = d.qps := rfl
@[simp] theorem Dev.updPlan_i3c (d : Dev) (n : Nat) (g : Plan → Plan) : (d.updPlan n g).i3c = d.i3c := rfl
@[simp] theorem Dev.updPlan_jtag (d : Dev) (n : Nat) (g : Plan → Plan) : (d.updPlan n g).jtag = d.jtag := rfl
@[simp] theorem Dev.updPlan_boot (d : Dev) (n : Nat) (g : Plan → Plan) : (d.updPlan n g).boot = d.boot := rfl

/-! ### Dev.updRun -/

@[simp] theorem Dev.updRun_now (d : Dev) (n : Nat) (g : Run → Run) : (d.updRun n g).now = d.now := rfl
@[simp] theorem Dev.updRun_free (d : Dev) (n : Nat) (g : Run → Run) : (d.updRun n g).free = d.free := rfl
@[simp] theorem Dev.updRun_out (d : Dev) (n : Nat) (g : Run → Run) : (d.updRun n g).out = d.out := rfl
@[simp] theorem Dev.updRun_adm (d : Dev) (n : Nat) (g : Run → Run) : (d.updRun n g).adm = d.adm := rfl
@[simp] theorem Dev.updRun_bar2 (d : Dev) (n : Nat) (g : Run → Run) : (d.updRun n g).bar2 = d.bar2 := rfl
@[simp] theorem Dev.updRun_numVfs (d : Dev) (n : Nat) (g : Run → Run) : (d.updRun n g).numVfs = d.numVfs := rfl
@[simp] theorem Dev.updRun_aer (d : Dev) (n : Nat) (g : Run → Run) : (d.updRun n g).aer = d.aer := rfl
@[simp] theorem Dev.updRun_queues (d : Dev) (n : Nat) (g : Run → Run) : (d.updRun n g).queues = d.queues := rfl
@[simp] theorem Dev.updRun_lastServed (d : Dev) (n : Nat) (g : Run → Run) : (d.updRun n g).lastServed = d.lastServed := rfl
@[simp] theorem Dev.updRun_flights (d : Dev) (n : Nat) (g : Run → Run) : (d.updRun n g).flights = d.flights := rfl
@[simp] theorem Dev.updRun_nextFlight (d : Dev) (n : Nat) (g : Run → Run) : (d.updRun n g).nextFlight = d.nextFlight := rfl
@[simp] theorem Dev.updRun_fns (d : Dev) (n : Nat) (g : Run → Run) : (d.updRun n g).fns = d.fns := rfl
@[simp] theorem Dev.updRun_rxMbox (d : Dev) (n : Nat) (g : Run → Run) : (d.updRun n g).rxMbox = d.rxMbox := rfl
@[simp] theorem Dev.updRun_txMbox (d : Dev) (n : Nat) (g : Run → Run) : (d.updRun n g).txMbox = d.txMbox := rfl
@[simp] theorem Dev.updRun_pads (d : Dev) (n : Nat) (g : Run → Run) : (d.updRun n g).pads = d.pads := rfl
@[simp] theorem Dev.updRun_saved (d : Dev) (n : Nat) (g : Run → Run) : (d.updRun n g).saved = d.saved := rfl
@[simp] theorem Dev.updRun_switches (d : Dev) (n : Nat) (g : Run → Run) : (d.updRun n g).switches = d.switches := rfl
@[simp] theorem Dev.updRun_plans (d : Dev) (n : Nat) (g : Run → Run) : (d.updRun n g).plans = d.plans := rfl
@[simp] theorem Dev.updRun_runs (d : Dev) (n : Nat) (g : Run → Run) : (d.updRun n g).runs = KV.upd d.runs n g := rfl
@[simp] theorem Dev.updRun_acc (d : Dev) (n : Nat) (g : Run → Run) : (d.updRun n g).acc = d.acc := rfl
@[simp] theorem Dev.updRun_soft (d : Dev) (n : Nat) (g : Run → Run) : (d.updRun n g).soft = d.soft := rfl
@[simp] theorem Dev.updRun_absent (d : Dev) (n : Nat) (g : Run → Run) : (d.updRun n g).absent = d.absent := rfl
@[simp] theorem Dev.updRun_seqs (d : Dev) (n : Nat) (g : Run → Run) : (d.updRun n g).seqs = d.seqs := rfl
@[simp] theorem Dev.updRun_groups (d : Dev) (n : Nat) (g : Run → Run) : (d.updRun n g).groups = d.groups := rfl
@[simp] theorem Dev.updRun_colls (d : Dev) (n : Nat) (g : Run → Run) : (d.updRun n g).colls = d.colls := rfl
@[simp] theorem Dev.updRun_streams (d : Dev) (n : Nat) (g : Run → Run) : (d.updRun n g).streams = d.streams := rfl
@[simp] theorem Dev.updRun_engines (d : Dev) (n : Nat) (g : Run → Run) : (d.updRun n g).engines = d.engines := rfl
@[simp] theorem Dev.updRun_features (d : Dev) (n : Nat) (g : Run → Run) : (d.updRun n g).features = d.features := rfl
@[simp] theorem Dev.updRun_keys (d : Dev) (n : Nat) (g : Run → Run) : (d.updRun n g).keys = d.keys := rfl
@[simp] theorem Dev.updRun_hbm (d : Dev) (n : Nat) (g : Run → Run) : (d.updRun n g).hbm = d.hbm := rfl
@[simp] theorem Dev.updRun_host (d : Dev) (n : Nat) (g : Run → Run) : (d.updRun n g).host = d.host := rfl
@[simp] theorem Dev.updRun_sram (d : Dev) (n : Nat) (g : Run → Run) : (d.updRun n g).sram = d.sram := rfl
@[simp] theorem Dev.updRun_stacks (d : Dev) (n : Nat) (g : Run → Run) : (d.updRun n g).stackTab = d.stackTab := rfl
@[simp] theorem Dev.updRun_chanErr (d : Dev) (n : Nat) (g : Run → Run) : (d.updRun n g).chanErr = d.chanErr := rfl
@[simp] theorem Dev.updRun_poison (d : Dev) (n : Nat) (g : Run → Run) : (d.updRun n g).poison = d.poison := rfl
@[simp] theorem Dev.updRun_link (d : Dev) (n : Nat) (g : Run → Run) : (d.updRun n g).link = d.link := rfl
@[simp] theorem Dev.updRun_ports (d : Dev) (n : Nat) (g : Run → Run) : (d.updRun n g).ports = d.ports := rfl
@[simp] theorem Dev.updRun_route (d : Dev) (n : Nat) (g : Run → Run) : (d.updRun n g).route = d.route := rfl
@[simp] theorem Dev.updRun_routeGen (d : Dev) (n : Nat) (g : Run → Run) : (d.updRun n g).routeGen = d.routeGen := rfl
@[simp] theorem Dev.updRun_sent (d : Dev) (n : Nat) (g : Run → Run) : (d.updRun n g).sent = d.sent := rfl
@[simp] theorem Dev.updRun_outq (d : Dev) (n : Nat) (g : Run → Run) : (d.updRun n g).outq = d.outq := rfl
@[simp] theorem Dev.updRun_sendSeq (d : Dev) (n : Nat) (g : Run → Run) : (d.updRun n g).sendSeq = d.sendSeq := rfl
@[simp] theorem Dev.updRun_recvSeq (d : Dev) (n : Nat) (g : Run → Run) : (d.updRun n g).recvSeq = d.recvSeq := rfl
@[simp] theorem Dev.updRun_gtc (d : Dev) (n : Nat) (g : Run → Run) : (d.updRun n g).gtc = d.gtc := rfl
@[simp] theorem Dev.updRun_dies (d : Dev) (n : Nat) (g : Run → Run) : (d.updRun n g).dies = d.dies := rfl
@[simp] theorem Dev.updRun_sheds (d : Dev) (n : Nat) (g : Run → Run) : (d.updRun n g).sheds = d.sheds := rfl
@[simp] theorem Dev.updRun_supply (d : Dev) (n : Nat) (g : Run → Run) : (d.updRun n g).supply = d.supply := rfl
@[simp] theorem Dev.updRun_pll (d : Dev) (n : Nat) (g : Run → Run) : (d.updRun n g).pll = d.pll := rfl
@[simp] theorem Dev.updRun_devPower (d : Dev) (n : Nat) (g : Run → Run) : (d.updRun n g).devPower = d.devPower := rfl
@[simp] theorem Dev.updRun_restSince (d : Dev) (n : Nat) (g : Run → Run) : (d.updRun n g).restSince = d.restSince := rfl
@[simp] theorem Dev.updRun_cap (d : Dev) (n : Nat) (g : Run → Run) : (d.updRun n g).cap = d.cap := rfl
@[simp] theorem Dev.updRun_capSince (d : Dev) (n : Nat) (g : Run → Run) : (d.updRun n g).capSince = d.capSince := rfl
@[simp] theorem Dev.updRun_capLast (d : Dev) (n : Nat) (g : Run → Run) : (d.updRun n g).capLast = d.capLast := rfl
@[simp] theorem Dev.updRun_fallow (d : Dev) (n : Nat) (g : Run → Run) : (d.updRun n g).fallow = d.fallow := rfl
@[simp] theorem Dev.updRun_cores (d : Dev) (n : Nat) (g : Run → Run) : (d.updRun n g).cores = d.cores := rfl
@[simp] theorem Dev.updRun_eth (d : Dev) (n : Nat) (g : Run → Run) : (d.updRun n g).eth = d.eth := rfl
@[simp] theorem Dev.updRun_qps (d : Dev) (n : Nat) (g : Run → Run) : (d.updRun n g).qps = d.qps := rfl
@[simp] theorem Dev.updRun_i3c (d : Dev) (n : Nat) (g : Run → Run) : (d.updRun n g).i3c = d.i3c := rfl
@[simp] theorem Dev.updRun_jtag (d : Dev) (n : Nat) (g : Run → Run) : (d.updRun n g).jtag = d.jtag := rfl
@[simp] theorem Dev.updRun_boot (d : Dev) (n : Nat) (g : Run → Run) : (d.updRun n g).boot = d.boot := rfl

/-! ### Dev.updSeq -/

@[simp] theorem Dev.updSeq_now (d : Dev) (n : Nat) (g : Seq → Seq) : (d.updSeq n g).now = d.now := rfl
@[simp] theorem Dev.updSeq_free (d : Dev) (n : Nat) (g : Seq → Seq) : (d.updSeq n g).free = d.free := rfl
@[simp] theorem Dev.updSeq_out (d : Dev) (n : Nat) (g : Seq → Seq) : (d.updSeq n g).out = d.out := rfl
@[simp] theorem Dev.updSeq_adm (d : Dev) (n : Nat) (g : Seq → Seq) : (d.updSeq n g).adm = d.adm := rfl
@[simp] theorem Dev.updSeq_bar2 (d : Dev) (n : Nat) (g : Seq → Seq) : (d.updSeq n g).bar2 = d.bar2 := rfl
@[simp] theorem Dev.updSeq_numVfs (d : Dev) (n : Nat) (g : Seq → Seq) : (d.updSeq n g).numVfs = d.numVfs := rfl
@[simp] theorem Dev.updSeq_aer (d : Dev) (n : Nat) (g : Seq → Seq) : (d.updSeq n g).aer = d.aer := rfl
@[simp] theorem Dev.updSeq_queues (d : Dev) (n : Nat) (g : Seq → Seq) : (d.updSeq n g).queues = d.queues := rfl
@[simp] theorem Dev.updSeq_lastServed (d : Dev) (n : Nat) (g : Seq → Seq) : (d.updSeq n g).lastServed = d.lastServed := rfl
@[simp] theorem Dev.updSeq_flights (d : Dev) (n : Nat) (g : Seq → Seq) : (d.updSeq n g).flights = d.flights := rfl
@[simp] theorem Dev.updSeq_nextFlight (d : Dev) (n : Nat) (g : Seq → Seq) : (d.updSeq n g).nextFlight = d.nextFlight := rfl
@[simp] theorem Dev.updSeq_fns (d : Dev) (n : Nat) (g : Seq → Seq) : (d.updSeq n g).fns = d.fns := rfl
@[simp] theorem Dev.updSeq_rxMbox (d : Dev) (n : Nat) (g : Seq → Seq) : (d.updSeq n g).rxMbox = d.rxMbox := rfl
@[simp] theorem Dev.updSeq_txMbox (d : Dev) (n : Nat) (g : Seq → Seq) : (d.updSeq n g).txMbox = d.txMbox := rfl
@[simp] theorem Dev.updSeq_pads (d : Dev) (n : Nat) (g : Seq → Seq) : (d.updSeq n g).pads = d.pads := rfl
@[simp] theorem Dev.updSeq_saved (d : Dev) (n : Nat) (g : Seq → Seq) : (d.updSeq n g).saved = d.saved := rfl
@[simp] theorem Dev.updSeq_switches (d : Dev) (n : Nat) (g : Seq → Seq) : (d.updSeq n g).switches = d.switches := rfl
@[simp] theorem Dev.updSeq_plans (d : Dev) (n : Nat) (g : Seq → Seq) : (d.updSeq n g).plans = d.plans := rfl
@[simp] theorem Dev.updSeq_runs (d : Dev) (n : Nat) (g : Seq → Seq) : (d.updSeq n g).runs = d.runs := rfl
@[simp] theorem Dev.updSeq_acc (d : Dev) (n : Nat) (g : Seq → Seq) : (d.updSeq n g).acc = d.acc := rfl
@[simp] theorem Dev.updSeq_soft (d : Dev) (n : Nat) (g : Seq → Seq) : (d.updSeq n g).soft = d.soft := rfl
@[simp] theorem Dev.updSeq_absent (d : Dev) (n : Nat) (g : Seq → Seq) : (d.updSeq n g).absent = d.absent := rfl
@[simp] theorem Dev.updSeq_seqs (d : Dev) (n : Nat) (g : Seq → Seq) : (d.updSeq n g).seqs = KV.upd d.seqs n g := rfl
@[simp] theorem Dev.updSeq_groups (d : Dev) (n : Nat) (g : Seq → Seq) : (d.updSeq n g).groups = d.groups := rfl
@[simp] theorem Dev.updSeq_colls (d : Dev) (n : Nat) (g : Seq → Seq) : (d.updSeq n g).colls = d.colls := rfl
@[simp] theorem Dev.updSeq_streams (d : Dev) (n : Nat) (g : Seq → Seq) : (d.updSeq n g).streams = d.streams := rfl
@[simp] theorem Dev.updSeq_engines (d : Dev) (n : Nat) (g : Seq → Seq) : (d.updSeq n g).engines = d.engines := rfl
@[simp] theorem Dev.updSeq_features (d : Dev) (n : Nat) (g : Seq → Seq) : (d.updSeq n g).features = d.features := rfl
@[simp] theorem Dev.updSeq_keys (d : Dev) (n : Nat) (g : Seq → Seq) : (d.updSeq n g).keys = d.keys := rfl
@[simp] theorem Dev.updSeq_hbm (d : Dev) (n : Nat) (g : Seq → Seq) : (d.updSeq n g).hbm = d.hbm := rfl
@[simp] theorem Dev.updSeq_host (d : Dev) (n : Nat) (g : Seq → Seq) : (d.updSeq n g).host = d.host := rfl
@[simp] theorem Dev.updSeq_sram (d : Dev) (n : Nat) (g : Seq → Seq) : (d.updSeq n g).sram = d.sram := rfl
@[simp] theorem Dev.updSeq_stacks (d : Dev) (n : Nat) (g : Seq → Seq) : (d.updSeq n g).stackTab = d.stackTab := rfl
@[simp] theorem Dev.updSeq_chanErr (d : Dev) (n : Nat) (g : Seq → Seq) : (d.updSeq n g).chanErr = d.chanErr := rfl
@[simp] theorem Dev.updSeq_poison (d : Dev) (n : Nat) (g : Seq → Seq) : (d.updSeq n g).poison = d.poison := rfl
@[simp] theorem Dev.updSeq_link (d : Dev) (n : Nat) (g : Seq → Seq) : (d.updSeq n g).link = d.link := rfl
@[simp] theorem Dev.updSeq_ports (d : Dev) (n : Nat) (g : Seq → Seq) : (d.updSeq n g).ports = d.ports := rfl
@[simp] theorem Dev.updSeq_route (d : Dev) (n : Nat) (g : Seq → Seq) : (d.updSeq n g).route = d.route := rfl
@[simp] theorem Dev.updSeq_routeGen (d : Dev) (n : Nat) (g : Seq → Seq) : (d.updSeq n g).routeGen = d.routeGen := rfl
@[simp] theorem Dev.updSeq_sent (d : Dev) (n : Nat) (g : Seq → Seq) : (d.updSeq n g).sent = d.sent := rfl
@[simp] theorem Dev.updSeq_outq (d : Dev) (n : Nat) (g : Seq → Seq) : (d.updSeq n g).outq = d.outq := rfl
@[simp] theorem Dev.updSeq_sendSeq (d : Dev) (n : Nat) (g : Seq → Seq) : (d.updSeq n g).sendSeq = d.sendSeq := rfl
@[simp] theorem Dev.updSeq_recvSeq (d : Dev) (n : Nat) (g : Seq → Seq) : (d.updSeq n g).recvSeq = d.recvSeq := rfl
@[simp] theorem Dev.updSeq_gtc (d : Dev) (n : Nat) (g : Seq → Seq) : (d.updSeq n g).gtc = d.gtc := rfl
@[simp] theorem Dev.updSeq_dies (d : Dev) (n : Nat) (g : Seq → Seq) : (d.updSeq n g).dies = d.dies := rfl
@[simp] theorem Dev.updSeq_sheds (d : Dev) (n : Nat) (g : Seq → Seq) : (d.updSeq n g).sheds = d.sheds := rfl
@[simp] theorem Dev.updSeq_supply (d : Dev) (n : Nat) (g : Seq → Seq) : (d.updSeq n g).supply = d.supply := rfl
@[simp] theorem Dev.updSeq_pll (d : Dev) (n : Nat) (g : Seq → Seq) : (d.updSeq n g).pll = d.pll := rfl
@[simp] theorem Dev.updSeq_devPower (d : Dev) (n : Nat) (g : Seq → Seq) : (d.updSeq n g).devPower = d.devPower := rfl
@[simp] theorem Dev.updSeq_restSince (d : Dev) (n : Nat) (g : Seq → Seq) : (d.updSeq n g).restSince = d.restSince := rfl
@[simp] theorem Dev.updSeq_cap (d : Dev) (n : Nat) (g : Seq → Seq) : (d.updSeq n g).cap = d.cap := rfl
@[simp] theorem Dev.updSeq_capSince (d : Dev) (n : Nat) (g : Seq → Seq) : (d.updSeq n g).capSince = d.capSince := rfl
@[simp] theorem Dev.updSeq_capLast (d : Dev) (n : Nat) (g : Seq → Seq) : (d.updSeq n g).capLast = d.capLast := rfl
@[simp] theorem Dev.updSeq_fallow (d : Dev) (n : Nat) (g : Seq → Seq) : (d.updSeq n g).fallow = d.fallow := rfl
@[simp] theorem Dev.updSeq_cores (d : Dev) (n : Nat) (g : Seq → Seq) : (d.updSeq n g).cores = d.cores := rfl
@[simp] theorem Dev.updSeq_eth (d : Dev) (n : Nat) (g : Seq → Seq) : (d.updSeq n g).eth = d.eth := rfl
@[simp] theorem Dev.updSeq_qps (d : Dev) (n : Nat) (g : Seq → Seq) : (d.updSeq n g).qps = d.qps := rfl
@[simp] theorem Dev.updSeq_i3c (d : Dev) (n : Nat) (g : Seq → Seq) : (d.updSeq n g).i3c = d.i3c := rfl
@[simp] theorem Dev.updSeq_jtag (d : Dev) (n : Nat) (g : Seq → Seq) : (d.updSeq n g).jtag = d.jtag := rfl
@[simp] theorem Dev.updSeq_boot (d : Dev) (n : Nat) (g : Seq → Seq) : (d.updSeq n g).boot = d.boot := rfl

end Sys2Proof.Machine
end

