-- ==== Sys2Proof/Laws/Ops.lean ====
section
/-! SUPPORT. What the shared operations do: interrupts, events and completions. -/
namespace Sys2Proof.Machine
open Sys2Proof

theorem Dev.Keeps.refl (d : Dev) : Dev.Keeps d d := by constructor <;> rfl

theorem Dev.Keeps.trans {a b c : Dev} (h : Dev.Keeps a b) (g : Dev.Keeps b c) : Dev.Keeps a c :=
  { now := g.now.trans h.now,
    free := g.free.trans h.free,
    adm := g.adm.trans h.adm,
    bar2 := g.bar2.trans h.bar2,
    numVfs := g.numVfs.trans h.numVfs,
    aer := g.aer.trans h.aer,
    lastServed := g.lastServed.trans h.lastServed,
    nextFlight := g.nextFlight.trans h.nextFlight,
    rxMbox := g.rxMbox.trans h.rxMbox,
    txMbox := g.txMbox.trans h.txMbox,
    pads := g.pads.trans h.pads,
    saved := g.saved.trans h.saved,
    switches := g.switches.trans h.switches,
    plans := g.plans.trans h.plans,
    acc := g.acc.trans h.acc,
    soft := g.soft.trans h.soft,
    absent := g.absent.trans h.absent,
    groups := g.groups.trans h.groups,
    features := g.features.trans h.features,
    keys := g.keys.trans h.keys,
    hbm := g.hbm.trans h.hbm,
    sram := g.sram.trans h.sram,
    stackTab := g.stackTab.trans h.stackTab,
    chanErr := g.chanErr.trans h.chanErr,
    poison := g.poison.trans h.poison,
    link := g.link.trans h.link,
    ports := g.ports.trans h.ports,
    route := g.route.trans h.route,
    routeGen := g.routeGen.trans h.routeGen,
    sendSeq := g.sendSeq.trans h.sendSeq,
    recvSeq := g.recvSeq.trans h.recvSeq,
    gtc := g.gtc.trans h.gtc,
    dies := g.dies.trans h.dies,
    supply := g.supply.trans h.supply,
    pll := g.pll.trans h.pll,
    devPower := g.devPower.trans h.devPower,
    cap := g.cap.trans h.cap,
    capSince := g.capSince.trans h.capSince,
    capLast := g.capLast.trans h.capLast,
    fallow := g.fallow.trans h.fallow,
    cores := g.cores.trans h.cores,
    eth := g.eth.trans h.eth,
    qps := g.qps.trans h.qps,
    i3c := g.i3c.trans h.i3c,
    jtag := g.jtag.trans h.jtag,
    boot := g.boot.trans h.boot }

/-! ### Interrupts and events -/

theorem Dev.raise_keeps (d : Dev) (n v : Nat) : Dev.Keeps d (d.raise n v) := by
  unfold Dev.raise
  split
  · exact Dev.Keeps.refl d
  · dsimp only
    split <;> constructor <;> rfl

theorem Dev.coalesce_keeps (d : Dev) (n v : Nat) : Dev.Keeps d (d.coalesce n v) := by
  unfold Dev.coalesce
  dsimp only
  split
  · exact Dev.Keeps.trans (by constructor <;> rfl) (Dev.raise_keeps _ _ _)
  · constructor <;> rfl

theorem Dev.raiseN_keeps (n : Nat) : ∀ (k : Nat) (d : Dev), Dev.Keeps d (d.raiseN n k) := by
  intro k
  induction k with
  | zero => intro d; exact Dev.Keeps.refl d
  | succ k ih => intro d; exact (Dev.raise_keeps d n 1).trans (ih _)

theorem Dev.postTo_keeps (d : Dev) (n : Nat) (e : Event) : Dev.Keeps d (d.postTo n e) := by
  unfold Dev.postTo
  exact Dev.Keeps.trans (by constructor <;> rfl) (Dev.raiseN_keeps _ _ _)

theorem Dev.drainRing_keeps (d : Dev) (n : Nat) : Dev.Keeps d (d.drainRing n) := by
  unfold Dev.drainRing
  exact Dev.Keeps.trans (by constructor <;> rfl) (Dev.raiseN_keeps _ _ _)

theorem Dev.postD_keeps (d : Dev) (code source : Nat) (l : List Nat) : Dev.Keeps d (d.postD code source l) :=
  Dev.postTo_keeps _ _ _

theorem Dev.postP_keeps (d : Dev) (code pad source : Nat) (l : List Nat) : Dev.Keeps d (d.postP code pad source l) := by
  unfold Dev.postP
  suffices h : ∀ (ns : List Nat) (t : Dev) (e : Event), Dev.Keeps d t → Dev.Keeps d (ns.foldl (fun d n => d.postTo n e) t) from
    h _ _ _ (Dev.postTo_keeps _ _ _)
  intro ns
  induction ns with
  | nil => intro t e h; exact h
  | cons n ns ih => intro t e h; exact ih _ e (h.trans (Dev.postTo_keeps t n e))

/-! An interrupt leaves the flights, the queues and the host's memory. -/

@[simp] theorem Dev.raise_flights (d : Dev) (n v : Nat) : (d.raise n v).flights = d.flights := by
  unfold Dev.raise; split
  · rfl
  · dsimp only; split <;> rfl
@[simp] theorem Dev.raise_queues (d : Dev) (n v : Nat) : (d.raise n v).queues = d.queues := by
  unfold Dev.raise; split
  · rfl
  · dsimp only; split <;> rfl
@[simp] theorem Dev.raise_host (d : Dev) (n v : Nat) : (d.raise n v).host = d.host := by
  unfold Dev.raise; split
  · rfl
  · dsimp only; split <;> rfl
@[simp] theorem Dev.coalesce_flights (d : Dev) (n v : Nat) : (d.coalesce n v).flights = d.flights := by
  unfold Dev.coalesce; dsimp only; split <;> simp
@[simp] theorem Dev.coalesce_queues (d : Dev) (n v : Nat) : (d.coalesce n v).queues = d.queues := by
  unfold Dev.coalesce; dsimp only; split <;> simp
@[simp] theorem Dev.coalesce_host (d : Dev) (n v : Nat) : (d.coalesce n v).host = d.host := by
  unfold Dev.coalesce; dsimp only; split <;> simp

/-! ### Completions (R29, R33, R35, R39) -/

theorem Dev.setFlight_keeps (d : Dev) (f : Nat) (x : Flight) : Dev.Keeps d (d.setFlight f x) := by constructor <;> rfl
theorem Dev.updFlight_keeps (d : Dev) (f : Nat) (g : Flight → Flight) : Dev.Keeps d (d.updFlight f g) := by constructor <;> rfl
theorem Dev.setQueue_keeps (d : Dev) (q : Nat) (x : Queue) : Dev.Keeps d (d.setQueue q x) := by constructor <;> rfl
theorem Dev.letGo_keeps (d : Dev) (id : Nat) (f : Flight) : Dev.Keeps d (d.letGo id f) := by constructor <;> rfl
@[simp] theorem Dev.letGo_flights (d : Dev) (id : Nat) (f : Flight) : (d.letGo id f).flights = d.flights := rfl
@[simp] theorem Dev.letGo_queues (d : Dev) (id : Nat) (f : Flight) : (d.letGo id f).queues = d.queues := rfl
@[simp] theorem Dev.letGo_host (d : Dev) (id : Nat) (f : Flight) : (d.letGo id f).host = d.host := rfl

theorem Dev.leave_keeps (d : Dev) (id : Nat) (f : Flight) : Dev.Keeps d (d.leave id f) := by
  unfold Dev.leave
  dsimp only
  split <;> constructor <;> rfl
@[simp] theorem Dev.leave_queues (d : Dev) (id : Nat) (f : Flight) : (d.leave id f).queues = d.queues := by
  unfold Dev.leave; dsimp only; split <;> rfl
@[simp] theorem Dev.leave_host (d : Dev) (id : Nat) (f : Flight) : (d.leave id f).host = d.host := by
  unfold Dev.leave; dsimp only; split <;> rfl

theorem find_markFence_none (fl : KV Flight) (id q : Nat) (st : Status) (i : Nat) (h : KV.find fl i = none) :
    KV.find (markFence fl id q st) i = none := by
  unfold markFence
  split
  · exact h
  · rw [KV.find_mapV, h]; rfl

theorem Dev.leave_find (d : Dev) (id : Nat) (f : Flight) : KV.find (d.leave id f).flights id = none := by
  unfold Dev.leave
  dsimp only
  exact find_markFence_none _ _ _ _ _ (KV.find_del_same _ _)

theorem Dev.writeEntry_keeps (d : Dev) (id : Nat) (f : Flight) : Dev.Keeps d (d.writeEntry id f) := by
  unfold Dev.writeEntry
  dsimp only
  split
  · exact Dev.Keeps.trans (by constructor <;> rfl) (Dev.leave_keeps _ _ _)
  · exact (Dev.Keeps.trans (by constructor <;> rfl) (Dev.leave_keeps _ _ _)).trans (Dev.coalesce_keeps _ _ _)

/-- R126 touches only the flags of the entry. -/
@[simp] theorem Dev.fallbackFlag_queue (d : Dev) (f : Flight) : (d.fallbackFlag f).queue = f.queue := by
  unfold Dev.fallbackFlag; split <;> rfl
@[simp] theorem Dev.fallbackFlag_words (d : Dev) (f : Flight) : (d.fallbackFlag f).words = f.words := by
  unfold Dev.fallbackFlag; split <;> rfl
@[simp] theorem Dev.fallbackFlag_status (d : Dev) (f : Flight) : (d.fallbackFlag f).status = f.status := by
  unfold Dev.fallbackFlag; split <;> rfl
@[simp] theorem Dev.fallbackFlag_countA (d : Dev) (f : Flight) : (d.fallbackFlag f).countA = f.countA := by
  unfold Dev.fallbackFlag; split <;> rfl
@[simp] theorem Dev.fallbackFlag_countB (d : Dev) (f : Flight) : (d.fallbackFlag f).countB = f.countB := by
  unfold Dev.fallbackFlag; split <;> rfl

/-- R33: the entry is at CQ_TAIL, CQ_TAIL moves on, and the command is out of flight. -/
theorem Dev.writeEntry_spec (d : Dev) (id : Nat) (f : Flight) :
    let q := d.queue f.queue
    let t := d.writeEntry id f
    KV.find t.flights id = none ∧
    t.host = d.host.writes (q.cqBase + 32 * q.cqTail) ((d.fallbackFlag f).completion q.phase d.gtc.val) ∧
    t.queues = KV.put d.queues f.queue { q with
      cqTail := (q.cqTail + 1) % 2 ^ q.cqLog2,
      phase := if (q.cqTail + 1) % 2 ^ q.cqLog2 = 0 then !q.phase else q.phase } := by
  intro q t
  have hf := Dev.leave_find
  simp only [t, q, Dev.writeEntry, Dev.fallbackFlag_queue]
  split <;> simp [hf]

theorem Dev.retire_keeps (d : Dev) (id : Nat) (f : Flight) : Dev.Keeps d (d.retire id f) := by
  unfold Dev.retire
  dsimp only
  split
  · exact Dev.writeEntry_keeps _ _ _
  · exact (Dev.letGo_keeps d id (d.lateFlag f)).trans ((Dev.setFlight_keeps _ _ _).trans (Dev.setQueue_keeps _ _ _))

/-- A firmware fault's event leaves what an event leaves, and the commands and queues. -/
theorem Dev.postInternal_keeps (d : Dev) (id : Nat) (st : Status) (tag : Nat) : Dev.Keeps d (d.postInternal id st tag) := by
  unfold Dev.postInternal
  split
  · exact Dev.postD_keeps _ _ _ _
  · exact Dev.Keeps.refl d
theorem Dev.raiseN_flights (n : Nat) : ∀ (k : Nat) (d : Dev), (d.raiseN n k).flights = d.flights ∧ (d.raiseN n k).queues = d.queues := by
  intro k
  induction k with
  | zero => intro d; exact ⟨rfl, rfl⟩
  | succ k ih => intro d; simpa [Dev.raiseN] using ih (d.raise n 1)
@[simp] theorem Dev.postTo_flights (d : Dev) (n : Nat) (e : Event) : (d.postTo n e).flights = d.flights := (Dev.raiseN_flights _ _ _).1
@[simp] theorem Dev.postTo_queues (d : Dev) (n : Nat) (e : Event) : (d.postTo n e).queues = d.queues := (Dev.raiseN_flights _ _ _).2
@[simp] theorem Dev.postInternal_flights (d : Dev) (id : Nat) (st : Status) (tag : Nat) : (d.postInternal id st tag).flights = d.flights := by
  unfold Dev.postInternal Dev.postD; split <;> simp
@[simp] theorem Dev.postInternal_queues (d : Dev) (id : Nat) (st : Status) (tag : Nat) : (d.postInternal id st tag).queues = d.queues := by
  unfold Dev.postInternal Dev.postD; split <;> simp

theorem Dev.finish_keeps (d : Dev) (id : Nat) (st : Status) (a b : Nat) : Dev.Keeps d (d.finish id st a b) := by
  unfold Dev.finish
  split
  · exact Dev.Keeps.refl d
  · split
    · exact Dev.Keeps.refl d
    · exact (Dev.postInternal_keeps _ _ _ _).trans (Dev.retire_keeps _ _ _)

theorem Dev.finish64_keeps (d : Dev) (f : Nat) (st : Status) (v : Nat) : Dev.Keeps d (d.finish64 f st v) := Dev.finish_keeps _ _ _ _ _

/-- What a verdict leaves of the command: its queue and words. -/
@[simp] theorem Dev.runFlags_queue (d : Dev) (id : Nat) (f : Flight) : (d.runFlags id f).queue = f.queue := rfl
@[simp] theorem Dev.runFlags_words (d : Dev) (id : Nat) (f : Flight) : (d.runFlags id f).words = f.words := rfl
@[simp] theorem Dev.runFlags_status (d : Dev) (id : Nat) (f : Flight) : (d.runFlags id f).status = f.status := rfl
@[simp] theorem Dev.runFlags_countA (d : Dev) (id : Nat) (f : Flight) : (d.runFlags id f).countA = f.countA := rfl
@[simp] theorem Dev.runFlags_countB (d : Dev) (id : Nat) (f : Flight) : (d.runFlags id f).countB = f.countB := rfl

theorem fld_lt (n lo len : Nat) : fld n lo len < 2 ^ len := Nat.mod_lt _ (Nat.two_pow_pos len)
theorem Flight.tag_lt (x : Flight) : x.tag < 65536 := fld_lt _ _ 16
theorem Status.code_lt (s : Status) : s.code < 65536 := by cases s <;> decide

theorem Flight.length_completion (f : Flight) (p : Bool) (g : DWord) : (f.completion p g).length = 32 := by
  simp [Flight.completion, wordsLE, length_bytesLE]

theorem drop_bytesLE (k n v : Nat) (h : n ≤ k) : (bytesLE n v).drop k = [] := List.drop_of_length_le (by rw [length_bytesLE]; exact h)
theorem take_bytesLE (k n v : Nat) (h : n ≤ k) : (bytesLE n v).take k = bytesLE n v := List.take_of_length_le (by rw [length_bytesLE]; exact h)

theorem Flight.completion_word0 (f : Flight) (p : Bool) (g : DWord) :
    ((f.completion p g).drop 0).take 4 = bytesLE 4 (f.status.code * 65536 + f.tag) := by
  simp [Flight.completion, wordsLE, length_bytesLE]
theorem Flight.completion_word6 (f : Flight) (p : Bool) (g : DWord) :
    ((f.completion p g).drop 24).take 4 = bytesLE 4 (f.countA % 2 ^ 32) := by
  simp [Flight.completion, wordsLE, length_bytesLE, List.drop_append, drop_bytesLE]
theorem Flight.completion_word7 (f : Flight) (p : Bool) (g : DWord) :
    ((f.completion p g).drop 28).take 4 = bytesLE 4 (f.countB % 2 ^ 32) := by
  simp [Flight.completion, wordsLE, length_bytesLE, List.drop_append, drop_bytesLE]

theorem Memory.readLE_writes_part (m : Memory) (a : Nat) (bs : List Byte) (k n v : Nat) (h : k + n ≤ bs.length)
    (hv : (bs.drop k).take n = bytesLE n v) : (m.writes a bs).readLE (a + k) n = v % 256 ^ n := by
  rw [Memory.readLE, Memory.reads_writes_part _ _ _ _ _ h, hv, natLE_bytesLE]

/-- R33, R39: a command that ends while its ring has room leaves flight with the entry of Table 2.13. -/
theorem Dev.writeEntry_completed (d : Dev) (f : Nat) (x y : Flight) (hq : y.queue = x.queue) (hw : y.words = x.words) :
    Completed d (d.writeEntry f y) f x y.status y.countA y.countB := by
  obtain ⟨h1, h2, h3⟩ := Dev.writeEntry_spec d f y
  have hz := Dev.fallbackFlag_status d y
  have htag : (d.fallbackFlag y).tag = x.tag := by simp [Flight.tag, Flight.w, hw]
  have hl := Flight.length_completion (d.fallbackFlag y) (d.queue y.queue).phase d.gtc.val
  rw [hq] at h2 h3 hl
  refine ⟨h1, ?_, ?_, ?_, ?_⟩
  · rw [h2, entryAddr]
    have := Memory.readLE_writes_part d.host ((d.queue x.queue).cqBase + 32 * (d.queue x.queue).cqTail) _ 0 4 _ (by omega)
      (Flight.completion_word0 (d.fallbackFlag y) (d.queue x.queue).phase d.gtc.val)
    rw [Nat.add_zero] at this
    rw [this, htag, hz]
    have h5 := Flight.tag_lt x
    have h6 := Status.code_lt y.status
    exact Nat.mod_eq_of_lt (by omega)
  · rw [h2, entryAddr, Memory.readLE_writes_part _ _ _ 24 4 _ (by omega) (Flight.completion_word6 _ _ _), Dev.fallbackFlag_countA]
    exact Nat.mod_mod _ _
  · rw [h2, entryAddr, Memory.readLE_writes_part _ _ _ 28 4 _ (by omega) (Flight.completion_word7 _ _ _), Dev.fallbackFlag_countB]
    exact Nat.mod_mod _ _
  · simp [Dev.queue, h3]

@[simp] theorem Dev.lateFlag_queue (d : Dev) (f : Flight) : (d.lateFlag f).queue = f.queue := rfl
@[simp] theorem Dev.lateFlag_words (d : Dev) (f : Flight) : (d.lateFlag f).words = f.words := rfl
@[simp] theorem Dev.lateFlag_status (d : Dev) (f : Flight) : (d.lateFlag f).status = f.status := rfl
@[simp] theorem Dev.lateFlag_countA (d : Dev) (f : Flight) : (d.lateFlag f).countA = f.countA := rfl
@[simp] theorem Dev.lateFlag_countB (d : Dev) (f : Flight) : (d.lateFlag f).countB = f.countB := rfl

theorem Dev.retire_completed (d : Dev) (f : Nat) (x y : Flight) (hq : y.queue = x.queue) (hw : y.words = x.words) (hs : SlotFree d x) :
    Completed d (d.retire f y) f x y.status y.countA y.countB := by
  unfold Dev.retire
  simp only [Dev.lateFlag_queue, hq, hs.1, hs.2, List.isEmpty_nil, Bool.and_self, if_true]
  have h := Dev.writeEntry_completed d f x (d.lateFlag y) hq hw
  exact h

/-- Only the queues of the state before matter to a completion. -/
theorem Completed.of_queues {d e t : Dev} {f : Nat} {x : Flight} {st : Status} {a b : Nat} (hq : e.queues = d.queues)
    (h : Completed e t f x st a b) : Completed d t f x st a b := by
  simpa [Completed, entryAddr, Dev.queue, hq] using h

theorem Dev.finish_completed (d : Dev) (f : Nat) (x : Flight) (st : Status) (a b : Nat) (hf : KV.find d.flights f = some x)
    (hp : x.phase ≠ .finished) (hs : SlotFree d x) : Completed d (d.finish f st a b) f x st a b := by
  have hq := Dev.postInternal_queues d f st x.tag
  have hs' : SlotFree (d.postInternal f st x.tag) x := by simpa [SlotFree, Dev.queue, hq] using hs
  have h := (Dev.retire_completed _ f x (d.runFlags f (x.verdict st a b)) rfl rfl hs').of_queues hq
  have h2 : d.finish f st a b = (d.postInternal f st x.tag).retire f (d.runFlags f (x.verdict st a b)) := by simp [Dev.finish, hf, hp]
  rw [h2]
  obtain ⟨h1, h3, h4, h5, h6⟩ := h
  exact ⟨h1, h3, h4.trans (Nat.mod_mod _ _), h5.trans (Nat.mod_mod _ _), h6⟩

/-- R35: a data-moving command that reaches its verdict. -/
theorem Dev.settle_moving (d : Dev) (f : Nat) (x : Flight) (st : Status) (a b : Nat) (hf : KV.find d.flights f = some x) :
    Moving (d.settle f st a b) f st a b := by
  refine ⟨{ x.verdict st a b with phase := .moving }, ?_, rfl, rfl, rfl, rfl⟩
  simp [Dev.settle, KV.find_upd_same, hf]

/-! ### Rows -/

theorem onDev_gives (s : State) (g : Dev → Dev) : onDev s g = s.gives (g s.view) := rfl
theorem onDevR_gives (s : State) (g : NonVol → Hay → Dev → Dev) : onDevR s g = s.gives (g s.nv s.hay s.view) := rfl

theorem Dev.onFlight_of (d : Dev) {f op : Nat} {x : Flight} (g : Flight → Dev) (hf : KV.find d.flights f = some x)
    (hp : x.phase = .running) (ho : x.opcode = op) : d.onFlight f op g = g x := by
  simp [Dev.onFlight, hf, hp, ho]

theorem Runs.onFlight {s : State} {f op : Nat} {x : Flight} (h : Runs s f op x) (g : Flight → Dev) : s.view.onFlight f op g = g x :=
  Dev.onFlight_of _ g h.1 h.2.1 h.2.2

theorem Runs.unfinished {s : State} {f op : Nat} {x : Flight} (h : Runs s f op x) : x.phase ≠ .finished := by
  rw [h.2.1]; decide


/-! ### Dev.raise leaves these fields -/

@[simp] theorem Dev.raise_now (d : Dev) (n v : Nat) : (d.raise n v).now = d.now := (Dev.raise_keeps d n v).now
@[simp] theorem Dev.raise_free (d : Dev) (n v : Nat) : (d.raise n v).free = d.free := (Dev.raise_keeps d n v).free
@[simp] theorem Dev.raise_adm (d : Dev) (n v : Nat) : (d.raise n v).adm = d.adm := (Dev.raise_keeps d n v).adm
@[simp] theorem Dev.raise_bar2 (d : Dev) (n v : Nat) : (d.raise n v).bar2 = d.bar2 := (Dev.raise_keeps d n v).bar2
@[simp] theorem Dev.raise_numVfs (d : Dev) (n v : Nat) : (d.raise n v).numVfs = d.numVfs := (Dev.raise_keeps d n v).numVfs
@[simp] theorem Dev.raise_aer (d : Dev) (n v : Nat) : (d.raise n v).aer = d.aer := (Dev.raise_keeps d n v).aer
@[simp] theorem Dev.raise_lastServed (d : Dev) (n v : Nat) : (d.raise n v).lastServed = d.lastServed := (Dev.raise_keeps d n v).lastServed
@[simp] theorem Dev.raise_nextFlight (d : Dev) (n v : Nat) : (d.raise n v).nextFlight = d.nextFlight := (Dev.raise_keeps d n v).nextFlight
@[simp] theorem Dev.raise_rxMbox (d : Dev) (n v : Nat) : (d.raise n v).rxMbox = d.rxMbox := (Dev.raise_keeps d n v).rxMbox
@[simp] theorem Dev.raise_txMbox (d : Dev) (n v : Nat) : (d.raise n v).txMbox = d.txMbox := (Dev.raise_keeps d n v).txMbox
@[simp] theorem Dev.raise_pads (d : Dev) (n v : Nat) : (d.raise n v).pads = d.pads := (Dev.raise_keeps d n v).pads
@[simp] theorem Dev.raise_saved (d : Dev) (n v : Nat) : (d.raise n v).saved = d.saved := (Dev.raise_keeps d n v).saved
@[simp] theorem Dev.raise_switches (d : Dev) (n v : Nat) : (d.raise n v).switches = d.switches := (Dev.raise_keeps d n v).switches
@[simp] theorem Dev.raise_plans (d : Dev) (n v : Nat) : (d.raise n v).plans = d.plans := (Dev.raise_keeps d n v).plans
@[simp] theorem Dev.raise_acc (d : Dev) (n v : Nat) : (d.raise n v).acc = d.acc := (Dev.raise_keeps d n v).acc
@[simp] theorem Dev.raise_soft (d : Dev) (n v : Nat) : (d.raise n v).soft = d.soft := (Dev.raise_keeps d n v).soft
@[simp] theorem Dev.raise_absent (d : Dev) (n v : Nat) : (d.raise n v).absent = d.absent := (Dev.raise_keeps d n v).absent
@[simp] theorem Dev.raise_groups (d : Dev) (n v : Nat) : (d.raise n v).groups = d.groups := (Dev.raise_keeps d n v).groups
@[simp] theorem Dev.raise_features (d : Dev) (n v : Nat) : (d.raise n v).features = d.features := (Dev.raise_keeps d n v).features
@[simp] theorem Dev.raise_keys (d : Dev) (n v : Nat) : (d.raise n v).keys = d.keys := (Dev.raise_keeps d n v).keys
@[simp] theorem Dev.raise_hbm (d : Dev) (n v : Nat) : (d.raise n v).hbm = d.hbm := (Dev.raise_keeps d n v).hbm
@[simp] theorem Dev.raise_sram (d : Dev) (n v : Nat) : (d.raise n v).sram = d.sram := (Dev.raise_keeps d n v).sram
@[simp] theorem Dev.raise_stacks (d : Dev) (n v : Nat) : (d.raise n v).stackTab = d.stackTab := (Dev.raise_keeps d n v).stackTab
@[simp] theorem Dev.raise_chanErr (d : Dev) (n v : Nat) : (d.raise n v).chanErr = d.chanErr := (Dev.raise_keeps d n v).chanErr
@[simp] theorem Dev.raise_poison (d : Dev) (n v : Nat) : (d.raise n v).poison = d.poison := (Dev.raise_keeps d n v).poison
@[simp] theorem Dev.raise_link (d : Dev) (n v : Nat) : (d.raise n v).link = d.link := (Dev.raise_keeps d n v).link
@[simp] theorem Dev.raise_ports (d : Dev) (n v : Nat) : (d.raise n v).ports = d.ports := (Dev.raise_keeps d n v).ports
@[simp] theorem Dev.raise_route (d : Dev) (n v : Nat) : (d.raise n v).route = d.route := (Dev.raise_keeps d n v).route
@[simp] theorem Dev.raise_routeGen (d : Dev) (n v : Nat) : (d.raise n v).routeGen = d.routeGen := (Dev.raise_keeps d n v).routeGen
@[simp] theorem Dev.raise_sendSeq (d : Dev) (n v : Nat) : (d.raise n v).sendSeq = d.sendSeq := (Dev.raise_keeps d n v).sendSeq
@[simp] theorem Dev.raise_recvSeq (d : Dev) (n v : Nat) : (d.raise n v).recvSeq = d.recvSeq := (Dev.raise_keeps d n v).recvSeq
@[simp] theorem Dev.raise_gtc (d : Dev) (n v : Nat) : (d.raise n v).gtc = d.gtc := (Dev.raise_keeps d n v).gtc
@[simp] theorem Dev.raise_dies (d : Dev) (n v : Nat) : (d.raise n v).dies = d.dies := (Dev.raise_keeps d n v).dies
@[simp] theorem Dev.raise_supply (d : Dev) (n v : Nat) : (d.raise n v).supply = d.supply := (Dev.raise_keeps d n v).supply
@[simp] theorem Dev.raise_pll (d : Dev) (n v : Nat) : (d.raise n v).pll = d.pll := (Dev.raise_keeps d n v).pll
@[simp] theorem Dev.raise_devPower (d : Dev) (n v : Nat) : (d.raise n v).devPower = d.devPower := (Dev.raise_keeps d n v).devPower
@[simp] theorem Dev.raise_cap (d : Dev) (n v : Nat) : (d.raise n v).cap = d.cap := (Dev.raise_keeps d n v).cap
@[simp] theorem Dev.raise_capSince (d : Dev) (n v : Nat) : (d.raise n v).capSince = d.capSince := (Dev.raise_keeps d n v).capSince
@[simp] theorem Dev.raise_capLast (d : Dev) (n v : Nat) : (d.raise n v).capLast = d.capLast := (Dev.raise_keeps d n v).capLast
@[simp] theorem Dev.raise_fallow (d : Dev) (n v : Nat) : (d.raise n v).fallow = d.fallow := (Dev.raise_keeps d n v).fallow
@[simp] theorem Dev.raise_cores (d : Dev) (n v : Nat) : (d.raise n v).cores = d.cores := (Dev.raise_keeps d n v).cores
@[simp] theorem Dev.raise_eth (d : Dev) (n v : Nat) : (d.raise n v).eth = d.eth := (Dev.raise_keeps d n v).eth
@[simp] theorem Dev.raise_qps (d : Dev) (n v : Nat) : (d.raise n v).qps = d.qps := (Dev.raise_keeps d n v).qps
@[simp] theorem Dev.raise_i3c (d : Dev) (n v : Nat) : (d.raise n v).i3c = d.i3c := (Dev.raise_keeps d n v).i3c
@[simp] theorem Dev.raise_jtag (d : Dev) (n v : Nat) : (d.raise n v).jtag = d.jtag := (Dev.raise_keeps d n v).jtag
@[simp] theorem Dev.raise_boot (d : Dev) (n v : Nat) : (d.raise n v).boot = d.boot := (Dev.raise_keeps d n v).boot

/-! ### Dev.postD leaves these fields -/

@[simp] theorem Dev.postD_now (d : Dev) (code source : Nat) (l : List Nat) : (d.postD code source l).now = d.now := (Dev.postD_keeps d code source l).now
@[simp] theorem Dev.postD_free (d : Dev) (code source : Nat) (l : List Nat) : (d.postD code source l).free = d.free := (Dev.postD_keeps d code source l).free
@[simp] theorem Dev.postD_adm (d : Dev) (code source : Nat) (l : List Nat) : (d.postD code source l).adm = d.adm := (Dev.postD_keeps d code source l).adm
@[simp] theorem Dev.postD_bar2 (d : Dev) (code source : Nat) (l : List Nat) : (d.postD code source l).bar2 = d.bar2 := (Dev.postD_keeps d code source l).bar2
@[simp] theorem Dev.postD_numVfs (d : Dev) (code source : Nat) (l : List Nat) : (d.postD code source l).numVfs = d.numVfs := (Dev.postD_keeps d code source l).numVfs
@[simp] theorem Dev.postD_aer (d : Dev) (code source : Nat) (l : List Nat) : (d.postD code source l).aer = d.aer := (Dev.postD_keeps d code source l).aer
@[simp] theorem Dev.postD_lastServed (d : Dev) (code source : Nat) (l : List Nat) : (d.postD code source l).lastServed = d.lastServed := (Dev.postD_keeps d code source l).lastServed
@[simp] theorem Dev.postD_nextFlight (d : Dev) (code source : Nat) (l : List Nat) : (d.postD code source l).nextFlight = d.nextFlight := (Dev.postD_keeps d code source l).nextFlight
@[simp] theorem Dev.postD_rxMbox (d : Dev) (code source : Nat) (l : List Nat) : (d.postD code source l).rxMbox = d.rxMbox := (Dev.postD_keeps d code source l).rxMbox
@[simp] theorem Dev.postD_txMbox (d : Dev) (code source : Nat) (l : List Nat) : (d.postD code source l).txMbox = d.txMbox := (Dev.postD_keeps d code source l).txMbox
@[simp] theorem Dev.postD_pads (d : Dev) (code source : Nat) (l : List Nat) : (d.postD code source l).pads = d.pads := (Dev.postD_keeps d code source l).pads
@[simp] theorem Dev.postD_saved (d : Dev) (code source : Nat) (l : List Nat) : (d.postD code source l).saved = d.saved := (Dev.postD_keeps d code source l).saved
@[simp] theorem Dev.postD_switches (d : Dev) (code source : Nat) (l : List Nat) : (d.postD code source l).switches = d.switches := (Dev.postD_keeps d code source l).switches
@[simp] theorem Dev.postD_plans (d : Dev) (code source : Nat) (l : List Nat) : (d.postD code source l).plans = d.plans := (Dev.postD_keeps d code source l).plans
@[simp] theorem Dev.postD_acc (d : Dev) (code source : Nat) (l : List Nat) : (d.postD code source l).acc = d.acc := (Dev.postD_keeps d code source l).acc
@[simp] theorem Dev.postD_soft (d : Dev) (code source : Nat) (l : List Nat) : (d.postD code source l).soft = d.soft := (Dev.postD_keeps d code source l).soft
@[simp] theorem Dev.postD_absent (d : Dev) (code source : Nat) (l : List Nat) : (d.postD code source l).absent = d.absent := (Dev.postD_keeps d code source l).absent
@[simp] theorem Dev.postD_groups (d : Dev) (code source : Nat) (l : List Nat) : (d.postD code source l).groups = d.groups := (Dev.postD_keeps d code source l).groups
@[simp] theorem Dev.postD_features (d : Dev) (code source : Nat) (l : List Nat) : (d.postD code source l).features = d.features := (Dev.postD_keeps d code source l).features
@[simp] theorem Dev.postD_keys (d : Dev) (code source : Nat) (l : List Nat) : (d.postD code source l).keys = d.keys := (Dev.postD_keeps d code source l).keys
@[simp] theorem Dev.postD_hbm (d : Dev) (code source : Nat) (l : List Nat) : (d.postD code source l).hbm = d.hbm := (Dev.postD_keeps d code source l).hbm
@[simp] theorem Dev.postD_sram (d : Dev) (code source : Nat) (l : List Nat) : (d.postD code source l).sram = d.sram := (Dev.postD_keeps d code source l).sram
@[simp] theorem Dev.postD_stacks (d : Dev) (code source : Nat) (l : List Nat) : (d.postD code source l).stackTab = d.stackTab := (Dev.postD_keeps d code source l).stackTab
@[simp] theorem Dev.postD_chanErr (d : Dev) (code source : Nat) (l : List Nat) : (d.postD code source l).chanErr = d.chanErr := (Dev.postD_keeps d code source l).chanErr
@[simp] theorem Dev.postD_poison (d : Dev) (code source : Nat) (l : List Nat) : (d.postD code source l).poison = d.poison := (Dev.postD_keeps d code source l).poison
@[simp] theorem Dev.postD_link (d : Dev) (code source : Nat) (l : List Nat) : (d.postD code source l).link = d.link := (Dev.postD_keeps d code source l).link
@[simp] theorem Dev.postD_ports (d : Dev) (code source : Nat) (l : List Nat) : (d.postD code source l).ports = d.ports := (Dev.postD_keeps d code source l).ports
@[simp] theorem Dev.postD_route (d : Dev) (code source : Nat) (l : List Nat) : (d.postD code source l).route = d.route := (Dev.postD_keeps d code source l).route
@[simp] theorem Dev.postD_routeGen (d : Dev) (code source : Nat) (l : List Nat) : (d.postD code source l).routeGen = d.routeGen := (Dev.postD_keeps d code source l).routeGen
@[simp] theorem Dev.postD_sendSeq (d : Dev) (code source : Nat) (l : List Nat) : (d.postD code source l).sendSeq = d.sendSeq := (Dev.postD_keeps d code source l).sendSeq
@[simp] theorem Dev.postD_recvSeq (d : Dev) (code source : Nat) (l : List Nat) : (d.postD code source l).recvSeq = d.recvSeq := (Dev.postD_keeps d code source l).recvSeq
@[simp] theorem Dev.postD_gtc (d : Dev) (code source : Nat) (l : List Nat) : (d.postD code source l).gtc = d.gtc := (Dev.postD_keeps d code source l).gtc
@[simp] theorem Dev.postD_dies (d : Dev) (code source : Nat) (l : List Nat) : (d.postD code source l).dies = d.dies := (Dev.postD_keeps d code source l).dies
@[simp] theorem Dev.postD_supply (d : Dev) (code source : Nat) (l : List Nat) : (d.postD code source l).supply = d.supply := (Dev.postD_keeps d code source l).supply
@[simp] theorem Dev.postD_pll (d : Dev) (code source : Nat) (l : List Nat) : (d.postD code source l).pll = d.pll := (Dev.postD_keeps d code source l).pll
@[simp] theorem Dev.postD_devPower (d : Dev) (code source : Nat) (l : List Nat) : (d.postD code source l).devPower = d.devPower := (Dev.postD_keeps d code source l).devPower
@[simp] theorem Dev.postD_cap (d : Dev) (code source : Nat) (l : List Nat) : (d.postD code source l).cap = d.cap := (Dev.postD_keeps d code source l).cap
@[simp] theorem Dev.postD_capSince (d : Dev) (code source : Nat) (l : List Nat) : (d.postD code source l).capSince = d.capSince := (Dev.postD_keeps d code source l).capSince
@[simp] theorem Dev.postD_capLast (d : Dev) (code source : Nat) (l : List Nat) : (d.postD code source l).capLast = d.capLast := (Dev.postD_keeps d code source l).capLast
@[simp] theorem Dev.postD_fallow (d : Dev) (code source : Nat) (l : List Nat) : (d.postD code source l).fallow = d.fallow := (Dev.postD_keeps d code source l).fallow
@[simp] theorem Dev.postD_cores (d : Dev) (code source : Nat) (l : List Nat) : (d.postD code source l).cores = d.cores := (Dev.postD_keeps d code source l).cores
@[simp] theorem Dev.postD_eth (d : Dev) (code source : Nat) (l : List Nat) : (d.postD code source l).eth = d.eth := (Dev.postD_keeps d code source l).eth
@[simp] theorem Dev.postD_qps (d : Dev) (code source : Nat) (l : List Nat) : (d.postD code source l).qps = d.qps := (Dev.postD_keeps d code source l).qps
@[simp] theorem Dev.postD_i3c (d : Dev) (code source : Nat) (l : List Nat) : (d.postD code source l).i3c = d.i3c := (Dev.postD_keeps d code source l).i3c
@[simp] theorem Dev.postD_jtag (d : Dev) (code source : Nat) (l : List Nat) : (d.postD code source l).jtag = d.jtag := (Dev.postD_keeps d code source l).jtag
@[simp] theorem Dev.postD_boot (d : Dev) (code source : Nat) (l : List Nat) : (d.postD code source l).boot = d.boot := (Dev.postD_keeps d code source l).boot

/-! ### Dev.postP leaves these fields -/

@[simp] theorem Dev.postP_now (d : Dev) (code pad source : Nat) (l : List Nat) : (d.postP code pad source l).now = d.now := (Dev.postP_keeps d code pad source l).now
@[simp] theorem Dev.postP_free (d : Dev) (code pad source : Nat) (l : List Nat) : (d.postP code pad source l).free = d.free := (Dev.postP_keeps d code pad source l).free
@[simp] theorem Dev.postP_adm (d : Dev) (code pad source : Nat) (l : List Nat) : (d.postP code pad source l).adm = d.adm := (Dev.postP_keeps d code pad source l).adm
@[simp] theorem Dev.postP_bar2 (d : Dev) (code pad source : Nat) (l : List Nat) : (d.postP code pad source l).bar2 = d.bar2 := (Dev.postP_keeps d code pad source l).bar2
@[simp] theorem Dev.postP_numVfs (d : Dev) (code pad source : Nat) (l : List Nat) : (d.postP code pad source l).numVfs = d.numVfs := (Dev.postP_keeps d code pad source l).numVfs
@[simp] theorem Dev.postP_aer (d : Dev) (code pad source : Nat) (l : List Nat) : (d.postP code pad source l).aer = d.aer := (Dev.postP_keeps d code pad source l).aer
@[simp] theorem Dev.postP_lastServed (d : Dev) (code pad source : Nat) (l : List Nat) : (d.postP code pad source l).lastServed = d.lastServed := (Dev.postP_keeps d code pad source l).lastServed
@[simp] theorem Dev.postP_nextFlight (d : Dev) (code pad source : Nat) (l : List Nat) : (d.postP code pad source l).nextFlight = d.nextFlight := (Dev.postP_keeps d code pad source l).nextFlight
@[simp] theorem Dev.postP_rxMbox (d : Dev) (code pad source : Nat) (l : List Nat) : (d.postP code pad source l).rxMbox = d.rxMbox := (Dev.postP_keeps d code pad source l).rxMbox
@[simp] theorem Dev.postP_txMbox (d : Dev) (code pad source : Nat) (l : List Nat) : (d.postP code pad source l).txMbox = d.txMbox := (Dev.postP_keeps d code pad source l).txMbox
@[simp] theorem Dev.postP_pads (d : Dev) (code pad source : Nat) (l : List Nat) : (d.postP code pad source l).pads = d.pads := (Dev.postP_keeps d code pad source l).pads
@[simp] theorem Dev.postP_saved (d : Dev) (code pad source : Nat) (l : List Nat) : (d.postP code pad source l).saved = d.saved := (Dev.postP_keeps d code pad source l).saved
@[simp] theorem Dev.postP_switches (d : Dev) (code pad source : Nat) (l : List Nat) : (d.postP code pad source l).switches = d.switches := (Dev.postP_keeps d code pad source l).switches
@[simp] theorem Dev.postP_plans (d : Dev) (code pad source : Nat) (l : List Nat) : (d.postP code pad source l).plans = d.plans := (Dev.postP_keeps d code pad source l).plans
@[simp] theorem Dev.postP_acc (d : Dev) (code pad source : Nat) (l : List Nat) : (d.postP code pad source l).acc = d.acc := (Dev.postP_keeps d code pad source l).acc
@[simp] theorem Dev.postP_soft (d : Dev) (code pad source : Nat) (l : List Nat) : (d.postP code pad source l).soft = d.soft := (Dev.postP_keeps d code pad source l).soft
@[simp] theorem Dev.postP_absent (d : Dev) (code pad source : Nat) (l : List Nat) : (d.postP code pad source l).absent = d.absent := (Dev.postP_keeps d code pad source l).absent
@[simp] theorem Dev.postP_groups (d : Dev) (code pad source : Nat) (l : List Nat) : (d.postP code pad source l).groups = d.groups := (Dev.postP_keeps d code pad source l).groups
@[simp] theorem Dev.postP_features (d : Dev) (code pad source : Nat) (l : List Nat) : (d.postP code pad source l).features = d.features := (Dev.postP_keeps d code pad source l).features
@[simp] theorem Dev.postP_keys (d : Dev) (code pad source : Nat) (l : List Nat) : (d.postP code pad source l).keys = d.keys := (Dev.postP_keeps d code pad source l).keys
@[simp] theorem Dev.postP_hbm (d : Dev) (code pad source : Nat) (l : List Nat) : (d.postP code pad source l).hbm = d.hbm := (Dev.postP_keeps d code pad source l).hbm
@[simp] theorem Dev.postP_sram (d : Dev) (code pad source : Nat) (l : List Nat) : (d.postP code pad source l).sram = d.sram := (Dev.postP_keeps d code pad source l).sram
@[simp] theorem Dev.postP_stacks (d : Dev) (code pad source : Nat) (l : List Nat) : (d.postP code pad source l).stackTab = d.stackTab := (Dev.postP_keeps d code pad source l).stackTab
@[simp] theorem Dev.postP_chanErr (d : Dev) (code pad source : Nat) (l : List Nat) : (d.postP code pad source l).chanErr = d.chanErr := (Dev.postP_keeps d code pad source l).chanErr
@[simp] theorem Dev.postP_poison (d : Dev) (code pad source : Nat) (l : List Nat) : (d.postP code pad source l).poison = d.poison := (Dev.postP_keeps d code pad source l).poison
@[simp] theorem Dev.postP_link (d : Dev) (code pad source : Nat) (l : List Nat) : (d.postP code pad source l).link = d.link := (Dev.postP_keeps d code pad source l).link
@[simp] theorem Dev.postP_ports (d : Dev) (code pad source : Nat) (l : List Nat) : (d.postP code pad source l).ports = d.ports := (Dev.postP_keeps d code pad source l).ports
@[simp] theorem Dev.postP_route (d : Dev) (code pad source : Nat) (l : List Nat) : (d.postP code pad source l).route = d.route := (Dev.postP_keeps d code pad source l).route
@[simp] theorem Dev.postP_routeGen (d : Dev) (code pad source : Nat) (l : List Nat) : (d.postP code pad source l).routeGen = d.routeGen := (Dev.postP_keeps d code pad source l).routeGen
@[simp] theorem Dev.postP_sendSeq (d : Dev) (code pad source : Nat) (l : List Nat) : (d.postP code pad source l).sendSeq = d.sendSeq := (Dev.postP_keeps d code pad source l).sendSeq
@[simp] theorem Dev.postP_recvSeq (d : Dev) (code pad source : Nat) (l : List Nat) : (d.postP code pad source l).recvSeq = d.recvSeq := (Dev.postP_keeps d code pad source l).recvSeq
@[simp] theorem Dev.postP_gtc (d : Dev) (code pad source : Nat) (l : List Nat) : (d.postP code pad source l).gtc = d.gtc := (Dev.postP_keeps d code pad source l).gtc
@[simp] theorem Dev.postP_dies (d : Dev) (code pad source : Nat) (l : List Nat) : (d.postP code pad source l).dies = d.dies := (Dev.postP_keeps d code pad source l).dies
@[simp] theorem Dev.postP_supply (d : Dev) (code pad source : Nat) (l : List Nat) : (d.postP code pad source l).supply = d.supply := (Dev.postP_keeps d code pad source l).supply
@[simp] theorem Dev.postP_pll (d : Dev) (code pad source : Nat) (l : List Nat) : (d.postP code pad source l).pll = d.pll := (Dev.postP_keeps d code pad source l).pll
@[simp] theorem Dev.postP_devPower (d : Dev) (code pad source : Nat) (l : List Nat) : (d.postP code pad source l).devPower = d.devPower := (Dev.postP_keeps d code pad source l).devPower
@[simp] theorem Dev.postP_cap (d : Dev) (code pad source : Nat) (l : List Nat) : (d.postP code pad source l).cap = d.cap := (Dev.postP_keeps d code pad source l).cap
@[simp] theorem Dev.postP_capSince (d : Dev) (code pad source : Nat) (l : List Nat) : (d.postP code pad source l).capSince = d.capSince := (Dev.postP_keeps d code pad source l).capSince
@[simp] theorem Dev.postP_capLast (d : Dev) (code pad source : Nat) (l : List Nat) : (d.postP code pad source l).capLast = d.capLast := (Dev.postP_keeps d code pad source l).capLast
@[simp] theorem Dev.postP_fallow (d : Dev) (code pad source : Nat) (l : List Nat) : (d.postP code pad source l).fallow = d.fallow := (Dev.postP_keeps d code pad source l).fallow
@[simp] theorem Dev.postP_cores (d : Dev) (code pad source : Nat) (l : List Nat) : (d.postP code pad source l).cores = d.cores := (Dev.postP_keeps d code pad source l).cores
@[simp] theorem Dev.postP_eth (d : Dev) (code pad source : Nat) (l : List Nat) : (d.postP code pad source l).eth = d.eth := (Dev.postP_keeps d code pad source l).eth
@[simp] theorem Dev.postP_qps (d : Dev) (code pad source : Nat) (l : List Nat) : (d.postP code pad source l).qps = d.qps := (Dev.postP_keeps d code pad source l).qps
@[simp] theorem Dev.postP_i3c (d : Dev) (code pad source : Nat) (l : List Nat) : (d.postP code pad source l).i3c = d.i3c := (Dev.postP_keeps d code pad source l).i3c
@[simp] theorem Dev.postP_jtag (d : Dev) (code pad source : Nat) (l : List Nat) : (d.postP code pad source l).jtag = d.jtag := (Dev.postP_keeps d code pad source l).jtag
@[simp] theorem Dev.postP_boot (d : Dev) (code pad source : Nat) (l : List Nat) : (d.postP code pad source l).boot = d.boot := (Dev.postP_keeps d code pad source l).boot

/-! ### Dev.finish leaves these fields -/

@[simp] theorem Dev.finish_now (d : Dev) (id : Nat) (st : Status) (a b : Nat) : (d.finish id st a b).now = d.now := (Dev.finish_keeps d id st a b).now
@[simp] theorem Dev.finish_free (d : Dev) (id : Nat) (st : Status) (a b : Nat) : (d.finish id st a b).free = d.free := (Dev.finish_keeps d id st a b).free
@[simp] theorem Dev.finish_adm (d : Dev) (id : Nat) (st : Status) (a b : Nat) : (d.finish id st a b).adm = d.adm := (Dev.finish_keeps d id st a b).adm
@[simp] theorem Dev.finish_bar2 (d : Dev) (id : Nat) (st : Status) (a b : Nat) : (d.finish id st a b).bar2 = d.bar2 := (Dev.finish_keeps d id st a b).bar2
@[simp] theorem Dev.finish_numVfs (d : Dev) (id : Nat) (st : Status) (a b : Nat) : (d.finish id st a b).numVfs = d.numVfs := (Dev.finish_keeps d id st a b).numVfs
@[simp] theorem Dev.finish_aer (d : Dev) (id : Nat) (st : Status) (a b : Nat) : (d.finish id st a b).aer = d.aer := (Dev.finish_keeps d id st a b).aer
@[simp] theorem Dev.finish_lastServed (d : Dev) (id : Nat) (st : Status) (a b : Nat) : (d.finish id st a b).lastServed = d.lastServed := (Dev.finish_keeps d id st a b).lastServed
@[simp] theorem Dev.finish_nextFlight (d : Dev) (id : Nat) (st : Status) (a b : Nat) : (d.finish id st a b).nextFlight = d.nextFlight := (Dev.finish_keeps d id st a b).nextFlight
@[simp] theorem Dev.finish_rxMbox (d : Dev) (id : Nat) (st : Status) (a b : Nat) : (d.finish id st a b).rxMbox = d.rxMbox := (Dev.finish_keeps d id st a b).rxMbox
@[simp] theorem Dev.finish_txMbox (d : Dev) (id : Nat) (st : Status) (a b : Nat) : (d.finish id st a b).txMbox = d.txMbox := (Dev.finish_keeps d id st a b).txMbox
@[simp] theorem Dev.finish_pads (d : Dev) (id : Nat) (st : Status) (a b : Nat) : (d.finish id st a b).pads = d.pads := (Dev.finish_keeps d id st a b).pads
@[simp] theorem Dev.finish_saved (d : Dev) (id : Nat) (st : Status) (a b : Nat) : (d.finish id st a b).saved = d.saved := (Dev.finish_keeps d id st a b).saved
@[simp] theorem Dev.finish_switches (d : Dev) (id : Nat) (st : Status) (a b : Nat) : (d.finish id st a b).switches = d.switches := (Dev.finish_keeps d id st a b).switches
@[simp] theorem Dev.finish_plans (d : Dev) (id : Nat) (st : Status) (a b : Nat) : (d.finish id st a b).plans = d.plans := (Dev.finish_keeps d id st a b).plans
@[simp] theorem Dev.finish_acc (d : Dev) (id : Nat) (st : Status) (a b : Nat) : (d.finish id st a b).acc = d.acc := (Dev.finish_keeps d id st a b).acc
@[simp] theorem Dev.finish_soft (d : Dev) (id : Nat) (st : Status) (a b : Nat) : (d.finish id st a b).soft = d.soft := (Dev.finish_keeps d id st a b).soft
@[simp] theorem Dev.finish_absent (d : Dev) (id : Nat) (st : Status) (a b : Nat) : (d.finish id st a b).absent = d.absent := (Dev.finish_keeps d id st a b).absent
@[simp] theorem Dev.finish_groups (d : Dev) (id : Nat) (st : Status) (a b : Nat) : (d.finish id st a b).groups = d.groups := (Dev.finish_keeps d id st a b).groups
@[simp] theorem Dev.finish_features (d : Dev) (id : Nat) (st : Status) (a b : Nat) : (d.finish id st a b).features = d.features := (Dev.finish_keeps d id st a b).features
@[simp] theorem Dev.finish_keys (d : Dev) (id : Nat) (st : Status) (a b : Nat) : (d.finish id st a b).keys = d.keys := (Dev.finish_keeps d id st a b).keys
@[simp] theorem Dev.finish_hbm (d : Dev) (id : Nat) (st : Status) (a b : Nat) : (d.finish id st a b).hbm = d.hbm := (Dev.finish_keeps d id st a b).hbm
@[simp] theorem Dev.finish_sram (d : Dev) (id : Nat) (st : Status) (a b : Nat) : (d.finish id st a b).sram = d.sram := (Dev.finish_keeps d id st a b).sram
@[simp] theorem Dev.finish_stacks (d : Dev) (id : Nat) (st : Status) (a b : Nat) : (d.finish id st a b).stackTab = d.stackTab := (Dev.finish_keeps d id st a b).stackTab
@[simp] theorem Dev.finish_chanErr (d : Dev) (id : Nat) (st : Status) (a b : Nat) : (d.finish id st a b).chanErr = d.chanErr := (Dev.finish_keeps d id st a b).chanErr
@[simp] theorem Dev.finish_poison (d : Dev) (id : Nat) (st : Status) (a b : Nat) : (d.finish id st a b).poison = d.poison := (Dev.finish_keeps d id st a b).poison
@[simp] theorem Dev.finish_link (d : Dev) (id : Nat) (st : Status) (a b : Nat) : (d.finish id st a b).link = d.link := (Dev.finish_keeps d id st a b).link
@[simp] theorem Dev.finish_ports (d : Dev) (id : Nat) (st : Status) (a b : Nat) : (d.finish id st a b).ports = d.ports := (Dev.finish_keeps d id st a b).ports
@[simp] theorem Dev.finish_route (d : Dev) (id : Nat) (st : Status) (a b : Nat) : (d.finish id st a b).route = d.route := (Dev.finish_keeps d id st a b).route
@[simp] theorem Dev.finish_routeGen (d : Dev) (id : Nat) (st : Status) (a b : Nat) : (d.finish id st a b).routeGen = d.routeGen := (Dev.finish_keeps d id st a b).routeGen
@[simp] theorem Dev.finish_sendSeq (d : Dev) (id : Nat) (st : Status) (a b : Nat) : (d.finish id st a b).sendSeq = d.sendSeq := (Dev.finish_keeps d id st a b).sendSeq
@[simp] theorem Dev.finish_recvSeq (d : Dev) (id : Nat) (st : Status) (a b : Nat) : (d.finish id st a b).recvSeq = d.recvSeq := (Dev.finish_keeps d id st a b).recvSeq
@[simp] theorem Dev.finish_gtc (d : Dev) (id : Nat) (st : Status) (a b : Nat) : (d.finish id st a b).gtc = d.gtc := (Dev.finish_keeps d id st a b).gtc
@[simp] theorem Dev.finish_dies (d : Dev) (id : Nat) (st : Status) (a b : Nat) : (d.finish id st a b).dies = d.dies := (Dev.finish_keeps d id st a b).dies
@[simp] theorem Dev.finish_supply (d : Dev) (id : Nat) (st : Status) (a b : Nat) : (d.finish id st a b).supply = d.supply := (Dev.finish_keeps d id st a b).supply
@[simp] theorem Dev.finish_pll (d : Dev) (id : Nat) (st : Status) (a b : Nat) : (d.finish id st a b).pll = d.pll := (Dev.finish_keeps d id st a b).pll
@[simp] theorem Dev.finish_devPower (d : Dev) (id : Nat) (st : Status) (a b : Nat) : (d.finish id st a b).devPower = d.devPower := (Dev.finish_keeps d id st a b).devPower
@[simp] theorem Dev.finish_cap (d : Dev) (id : Nat) (st : Status) (a b : Nat) : (d.finish id st a b).cap = d.cap := (Dev.finish_keeps d id st a b).cap
@[simp] theorem Dev.finish_capSince (d : Dev) (id : Nat) (st : Status) (a b : Nat) : (d.finish id st a b).capSince = d.capSince := (Dev.finish_keeps d id st a b).capSince
@[simp] theorem Dev.finish_capLast (d : Dev) (id : Nat) (st : Status) (a b : Nat) : (d.finish id st a b).capLast = d.capLast := (Dev.finish_keeps d id st a b).capLast
@[simp] theorem Dev.finish_fallow (d : Dev) (id : Nat) (st : Status) (a b : Nat) : (d.finish id st a b).fallow = d.fallow := (Dev.finish_keeps d id st a b).fallow
@[simp] theorem Dev.finish_cores (d : Dev) (id : Nat) (st : Status) (a b : Nat) : (d.finish id st a b).cores = d.cores := (Dev.finish_keeps d id st a b).cores
@[simp] theorem Dev.finish_eth (d : Dev) (id : Nat) (st : Status) (a b : Nat) : (d.finish id st a b).eth = d.eth := (Dev.finish_keeps d id st a b).eth
@[simp] theorem Dev.finish_qps (d : Dev) (id : Nat) (st : Status) (a b : Nat) : (d.finish id st a b).qps = d.qps := (Dev.finish_keeps d id st a b).qps
@[simp] theorem Dev.finish_i3c (d : Dev) (id : Nat) (st : Status) (a b : Nat) : (d.finish id st a b).i3c = d.i3c := (Dev.finish_keeps d id st a b).i3c
@[simp] theorem Dev.finish_jtag (d : Dev) (id : Nat) (st : Status) (a b : Nat) : (d.finish id st a b).jtag = d.jtag := (Dev.finish_keeps d id st a b).jtag
@[simp] theorem Dev.finish_boot (d : Dev) (id : Nat) (st : Status) (a b : Nat) : (d.finish id st a b).boot = d.boot := (Dev.finish_keeps d id st a b).boot

/-! ### Dev.finish64 leaves these fields -/

@[simp] theorem Dev.finish64_now (d : Dev) (f : Nat) (st : Status) (v : Nat) : (d.finish64 f st v).now = d.now := (Dev.finish64_keeps d f st v).now
@[simp] theorem Dev.finish64_free (d : Dev) (f : Nat) (st : Status) (v : Nat) : (d.finish64 f st v).free = d.free := (Dev.finish64_keeps d f st v).free
@[simp] theorem Dev.finish64_adm (d : Dev) (f : Nat) (st : Status) (v : Nat) : (d.finish64 f st v).adm = d.adm := (Dev.finish64_keeps d f st v).adm
@[simp] theorem Dev.finish64_bar2 (d : Dev) (f : Nat) (st : Status) (v : Nat) : (d.finish64 f st v).bar2 = d.bar2 := (Dev.finish64_keeps d f st v).bar2
@[simp] theorem Dev.finish64_numVfs (d : Dev) (f : Nat) (st : Status) (v : Nat) : (d.finish64 f st v).numVfs = d.numVfs := (Dev.finish64_keeps d f st v).numVfs
@[simp] theorem Dev.finish64_aer (d : Dev) (f : Nat) (st : Status) (v : Nat) : (d.finish64 f st v).aer = d.aer := (Dev.finish64_keeps d f st v).aer
@[simp] theorem Dev.finish64_lastServed (d : Dev) (f : Nat) (st : Status) (v : Nat) : (d.finish64 f st v).lastServed = d.lastServed := (Dev.finish64_keeps d f st v).lastServed
@[simp] theorem Dev.finish64_nextFlight (d : Dev) (f : Nat) (st : Status) (v : Nat) : (d.finish64 f st v).nextFlight = d.nextFlight := (Dev.finish64_keeps d f st v).nextFlight
@[simp] theorem Dev.finish64_rxMbox (d : Dev) (f : Nat) (st : Status) (v : Nat) : (d.finish64 f st v).rxMbox = d.rxMbox := (Dev.finish64_keeps d f st v).rxMbox
@[simp] theorem Dev.finish64_txMbox (d : Dev) (f : Nat) (st : Status) (v : Nat) : (d.finish64 f st v).txMbox = d.txMbox := (Dev.finish64_keeps d f st v).txMbox
@[simp] theorem Dev.finish64_pads (d : Dev) (f : Nat) (st : Status) (v : Nat) : (d.finish64 f st v).pads = d.pads := (Dev.finish64_keeps d f st v).pads
@[simp] theorem Dev.finish64_saved (d : Dev) (f : Nat) (st : Status) (v : Nat) : (d.finish64 f st v).saved = d.saved := (Dev.finish64_keeps d f st v).saved
@[simp] theorem Dev.finish64_switches (d : Dev) (f : Nat) (st : Status) (v : Nat) : (d.finish64 f st v).switches = d.switches := (Dev.finish64_keeps d f st v).switches
@[simp] theorem Dev.finish64_plans (d : Dev) (f : Nat) (st : Status) (v : Nat) : (d.finish64 f st v).plans = d.plans := (Dev.finish64_keeps d f st v).plans
@[simp] theorem Dev.finish64_acc (d : Dev) (f : Nat) (st : Status) (v : Nat) : (d.finish64 f st v).acc = d.acc := (Dev.finish64_keeps d f st v).acc
@[simp] theorem Dev.finish64_soft (d : Dev) (f : Nat) (st : Status) (v : Nat) : (d.finish64 f st v).soft = d.soft := (Dev.finish64_keeps d f st v).soft
@[simp] theorem Dev.finish64_absent (d : Dev) (f : Nat) (st : Status) (v : Nat) : (d.finish64 f st v).absent = d.absent := (Dev.finish64_keeps d f st v).absent
@[simp] theorem Dev.finish64_groups (d : Dev) (f : Nat) (st : Status) (v : Nat) : (d.finish64 f st v).groups = d.groups := (Dev.finish64_keeps d f st v).groups
@[simp] theorem Dev.finish64_features (d : Dev) (f : Nat) (st : Status) (v : Nat) : (d.finish64 f st v).features = d.features := (Dev.finish64_keeps d f st v).features
@[simp] theorem Dev.finish64_keys (d : Dev) (f : Nat) (st : Status) (v : Nat) : (d.finish64 f st v).keys = d.keys := (Dev.finish64_keeps d f st v).keys
@[simp] theorem Dev.finish64_hbm (d : Dev) (f : Nat) (st : Status) (v : Nat) : (d.finish64 f st v).hbm = d.hbm := (Dev.finish64_keeps d f st v).hbm
@[simp] theorem Dev.finish64_sram (d : Dev) (f : Nat) (st : Status) (v : Nat) : (d.finish64 f st v).sram = d.sram := (Dev.finish64_keeps d f st v).sram
@[simp] theorem Dev.finish64_stacks (d : Dev) (f : Nat) (st : Status) (v : Nat) : (d.finish64 f st v).stackTab = d.stackTab := (Dev.finish64_keeps d f st v).stackTab
@[simp] theorem Dev.finish64_chanErr (d : Dev) (f : Nat) (st : Status) (v : Nat) : (d.finish64 f st v).chanErr = d.chanErr := (Dev.finish64_keeps d f st v).chanErr
@[simp] theorem Dev.finish64_poison (d : Dev) (f : Nat) (st : Status) (v : Nat) : (d.finish64 f st v).poison = d.poison := (Dev.finish64_keeps d f st v).poison
@[simp] theorem Dev.finish64_link (d : Dev) (f : Nat) (st : Status) (v : Nat) : (d.finish64 f st v).link = d.link := (Dev.finish64_keeps d f st v).link
@[simp] theorem Dev.finish64_ports (d : Dev) (f : Nat) (st : Status) (v : Nat) : (d.finish64 f st v).ports = d.ports := (Dev.finish64_keeps d f st v).ports
@[simp] theorem Dev.finish64_route (d : Dev) (f : Nat) (st : Status) (v : Nat) : (d.finish64 f st v).route = d.route := (Dev.finish64_keeps d f st v).route
@[simp] theorem Dev.finish64_routeGen (d : Dev) (f : Nat) (st : Status) (v : Nat) : (d.finish64 f st v).routeGen = d.routeGen := (Dev.finish64_keeps d f st v).routeGen
@[simp] theorem Dev.finish64_sendSeq (d : Dev) (f : Nat) (st : Status) (v : Nat) : (d.finish64 f st v).sendSeq = d.sendSeq := (Dev.finish64_keeps d f st v).sendSeq
@[simp] theorem Dev.finish64_recvSeq (d : Dev) (f : Nat) (st : Status) (v : Nat) : (d.finish64 f st v).recvSeq = d.recvSeq := (Dev.finish64_keeps d f st v).recvSeq
@[simp] theorem Dev.finish64_gtc (d : Dev) (f : Nat) (st : Status) (v : Nat) : (d.finish64 f st v).gtc = d.gtc := (Dev.finish64_keeps d f st v).gtc
@[simp] theorem Dev.finish64_dies (d : Dev) (f : Nat) (st : Status) (v : Nat) : (d.finish64 f st v).dies = d.dies := (Dev.finish64_keeps d f st v).dies
@[simp] theorem Dev.finish64_supply (d : Dev) (f : Nat) (st : Status) (v : Nat) : (d.finish64 f st v).supply = d.supply := (Dev.finish64_keeps d f st v).supply
@[simp] theorem Dev.finish64_pll (d : Dev) (f : Nat) (st : Status) (v : Nat) : (d.finish64 f st v).pll = d.pll := (Dev.finish64_keeps d f st v).pll
@[simp] theorem Dev.finish64_devPower (d : Dev) (f : Nat) (st : Status) (v : Nat) : (d.finish64 f st v).devPower = d.devPower := (Dev.finish64_keeps d f st v).devPower
@[simp] theorem Dev.finish64_cap (d : Dev) (f : Nat) (st : Status) (v : Nat) : (d.finish64 f st v).cap = d.cap := (Dev.finish64_keeps d f st v).cap
@[simp] theorem Dev.finish64_capSince (d : Dev) (f : Nat) (st : Status) (v : Nat) : (d.finish64 f st v).capSince = d.capSince := (Dev.finish64_keeps d f st v).capSince
@[simp] theorem Dev.finish64_capLast (d : Dev) (f : Nat) (st : Status) (v : Nat) : (d.finish64 f st v).capLast = d.capLast := (Dev.finish64_keeps d f st v).capLast
@[simp] theorem Dev.finish64_fallow (d : Dev) (f : Nat) (st : Status) (v : Nat) : (d.finish64 f st v).fallow = d.fallow := (Dev.finish64_keeps d f st v).fallow
@[simp] theorem Dev.finish64_cores (d : Dev) (f : Nat) (st : Status) (v : Nat) : (d.finish64 f st v).cores = d.cores := (Dev.finish64_keeps d f st v).cores
@[simp] theorem Dev.finish64_eth (d : Dev) (f : Nat) (st : Status) (v : Nat) : (d.finish64 f st v).eth = d.eth := (Dev.finish64_keeps d f st v).eth
@[simp] theorem Dev.finish64_qps (d : Dev) (f : Nat) (st : Status) (v : Nat) : (d.finish64 f st v).qps = d.qps := (Dev.finish64_keeps d f st v).qps
@[simp] theorem Dev.finish64_i3c (d : Dev) (f : Nat) (st : Status) (v : Nat) : (d.finish64 f st v).i3c = d.i3c := (Dev.finish64_keeps d f st v).i3c
@[simp] theorem Dev.finish64_jtag (d : Dev) (f : Nat) (st : Status) (v : Nat) : (d.finish64 f st v).jtag = d.jtag := (Dev.finish64_keeps d f st v).jtag
@[simp] theorem Dev.finish64_boot (d : Dev) (f : Nat) (st : Status) (v : Nat) : (d.finish64 f st v).boot = d.boot := (Dev.finish64_keeps d f st v).boot

end Sys2Proof.Machine
end

