-- ==== Sys2Proof/WellFormed.lean ====
section
/-! DEFINITION. Which commands can exist at all: every operand within the numbers the spec gives its kind (16 ports, 64 queues, 64 functions, 32 sheds of 72 cores, 24 HBM and 12 Hayloft stacks, 8 media engines, 8 mailboxes of 12 words). -/
namespace Sys2Proof

/-- Table 3.1: mailboxes are numbered 0 to 7, sheds 0 to 31, devices 0 to 2,047, functions 0 to 63. -/
def Mbox.wf : Mbox → Bool
  | .host fn m => fn < 64 && m < 8
  | .shed s => s < 32
  | .peer dev m => dev < 2048 && m < 8
  | .remote m => m < 8

/-- Table 12.5: the fields of a packet header fit their widths. -/
def Pkt.wf (p : Pkt) : Bool :=
  p.kind < 256 && p.vc < 4 && p.src < 2048 && p.dst < 2048 && p.paddock < 4096 && p.desc < 4096 && p.format < 256 &&
    p.tag < 2 ^ 16 && p.length ≤ 4096 && p.payload.length ≤ 4096 && p.seq < 2 ^ 32 && p.step < 2 ^ 24 &&
    p.offset < 2 ^ 64 && p.crc < 2 ^ 32

/-- Table 15.1. -/
def Pll.wf : Pll → Bool
  | .die n => n < 4
  | .yard => true
  | .network n => n < 5
  | .hbm n => n < 24
  | .hayloft => true
  | .media => true
  | .serdes n => n < 19

/-- Table 11.1, R213: a memory error lies at an address that exists. -/
def MemFault.wf : MemFault → Bool
  | .none | .sramCorrected => true
  | .corrected a | .retried a | .readFailed a | .uncorrectable a => a < 768 * 10 ^ 9
  | .writeFailed a n => a + n ≤ 768 * 10 ^ 9
  | .cribDouble s c o => s < 32 && c < 72 && o < 2 ^ 21
  | .loftDouble s o => s < 32 && o < 48 * 2 ^ 20
  | .linkDouble n => n < 2 ^ 56

/-- R332, R333: speeds 1 to 6 and widths up to x16. -/
def PcieLink.wf (x : PcieLink) : Bool := 1 ≤ x.speed && x.speed ≤ 6 && [1, 2, 4, 8, 16].contains x.width

/-- A command whose operands exist on an E9. -/
def Instr.wf : Instr → Bool
  | .nop _ => true
  | .identify _ => true
  | .featureGet _ => true
  | .featureSet _ => true
  | .paddockCreate _ => true
  | .paddockDestroy _ => true
  | .queueBind _ => true
  | .queueUnbind _ => true
  | .mapUpdate _ => true
  | .planLoad _ _ mf => mf.wf
  | .planRun _ => true
  | .planAbort _ => true
  | .planUnload _ => true
  | .copy _ mf => mf.wf
  | .fill _ mf => mf.wf
  | .windowSet _ => true
  | .prefetchSchedule _ => true
  | .carryoverSet _ => true
  | .hayloftWrite _ mf => mf.wf
  | .hayloftRead _ _ mf => mf.wf
  | .hayloftTrim _ => true
  | .hayloftStatus _ => true
  | .seqCreate _ => true
  | .seqAppend _ mf => mf.wf
  | .seqVerify _ mf => mf.wf
  | .seqPagesEdit _ mf => mf.wf
  | .seqSwapOut _ mf => mf.wf
  | .seqSwapIn _ mf => mf.wf
  | .seqDrop _ => true
  | .poolSet _ => true
  | .groupDefine _ => true
  | .collRun _ mf => mf.wf
  | .collRunv _ mf => mf.wf
  | .groupRelease _ => true
  | .encOpen _ => true
  | .encPicture _ => true
  | .encKey _ => true
  | .decOpen _ => true
  | .decData _ => true
  | .mediaClose _ => true
  | .routeLoad _ => true
  | .portEnable _ => true
  | .portDisable _ => true
  | .portRetrain _ => true
  | .portSetReachClass _ => true
  | .portReleaseFence _ => true
  | .gtcRead _ => true
  | .gtcSetRoot _ => true
  | .gtcSteeringOn _ => true
  | .gtcSteeringOff _ => true
  | .gtcPpsSetup _ => true
  | .latencySet _ => true
  | .powerCap _ => true
  | .fallowPolicy _ => true
  | .testRun _ _ => true
  | .coreRetire _ => true
  | .logRead _ corr => corr.all (fun e => e.1 < 16)
  | .guardPolicy _ => true
  | .fallbackBudget _ => true
  | .deviceReset _ => true
  | .paddockReset _ => true
  | .tload _ k c mf => k < 32 && c < 64 && mf.wf
  | .tstore _ k c mf => k < 32 && c < 64 && mf.wf
  | .tmm _ k c mf => k < 32 && c < 64 && mf.wf
  | .tconv _ k c mf => k < 32 && c < 64 && mf.wf
  | .tfft _ k mf => k < 32 && mf.wf
  | .tsf _ k c mf => k < 32 && c < 64 && mf.wf
  | .tnorm _ k c mf => k < 32 && c < 64 && mf.wf
  | .tsoft _ k c mf => k < 32 && c < 64 && mf.wf
  | .txch _ k c mf => k < 32 && c < 64 && mf.wf
  | .tbatch _ k mf => k < 32 && mf.wf
  | .tsig _ k c => k < 32 && (c.all (· < 64))
  | .twait _ k => k < 32
  | .twaitRelease _ k => k < 32
  | .tchain _ k c => k < 32 && c < 64
  | .planStepEnd _ => true
  | .commandFetch q _ => q < 64
  | .commandStart _ => true
  | .commandTimeout _ _ => true
  | .interruptCoalesceTimeout fn vec _ => fn < 64 && vec < 2048
  | .sqDbWrite fn q _ _ => fn < 64 && q < 64
  | .cqHdWrite fn q _ => fn < 64 && q < 64
  | .admqEnable _ => true
  | .admqDisable _ => true
  | .evtRingEnable fn _ => fn < 64
  | .evtRingDisable fn _ => fn < 64
  | .evtHeadWrite fn _ => fn < 64
  | .evtCauseClear fn _ => fn < 64
  | .evtLostRead fn => fn < 64
  | .mboxDataWrite mb i _ _ => mb.wf && i < 12
  | .mboxGo mb _ => mb.wf
  | .mboxAbortedClear mb _ => mb.wf
  | .mboxRelease mb => mb.wf
  | .mboxWakeDone mb => mb.wf
  | .shedMboxMessage shed _ data => shed < 32 && data.length ≤ 12
  | .standbyRequest fn m => fn < 64 && m < 8
  | .standbyEnter => true
  | .standbyWake => true
  | .qpCreate fn m => fn < 64 && m < 8
  | .qpDestroy fn m => fn < 64 && m < 8
  | .portAddr fn m => fn < 64 && m < 8
  | .keyLoad fn m => fn < 64 && m < 8
  | .keyClear fn m => fn < 64 && m < 8
  | .kekLoad fn m => fn < 64 && m < 8
  | .bar2Read _ _ _ => true
  | .bar2Write _ _ _ => true
  | .bar2WinWrite fn _ => fn < 64
  | .registerWrite fn off width _ => fn < 64 && off < 2 ^ 17 && (width == 4 || width == 8)
  | .numvfsWrite n => n < 64
  | .writePacket p pkt => p < 16 && pkt.wf
  | .readReqPacket p pkt => p < 16 && pkt.wf
  | .readDataPacket p pkt => p < 16 && pkt.wf
  | .pagePacket p pkt => p < 16 && pkt.wf
  | .signalPacket p pkt => p < 16 && pkt.wf
  | .collectivePacket p pkt => p < 16 && pkt.wf
  | .collFailPacket p pkt => p < 16 && pkt.wf
  | .slotReply p pkt => p < 16 && pkt.wf
  | .slotResult p pkt => p < 16 && pkt.wf
  | .slotAbort p pkt => p < 16 && pkt.wf
  | .slotReplyTimeout _ _ => true
  | .slotResultGapTimeout _ _ => true
  | .mailboxPacket p pkt => p < 16 && pkt.wf
  | .responsePacket p pkt => p < 16 && pkt.wf
  | .pageResend dst _ _ => dst < 2048
  | .collResend dst _ _ => dst < 2048
  | .mboxRemoteResend dev m _ => dev < 2048 && m < 8
  | .mboxRemoteTimeout dev m _ => dev < 2048 && m < 8
  | .portTrainingStart => true
  | .portTrainingDone p _ lanes => p < 16 && lanes < 512
  | .portTrainingTimeout p _ => p < 16
  | .portAutoRetrain p _ => p < 16
  | .linkReplay p _ _ => p < 16
  | .replayStorm p _ _ => p < 16
  | .laneErrorExcess p _ lane => p < 16 && lane < 9
  | .laneSwapDone p _ _ => p < 16
  | .laneSwapHoldTimeout p _ _ => p < 16
  | .linkSignalLoss p => p < 16
  | .gtcTimestampExchange p _ _ _ _ => p < 16
  | .gtcLock _ => true
  | .gtcUnlock _ => true
  | .gtcPpsOutPulse _ => true
  | .gtcPpsInEdge _ _ => true
  | .gtcPpsInLoss _ => true
  | .weightFetchStart _ => true
  | .weightFetchDone _ layer _ => layer < 65536
  | .pinnedFetchDone _ stream _ _ => stream < 4
  | .weightLateLimit _ _ => true
  | .hayloftRelocation stack _ => stack < 12
  | .hbmScrub a _ => a < 768 * 10 ^ 9
  | .hbmRefreshChange stack _ => stack < 24
  | .hbmThrottleStep stack _ _ => stack < 24
  | .hbmThrottleRecover stack _ _ => stack < 24
  | .hbmIssuePause stack _ => stack < 24
  | .mediaPictureStart e mf => e < 8 && mf.wf
  | .mediaPictureDone e _ _ => e < 8
  | .encOutputResume e _ => e < 8
  | .rdmaWriteIn _ _ _ _ => true
  | .rdmaReadIn _ _ _ _ => true
  | .rdmaSendIn _ => true
  | .cnpIn _ => true
  | .pfcFrameIn port prio _ => port < 2 && prio < 8
  | .ethFrameDiscard port => port < 2
  | .shedEnterGate shed _ => shed < 32
  | .shedEnterHold shed _ => shed < 32
  | .shedSaveStart shed _ => shed < 32
  | .shedSaveDone shed => shed < 32
  | .shedEnterOff shed _ => shed < 32
  | .shedWakeDone shed => shed < 32
  | .pllLock pll => pll.wf
  | .deviceRestEnter _ => true
  | .powerCapLower _ _ => true
  | .powerCapRaise _ _ => true
  | .paddockSwitch mask => mask < 2 ^ 32
  | .paddockTurnExpiry mask _ => mask < 2 ^ 32
  | .paddockSwitchDone mask => mask < 2 ^ 32
  | .fallowSweepStart shed core _ => shed < 32 && core < 72
  | .fallowSliceStart shed core slice _ => shed < 32 && core < 72 && slice < 8
  | .fallowSliceVerdict shed core _ _ => shed < 32 && core < 72
  | .fallowSliceYield shed core _ => shed < 32 && core < 72
  | .fallowShedWake shed _ => shed < 32
  | .shedLeaveService shed => shed < 32
  | .shedReset shed => shed < 32
  | .supplyWarningEnter _ => true
  | .supplyWarningExit _ _ _ _ => true
  | .supplyRecoveryStep die _ => die < 4
  | .pwrWarnAssert => true
  | .pwrWarnDeassert => true
  | .vinBelow38V _ => true
  | .auxSupplyLoss _ _ => true
  | .refclkLoss _ => true
  | .refclkReturn _ => true
  | .perstAssert => true
  | .perstDeassert => true
  | .pfFlr => true
  | .pcieHotReset link => link.wf
  | .pcieLinkDown link => link.wf
  | .vfFlr fn => fn < 64
  | .coldStart _ link _ => link.wf
  | .thermalTrip _ => true
  | .thermAlertEval _ => true
  | .i3cEntdaa addr => addr < 128
  | .i3cAlertCauseRead => true
  | .i3cStandbyWake _ => true
  | .jtagTapInstruction _ => true
  | .warmResetDone => true
  | .vinRestore _ => true
  | .hbmIssueResume stack _ => stack < 24
  | .thermalTripCooled _ => true
  | .transferDone _ => true
  | .pcieCompletionTimeout _ _ cls => cls < 4

end Sys2Proof
end

