-- ==== Sys2Proof/Tests/Slice0.lean ====
section
/-! SUPPORT. Small tests: the well-formedness smoke, the spec's worked numbers, one step per family of commands, and for every statement with hypotheses a state that meets them. -/
namespace Sys2Proof.Tests
open Sys2Proof Sys2Proof.Machine
set_option Elab.async false

/-! ### States -/

def words (ws : List Nat) : List Word := ws.map (BitVec.ofNat 32)

/-- A bound queue with 16 slots in each ring. -/
def ring : Queue := { Queue.blank with
  paddock := 1, credit := 8, sqBase := 0x20000, cqBase := 0x10000, sqLog2 := 4, cqLog2 := 4, vector := 3, timeoutMs := 10000, state := .active }
/-- A paddock on sheds 0 and 1, with 1 GiB of HBM and 1 GiB of the host. -/
def pad1 : Paddock :=
  { cls := .ordinary, shedMask := 3, dedFirst := 0, dedCount := 0, vcShares := 0, hbmMap := [(0, 2 ^ 30)], hbmGen := 0,
    hostMap := [(0, 2 ^ 30)], hostGen := 0, pool := none, tolNs := 800, isIn := true, inSince := 0, ctxSlots := [] }
/-- A READY device with paddock 1 and queues 0 and 1. -/
def dev0 : Dev := { Dev.reset with
  boot := { Boot.blank with ready := true, reset := none }, supply := { Supply.blank with perst := true },
  gtc := { Gtc.blank with counting := true }, adm := { sqBase := 0, cqBase := 0, sqLog2 := 4, cqLog2 := 4, enable := true, held := false },
  queues := [(0, { ring with paddock := 0xFFF, credit := 64 }), (1, ring)], pads := [(1, pad1)] }
def st (d : Dev) : State := { State.reset with dev := d }
/-- A running command of queue q. -/
def cmd (q : Nat) (ws : List Nat) : Flight :=
  { queue := q, slot := 0, words := words ws, phase := .running, gtcStart := 0, startNow := 0, flags := 0, fenceBad := false,
    recheck := false, status := .ok, countA := 0, countB := 0, ext := 0, outNs := 0, outSince := none,
    swappedIn := [], ver := 2, wide := none, allow := 0 }
/-- `d` with command 7 in flight. -/
def withCmd (d : Dev) (q : Nat) (ws : List Nat) : State := st { d with flights := [(7, cmd q ws)] }
/-- Command 7 runs in `withCmd d q ws`, and its completion ring has room. -/
def good (d : Dev) (q : Nat) (ws : List Nat) (op : Nat) : Prop :=
  Runs (withCmd d q ws) 7 op (cmd q ws) ∧ SlotFree (withCmd d q ws).dev (cmd q ws)
theorem good_of {d : Dev} {q : Nat} {ws : List Nat} {op : Nat} (h : (cmd q ws).opcode = op)
    (h2 : (d.queue q).cqSpace = true) (h3 : (d.queue q).waitCq = []) : good d q ws op := ⟨⟨rfl, rfl, h⟩, h2, h3⟩

/-! ### Well-formedness -/

def mb0 : Mbox := .host 0 0
def pkt0 : Pkt :=
  { kind := 1, vc := 0, src := 0, dst := 0, paddock := 1, desc := 0, format := 0, tag := 0, length := 0, seq := 0, step := 0, offset := 0,
    crc := 0, payload := [] }

theorem test_wf_mailbox_numbers :
    [Mbox.host 64 0, .host 0 8, .shed 32, .peer 2048 0, .peer 0 8, .remote 8].all (fun m => !m.wf) = true ∧
    [Mbox.host 63 7, .shed 31, .peer 2047 7, .remote 7].all Mbox.wf = true := by decide

theorem test_wf_packet_fields :
    [{ pkt0 with kind := 256 }, { pkt0 with vc := 4 }, { pkt0 with src := 2048 }, { pkt0 with dst := 2048 }, { pkt0 with paddock := 4096 },
     { pkt0 with desc := 4096 }, { pkt0 with format := 256 }, { pkt0 with tag := 2 ^ 16 }, { pkt0 with length := 4097 },
     { pkt0 with seq := 2 ^ 32 }, { pkt0 with step := 2 ^ 24 }, { pkt0 with offset := 2 ^ 64 },
     { pkt0 with crc := 2 ^ 32 }].all (fun p => !p.wf) = true ∧ pkt0.wf = true := by decide

theorem test_wf_packet_payload : Pkt.wf { pkt0 with payload := List.replicate 4097 0 } = false := by
  have h : (List.replicate 4097 (0 : Byte)).length = 4097 := List.length_replicate
  simp only [Pkt.wf, h]
  decide

theorem test_wf_plls :
    [Pll.die 4, .network 5, .hbm 24, .serdes 19].all (fun p => !p.wf) = true ∧ [Pll.die 3, .network 4, .hbm 23, .serdes 18].all Pll.wf = true := by
  decide

theorem test_wf_tile_rows :
    [Instr.tload 0 32 0 .none, .tload 0 0 64 .none, .tstore 0 32 0 .none, .tstore 0 0 64 .none, .tmm 0 32 0 .none, .tmm 0 0 64 .none,
     .tconv 0 32 0 .none, .tconv 0 0 64 .none, .tfft 0 32 .none, .tsf 0 32 0 .none, .tsf 0 0 64 .none, .tnorm 0 32 0 .none, .tnorm 0 0 64 .none,
     .tsoft 0 32 0 .none, .tsoft 0 0 64 .none, .txch 0 32 0 .none, .txch 0 0 64 .none, .tbatch 0 32 .none, .tsig 0 32 none, .tsig 0 0 (some 64), .twait 0 32, .twaitRelease 0 32, .tchain 0 32 0,
     .tchain 0 0 64].all (fun i => !i.wf) = true ∧ [Instr.tload 0 31 63 .none, .tsig 0 31 (some 63), .tsig 0 0 none].all Instr.wf = true := by
  decide

theorem test_wf_queue_rows :
    [Instr.commandFetch 64 none, .interruptCoalesceTimeout 64 0 0, .interruptCoalesceTimeout 0 2048 0, .sqDbWrite 64 0 0 [],
     .sqDbWrite 0 64 0 [], .cqHdWrite 64 0 0, .cqHdWrite 0 64 0, .evtRingEnable 64 0, .evtRingDisable 64 0, .evtHeadWrite 64 0,
     .evtCauseClear 64 0, .evtLostRead 64, .bar2WinWrite 64 0, .registerWrite 64 0 4 0, .registerWrite 0 (2 ^ 17) 4 0, .registerWrite 0 0 2 0,
     .numvfsWrite 64, .vfFlr 64, .pcieCompletionTimeout 0 0 4].all (fun i => !i.wf) = true ∧
    [Instr.commandFetch 63 none, .sqDbWrite 63 63 0 [], .registerWrite 63 0 8 0, .numvfsWrite 63].all Instr.wf = true := by decide

theorem test_wf_mailbox_rows :
    [Instr.mboxDataWrite (.shed 32) 0 0 true, .mboxDataWrite mb0 12 0 false, .mboxGo (.shed 32) true, .mboxAbortedClear (.shed 32) 0, .mboxRelease (.shed 32),
     .mboxWakeDone (.shed 32), .shedMboxMessage 32 true [], .shedMboxMessage 0 true (List.replicate 13 0), .standbyRequest 64 0,
     .standbyRequest 0 8, .qpCreate 64 0, .qpCreate 0 8, .qpDestroy 64 0, .qpDestroy 0 8, .portAddr 64 0, .portAddr 0 8, .keyLoad 64 0,
     .keyLoad 0 8, .keyClear 64 0, .keyClear 0 8, .kekLoad 64 0, .kekLoad 0 8, .mboxRemoteResend 2048 0 0, .mboxRemoteResend 0 8 0,
     .mboxRemoteTimeout 2048 0 0, .mboxRemoteTimeout 0 8 0].all (fun i => !i.wf) = true ∧
    [Instr.mboxDataWrite mb0 11 0 true, .shedMboxMessage 31 true (List.replicate 12 0)].all Instr.wf = true := by decide

def badPkt : Pkt := { pkt0 with kind := 256 }

theorem test_wf_packet_rows :
    [Instr.writePacket 16 pkt0, .writePacket 0 badPkt, .readReqPacket 16 pkt0, .readReqPacket 0 badPkt, .readDataPacket 16 pkt0,
     .readDataPacket 0 badPkt, .pagePacket 16 pkt0, .pagePacket 0 badPkt, .signalPacket 16 pkt0, .signalPacket 0 badPkt,
     .collectivePacket 16 pkt0, .collectivePacket 0 badPkt, .collFailPacket 16 pkt0, .collFailPacket 0 badPkt, .slotReply 16 pkt0,
     .slotReply 0 badPkt, .slotResult 16 pkt0, .slotResult 0 badPkt, .slotAbort 16 pkt0, .slotAbort 0 badPkt, .mailboxPacket 16 pkt0,
     .mailboxPacket 0 badPkt, .responsePacket 16 pkt0, .responsePacket 0 badPkt, .pageResend 2048 0 0, .collResend 2048 0 0].all (fun i => !i.wf) = true ∧
    (Instr.writePacket 15 pkt0).wf = true := by decide

def nb0 : Neighbour := { serial := 1, node := 5, port := 0, coord := 0, current := 2, oldest := 1 }

theorem test_wf_link_rows :
    [Instr.portTrainingDone 16 nb0 0, .portTrainingDone 0 nb0 512, .portTrainingTimeout 16 0, .portAutoRetrain 16 0, .linkReplay 16 true 0,
     .replayStorm 16 true none, .laneErrorExcess 16 true 0, .laneErrorExcess 0 true 9, .laneSwapDone 16 true 0,
     .laneSwapHoldTimeout 16 true 0, .linkSignalLoss 16, .gtcTimestampExchange 16 0 0 0 0].all (fun i => !i.wf) = true ∧
    [Instr.portTrainingDone 15 nb0 511, .laneErrorExcess 15 true 8].all Instr.wf = true := by decide

theorem test_wf_memory_and_media_rows :
    [Instr.weightFetchDone 0 65536 none, .pinnedFetchDone 0 4 0 none, .hayloftRelocation 12 ⟨0, 0, 0, 0, 0, 0⟩, .hbmRefreshChange 24 0,
     .hbmThrottleStep 24 0 0, .hbmThrottleRecover 24 0 0, .hbmIssuePause 24 0, .hbmIssueResume 24 0, .mediaPictureStart 8 .none,
     .mediaPictureDone 8 none 0, .encOutputResume 8 0, .pfcFrameIn 2 0 0, .pfcFrameIn 0 8 0, .ethFrameDiscard 2].all (fun i => !i.wf) = true ∧
    [Instr.hbmIssuePause 23 0, .mediaPictureStart 7 .none, .pfcFrameIn 1 7 0].all Instr.wf = true := by decide

theorem test_wf_power_and_fallow_rows :
    [Instr.shedEnterGate 32 0, .shedEnterHold 32 0, .shedSaveStart 32 0, .shedSaveDone 32, .shedEnterOff 32 0, .shedWakeDone 32,
     .pllLock (.die 4), .paddockSwitch (2 ^ 32), .paddockTurnExpiry (2 ^ 32) 0, .paddockSwitchDone (2 ^ 32), .fallowSweepStart 32 0 0,
     .fallowSweepStart 0 72 0, .fallowSliceStart 32 0 0 0, .fallowSliceStart 0 72 0 0, .fallowSliceStart 0 0 8 0, .fallowSliceVerdict 32 0 true 0,
     .fallowSliceVerdict 0 72 true 0, .fallowSliceYield 32 0 0, .fallowSliceYield 0 72 0, .fallowShedWake 32 0, .shedLeaveService 32,
     .shedReset 32, .supplyRecoveryStep 4 0, .i3cEntdaa 128].all (fun i => !i.wf) = true ∧
    [Instr.fallowSliceStart 31 71 7 0, .shedReset 31, .i3cEntdaa 127].all Instr.wf = true := by decide

theorem test_wf_memory_faults :
    [Instr.copy 0 (.corrected (768 * 10 ^ 9)), .fill 0 (.writeFailed (768 * 10 ^ 9 - 1) 2), .planLoad 0 none (.cribDouble 32 0 0),
     .hayloftWrite 0 (.cribDouble 0 72 0), .hayloftRead 0 none (.cribDouble 0 0 (2 ^ 21)), .seqAppend 0 (.loftDouble 32 0),
     .seqVerify 0 (.loftDouble 0 (48 * 2 ^ 20)), .seqPagesEdit 0 (.linkDouble (2 ^ 56)), .seqSwapOut 0 (.retried (768 * 10 ^ 9)),
     .seqSwapIn 0 (.readFailed (768 * 10 ^ 9)), .collRun 0 (.uncorrectable (768 * 10 ^ 9)), .collRunv 0 (.corrected (10 ^ 12)),
     .tload 0 0 0 (.linkDouble (2 ^ 60)), .mediaPictureStart 0 (.corrected (10 ^ 12)), .hbmScrub (768 * 10 ^ 9) none].all (fun i => !i.wf) = true ∧
    [Instr.copy 0 (.corrected 0), .fill 0 (.writeFailed (768 * 10 ^ 9 - 2) 2), .collRun 0 .sramCorrected].all Instr.wf = true := by decide

theorem test_wf_pcie_links :
    [Instr.pcieHotReset ⟨0, 16⟩, .pcieLinkDown ⟨7, 16⟩, .coldStart 0 ⟨6, 3⟩ []].all (fun i => !i.wf) = true ∧
    [Instr.pcieHotReset ⟨6, 16⟩, .pcieLinkDown ⟨1, 1⟩, .coldStart 0 ⟨5, 8⟩ []].all Instr.wf = true := by decide

theorem test_no_row_has_bits : decodeTableWord 32 0 = none := rfl

/-! ### States that meet the hypotheses of the statements -/

theorem witness_IdleStepCountsOneTick : (st dev0).pending = [] ∧ (st dev0).dev.gtc.counting = true := by decide
theorem witness_EveryCommandAnswers : ¬ DebugPermitted (.jtagTapInstruction .debug) (st dev0) ∧ ¬ DebugPermitted (.nop 0) (st dev0) :=
  ⟨fun h => absurd h.2 (by decide), fun h => Instr.noConfusion h.1⟩
theorem witness_NonVolatileRecordsOnlyGrow : ∃ t, step (st dev0) = .next t := ⟨_, rfl⟩
theorem witness_HayloftStaysCanonical : (st dev0).hay.canonical := by
  repeat' apply And.intro
  all_goals decide +kernel

theorem witness_CompletionEntryIsWritten :
    KV.find (withCmd dev0 0 [0]).dev.flights 7 = some (cmd 0 [0]) ∧ (cmd 0 [0]).phase ≠ .finished ∧ SlotFree (withCmd dev0 0 [0]).dev (cmd 0 [0]) := by
  repeat' apply And.intro
  all_goals decide +kernel
/-- Queue 1 with its completion ring full. -/
def devFull : Dev := { dev0 with queues := [(1, { ring with cqTail := 15, waitCq := [3] })] }
theorem witness_FullRingKeepsTheCommand :
    KV.find (withCmd devFull 1 [0]).dev.flights 7 = some (cmd 1 [0]) ∧ (cmd 1 [0]).phase ≠ .finished ∧
      ((withCmd devFull 1 [0]).dev.queue (cmd 1 [0]).queue).cqSpace = false := by
  repeat' apply And.intro
  all_goals decide +kernel
theorem witness_CompletionKeepsTheRest : KV.find (withCmd devFull 1 [0]).dev.flights 7 = some (cmd 1 [0]) := rfl

theorem witness_ReportsComplete :
    good dev0 0 [0x00] 0x00 ∧ good dev0 0 [0x01] 0x01 ∧ good dev0 0 [0x02, 0, 0x0001] 0x02 ∧ good dev0 0 [0x93, 0, 0, 0, 4096, 1] 0x93 ∧
      good dev0 1 [0x33] 0x33 := by
  refine ⟨?_, ?_, ?_, ?_, ?_⟩ <;> exact good_of (by decide) rfl rfl

/-- FEATURE_SET of 0x0001: 64 is the largest value, 65 is refused. -/
theorem witness_FeatureSetWritesOneFeature :
    good dev0 0 [0x03, 0, 1, 0, 64] 0x03 ∧ featureBad NonVol.reset (withCmd dev0 0 []).view 1 64 = false ∧
      featureBad NonVol.reset (withCmd dev0 0 []).view 1 65 = true ∧ featureBad NonVol.reset (withCmd dev0 0 []).view 1 0 = true := by
  repeat' apply And.intro
  all_goals decide +kernel

/-- QUEUE_BIND of queue 2, of queue 1 (bound), and UNBIND of both. -/
theorem witness_QueuesAreBoundAndUnbound :
    good dev0 0 [0x06, 0, 2] 0x06 ∧ (cmd 0 [0x06, 0, 2]).isUnbind = false ∧ (dev0.queue 2).state = .unbound ∧
      good dev0 0 [0x06, 0, 1] 0x06 ∧ (dev0.queue 1).state ≠ .unbound ∧ (cmd 0 [0x06, 0, 1]).bindQueue ≠ 0 ∧
      (cmd 0 [0x06, 0, 256 + 1]).isUnbind = true ∧ (cmd 0 [0x06, 0, 256 + 2]).isUnbind = true ∧
      (cmd 0 [0x06, 0, 256 + 1]).bindQueue = 1 := by
  repeat' apply And.intro
  all_goals decide +kernel

/-- A map table of one entry at host address 0x1000, and one of overlapping entries at 0x2000. -/
def memMaps : Memory :=
  (((Memory.writeLE [] 0x1008 8 4096).writeLE 0x2008 8 8192).writeLE 0x2010 8 4096).writeLE 0x2018 8 8192
def devMaps : Dev := { dev0 with host := memMaps }
theorem witness_MapUpdateReplacesOneMap :
    good devMaps 0 [0x07 + 0x10000, 0, 1, 0, 0x1000, 0, 1] 0x07 ∧ devMaps.pad 1 = some pad1 ∧
      mapOk (readMap devMaps.host 0x1000 1) = true ∧ mapOk (readMap devMaps.host 0x2000 2) = false ∧
      (∀ e ∈ readMap devMaps.host 0x1000 1, NonVol.reset.reachesHole e.1 e.2 = false ∧ e.1 + e.2 ≤ hbmTop ∧
        ∀ q ∈ devMaps.pads, q.1 ≠ 1 → q.2.hitsDedicated e.1 e.2 = false) := by
  repeat' apply And.intro
  all_goals decide +kernel

/-- COPY of one byte from host to HBM, and from the peer device 5; COPY and FILL of nothing; FILL of one byte of HBM. -/
theorem witness_CopyAndFillMoveTheirBytes :
    good dev0 1 [0x20, 0, 0, 0, 64, 0, 1, 0, 0x01] 0x20 ∧ (cmd 1 [0x20, 0, 0, 0, 64, 0, 1, 0, 0x01]).d 6 = 1 ∧
      spaceOf (fld ((cmd 1 [0x20, 0, 0, 0, 64, 0, 1, 0, 0x01]).w 8) 0 4) ≠ spaceOf (fld ((cmd 1 [0x20, 0, 0, 0, 64, 0, 1, 0, 0x01]).w 8) 4 4) ∧
      fld ((cmd 1 [0x20, 0, 0, 0, 64, 0, 1, 0, 0x01]).w 8) 0 4 = 1 ∧ dev0.poison = [] ∧
      good dev0 1 [0x20, 0, 0, 0, 64, 0, 1, 0, 0x5002] 0x20 ∧ fld ((cmd 1 [0x20, 0, 0, 0, 64, 0, 1, 0, 0x5002]).w 8) 0 4 = 2 ∧
      fld ((cmd 1 [0x21, 0, 0, 0, 1, 0, 0xAB, 0]).w 7) 0 4 = 0 ∧
      good dev0 1 [0x21, 0, 0, 0, 1, 0, 0xAB, 0] 0x21 ∧ (cmd 1 [0x21, 0, 0, 0, 1, 0, 0xAB, 0]).d 4 = 1 ∧
      good dev0 1 [0x20] 0x20 ∧ (cmd 1 [0x20]).d 6 = 0 ∧ good dev0 1 [0x21] 0x21 ∧ (cmd 1 [0x21]).d 4 = 0 := by
  repeat' apply And.intro
  all_goals decide +kernel

def moving (ws : List Nat) : Flight := { cmd 1 ws with phase := .moving, countA := 1 }
def sent0 (f : Option Nat) : Sent := { port := 0, pkt := pkt0, flight := f, unit := 0, at' := 0, busy := false, recovered := false }
theorem witness_CommandsEndAfterTheirData :
    KV.find { dev0 with flights := [(7, moving [0x20])] }.flights 7 = some (moving [0x20]) ∧ SlotFree dev0 (moving [0x20]) ∧
      dev0.owes 7 = false ∧ Dev.owes { dev0 with sent := [sent0 (some 7)] } 7 = true ∧ dev0.waitsPort 7 = false ∧
      Dev.waitsPort { dev0 with ports := [(2, { Port.blank with waiter := some 7 })] } 7 = true ∧ KV.find dev0.colls 7 = none ∧
      (cmd 1 [0x20, 0, 0, 0, 64, 0, 1, 0, 0x01]).readsHost = true := by
  repeat' apply And.intro
  all_goals decide +kernel

/-- A ring of 16 slots, empty: tail 15 is taken, tail 16 refused; with 3 entries waiting a tail of 2 is refused. -/
theorem witness_SubmissionDoorbellMovesTheTail :
    dev0.fullUp = true ∧ dev0.answers 0 1 = true ∧ (dev0.queue 1).state ≠ .unbound ∧ (dev0.queue 1).badTail 15 = false ∧
      (dev0.queue 1).badTail 16 = true ∧ Queue.badTail { ring with tail := 3 } 2 = true ∧ Queue.badTail { ring with tail := 3 } 3 = false ∧
      (dev0.queue 9).state = .unbound := by decide
theorem witness_CompletionHeadFreesSlots :
    dev0.fullUp = true ∧ dev0.answers 0 1 = true ∧ (dev0.queue 1).state ≠ .unbound ∧ dev0.drains 1 = false ∧
      Dev.drains { dev0 with flights := [(7, cmd 0 [0])] } 0 = true ∧ (dev0.queue 1).badHead 0 = false ∧
      (dev0.queue 1).cqHead < 2 ^ (dev0.queue 1).cqLog2 ∧ (dev0.queue 1).waitCq = [] ∧
      (dev0.queue 1).badHead 1 = true ∧ (dev0.queue 1).badHead 16 = true ∧ Queue.badHead { ring with cqTail := 2 } 2 = false := by decide

def devOff : Dev := { dev0 with adm := { dev0.adm with enable := false }, queues := [] }
theorem witness_AdminQueueOpensAndCloses :
    devOff.barUp = true ∧ devOff.devPower ≠ .standby ∧ devOff.adm.enable = false ∧ devOff.boot.ready = true ∧ dev0.adm.enable = true ∧ (devOff.queue 0).waitCq = [] ∧
      logOk 4 = true ∧ logOk 16 = true ∧ logOk 3 = false ∧ logOk 17 = false ∧
      Dev.barUp { devOff with boot := { devOff.boot with ready := false } } = true := by decide

def devRing : Dev := { dev0 with fns := [(0, { Fn.blank with ring := { Ring.blank with enable := true, log2 := 4, tail := 2 }, coal := [(3, (1, 0))] })] }
theorem witness_EventsReachTheirFunction :
    dev0.barUp = true ∧ (dev0.fn 0).ring.enable = false ∧ (devRing.fn 0).ring.enable = true ∧ (devRing.fn 0).ring.badHead 2 = false ∧
      (devRing.fn 0).ring.badHead 3 = true ∧ (devRing.fn 0).ring.badHead 16 = true ∧ KV.find (devRing.fn 0).coal 3 = some (1, 0) ∧
      0 + devRing.feature 2 * 1000 ≤ devRing.now + devRing.feature 2 * 1000 := by decide

def devBar2 : Dev := { dev0 with bar2 := { enable := true, baseGib := 715 } }
theorem witness_Bar2WindowReachesHbm :
    devBar2.fullUp = true ∧ devBar2.bar2.enable = true ∧ 0 < bar2Size ∧ NonVol.reset.hole (devBar2.bar2Addr 0) = false ∧
      fld (BitVec.toNat (715 : DWord)) 0 10 ≤ 715 := by decide

theorem witness_RegistersAndFunctionsAreWritten :
    dev0.barUp = true ∧ dev0.devPower ≠ .standby ∧ dev0.numVfs ≤ 63 ∧ Dev.numVfs { dev0 with numVfs := 1 } = 1 ∧ dev0.numVfs < 1 := by decide

/-! ### Mailboxes -/

def devFullMbox : Dev := { dev0 with fns := [(0, { Fn.blank with mbox := [(0, { MboxSt.blank with full := true })] })] }
theorem witness_HostMailboxPassesAMessage :
    dev0.boot.reset = none ∧ dev0.asleep false (.host 0 7) = false ∧ dev0.asleep true (.host 0 7) = true ∧ dev0.asleep true (.host 0 3) = false ∧
      Dev.asleep { dev0 with devPower := .rest } false (.host 0 3) = true ∧
      Dev.mbox { dev0 with fns := [(0, { Fn.blank with mbox := [(0, { MboxSt.blank with wake := true })] })] } (.host 0 0) =
        { MboxSt.blank with wake := true } ∧ dev0.devPower ≠ .standby ∧ (dev0.mbox (.host 0 3)).full = false ∧ (dev0.mbox (.host 0 3)).aborted = false ∧
      (devFullMbox.mbox (.host 0 0)).full = true ∧ bitOf (BitVec.toNat (4 : Word)) 2 = true ∧ bitOf (BitVec.toNat (3 : Word)) 2 = false := by decide

def shedRun1 (m : MboxSt) : Dev := { dev0 with sheds := [(31, { Shed.blank with power := .run, mbox := m })] }
theorem witness_ShedMailboxAlternates :
    ((shedRun1 MboxSt.blank).shed 31).power = .run ∧ ((shedRun1 MboxSt.blank).shed 31).mbox.full = false ∧
      ((shedRun1 MboxSt.blank).shed 31).mbox.aborted = false ∧ ((shedRun1 { MboxSt.blank with full := true }).shed 31).mbox.full = true ∧
      ((shedRun1 { MboxSt.blank with wake := true }).shed 31).mbox.wake = true ∧ dev0.devPower = .active ∧
      (dev0.shed 31).power ≠ .run ∧ (dev0.shed 31).fwSends = true ∧ (dev0.shed 31).mbox.full = false ∧ ([] : List Word).length ≤ 12 := by decide

/-- A request with code `c` in host mailbox 0, its answer mailbox free. -/
def devReq (c w1 : Nat) : Dev := { dev0 with fns :=
  [(0, { Fn.blank with mbox := [(0, { MboxSt.blank with data := words [c, w1, 0, 0, 0, 0, 0, 0, 0, 0, 0, 0], full := true })] })] }
def isReq (c w1 : Nat) : Bool := ((st (devReq c w1)).view.request 0 0 c).isSome
theorem witness_FirmwareAnswersItsRequests :
    isReq 0x0300 0 = true ∧ dev0.pads ≠ [] ∧ isReq 0x0400 (5 * 65536) = true ∧ KV.has dev0.pads 5 = false ∧ isReq 0x0400 65536 = true ∧
      KV.has dev0.pads 1 = true ∧ isReq 0x0402 1 = true ∧ KV.has dev0.qps 1 = false ∧ isReq 0x0404 1 = true ∧ isReq 0x0500 0x200 = true ∧
      isReq 0x0502 63 = true ∧ (st (devReq 0x0502 63)).view.slotInUse 63 = false ∧ isReq 0x0504 1 = true ∧ isReq 0x0504 0 = true ∧
      bitOf dev0.boot.policy 2 = false ∧ bitOf 4 2 = true ∧ isReq 0x0500 0 = true ∧ dev0.qps.length < 1024 ∧
      Option.isSome (Dev.request { devReq 0x0300 0 with pads := [], flights := [(7, cmd 0 [0])] } 0 0 0x0300) = true := by decide
/-- The last part of a KEY_LOAD, and the second of a KEK_LOAD. -/
theorem witness_FirmwareAnswersItsRequests_parts :
    KV.find (Fn.keyAsm { Fn.blank with keyAsm := [(0, (0, List.replicate 48 0))] }) 0 = some (0, List.replicate 48 0) ∧
      (List.replicate 48 (0 : Byte)).length = 48 ∧ isReq 0x0500 0x200 = true ∧ (NonVol.kek { NonVol.reset with kek := some 0 }) = some 0 ∧
      (NonVol.kekLow { NonVol.reset with kekLow := some 0 }) = some 0 ∧ isReq 0x0502 5 = true := by decide
/-- Region 0 on key slot 5, and a queue pair that no encoder names. -/
theorem witness_FirmwareAnswersItsRequests_slots :
    Dev.slotInUse { dev0 with features := [(0x0120, 1 + 5 * 2 ^ 46)] } 5 = true ∧ dev0.qpNamed 1 = false := by decide

/-! ### A small plan: four descriptors in a crib buffer, a pooling record, one shed with one step -/

def imgCells : List (Nat × Byte) :=
  [(0, 0x50), (1, 0x4C), (2, 0x41), (3, 0x4E), (4, 0x01), (6, 0x09), (7, 0x01), (10, 0x04), (12, 0x01), (14, 0x01),
   (20, 0xFF), (22, 0x01), (33, 0x01), (41, 0x02), (48, 0x10), (49, 0x02), (72, 0x20), (73, 0x02), (85, 0x10), (252, 0x9C),
   (253, 0xA7), (254, 0xAA), (255, 0xEA), (256, 0x40), (257, 0x02), (268, 0x20), (272, 0x01), (276, 0x01), (280, 0x01),
   (284, 0x01), (288, 0x20), (304, 0x20), (306, 0x01), (308, 0x01), (310, 0x01), (312, 0x01), (318, 0xF0), (319, 0xFF),
   (320, 0x40), (321, 0x02), (324, 0x01), (332, 0x20), (336, 0x01), (340, 0x01), (344, 0x01), (348, 0x01), (352, 0x20)] ++
  [(368, 0x20), (370, 0x01), (372, 0x01), (374, 0x01), (376, 0x01), (382, 0xF0), (383, 0xFF), (384, 0x30), (385, 0x02),
   (388, 0x02), (396, 0x20), (400, 0x01), (404, 0x01), (408, 0x01), (412, 0x01), (416, 0x20), (432, 0x20), (434, 0x01),
   (436, 0x01), (438, 0x01), (440, 0x01), (446, 0xF0), (447, 0xFF), (448, 0x40), (449, 0x02), (452, 0x03), (460, 0x01),
   (464, 0x01), (468, 0x01), (472, 0x01), (476, 0x01), (480, 0x01), (496, 0x01), (498, 0x01), (500, 0x01), (502, 0x01),
   (504, 0x01), (510, 0xF0), (511, 0xFF), (521, 0x10), (528, 0x40), (529, 0x02), (536, 0x01), (547, 0x30), (564, 0xFF),
   (565, 0x0F), (566, 0xF0), (567, 0xFF), (578, 0x02), (579, 0xA0), (590, 0xF0), (591, 0xFF)]
def imgBytes : List Byte := (List.range 592).map (fun i => KV.getD imgCells i 0)
def imgAt (base : Nat) : Memory := imgCells.map (fun c => (base + c.1, c.2))

/-- The image at host address 0x1000, and a plan store of 1 MiB at 256 MiB. -/
def hostImg : Memory := Memory.writes [] 0x1000 imgBytes
def devLoad : Dev := { dev0 with features := [(0x0100, 256 + 2 ^ 32)], host := hostImg }
def loadWords (a : Nat) : List Nat := [0x10 + 0x10000, 0, 5, 0, a, 0, 592]
theorem crc_part (n c c' : Nat) (l : List Byte) (r : Nat) (h : (l.take n).foldl crcByte c = c')
    (h2 : (l.drop n).foldl crcByte c' = r) : l.foldl crcByte c = r := by
  rw [← List.take_append_drop n l, List.foldl_append, h]; exact h2
theorem crc_fold : (imgBytes.take 0xFC ++ List.replicate 4 0 ++ imgBytes.drop 0x100).foldl crcByte 0xFFFFFFFF = 0x15555863 :=
  crc_part 74 _ 0x57764C4B _ _ (by decide +kernel) <|
  crc_part 74 _ 0x608FF10 _ _ (by decide +kernel) <|
  crc_part 74 _ 0xC921A13E _ _ (by decide +kernel) <|
  crc_part 74 _ 0x356BE9FF _ _ (by decide +kernel) <|
  crc_part 74 _ 0x92DFE036 _ _ (by decide +kernel) <|
  crc_part 74 _ 0xFF3B388B _ _ (by decide +kernel) <|
  crc_part 74 _ 0x8E1E1DE9 _ _ (by decide +kernel) <|
  crc_part 74 _ 0x15555863 _ _ (by decide +kernel) <|
  by decide +kernel
theorem crcOk_of (im : List Byte) (c : Nat) (h : (im.take 0xFC ++ List.replicate 4 0 ++ im.drop 0x100).foldl crcByte 0xFFFFFFFF = c)
    (h2 : c ^^^ 0xFFFFFFFF = w32 im 0xFC) : crcOk im = true := by
  unfold crcOk crc32c; rw [h]; exact beq_iff_eq.mpr h2
theorem crc_img : crcOk imgBytes = true := crcOk_of imgBytes _ crc_fold (by decide +kernel)
theorem reads_self (bs : List Byte) (a n : Nat) (h : bs.length = n) : (Memory.writes [] a bs).reads a n = bs := by
  rw [← h]; exact Memory.reads_writes bs [] a
theorem plan_img : planOk imgBytes = true := by
  unfold planOk; rw [crc_img]; decide +kernel
theorem load_ok (d : Dev) (x : Flight) (m : Memory) (bs : List Byte) (hm : d.host = m) (hr : m.reads 0x1000 592 = bs) (hp : planOk bs = true)
    (h : (KV.has d.plans x.planKey || 256 ≤ (KV.keep d.plans (fun _ p => p.paddock == x.paddock)).length ||
      d.needsBuckets x.paddock && (readPlan bs).buckets.isEmpty) = false) : d.loadBad x (d.host.reads 0x1000 592) = false := by
  rw [hm, hr]; unfold Dev.loadBad; rw [hp]; simpa using h
theorem witness_PlansComeAndGo_load :
    good devLoad 1 (loadWords 0x1000) 0x10 ∧ fld ((cmd 1 (loadWords 0x1000)).w 3) 0 2 = 0 ∧
      devLoad.loadBad (cmd 1 (loadWords 0x1000)) (devLoad.host.reads 0x1000 592) = false ∧
      dev0.loadBad (cmd 1 (loadWords 0x1000)) (dev0.host.reads 0x1000 592) = true ∧
      devLoad.storeRoom 592 = some (256 * 2 ^ 20) := by
  refine ⟨good_of (by decide +kernel) rfl rfl, by decide +kernel, ?_, by decide +kernel, by decide +kernel⟩
  exact load_ok devLoad _ hostImg imgBytes (by simp only [devLoad]) (reads_self imgBytes 0x1000 592 (by decide +kernel)) plan_img (by decide +kernel)

def base1 : Nat := 256 * 2 ^ 20
def plan1 : Plan := Plan.fresh 1 5 base1 592
def pk1 : Nat := padKey 1 5
def devPlan : Dev := { dev0 with features := [(0x0100, 256 + 2 ^ 32)], plans := [(pk1, plan1)], hbm := imgAt base1 }
/-- A PLAN_RUN of plan 5 in phase `ph`. -/
def runCmd (ph : Phase) : Flight := { cmd 1 [0x10011, 0, 5] with phase := ph }
def devAbort (ys : KV Flight) : Dev := { devPlan with flights := (7, cmd 1 [0x10012, 0, 5]) :: ys }
theorem witness_PlansComeAndGo :
    good devPlan 1 [0x10013, 0, 5] 0x13 ∧ (devPlan.plan? (cmd 1 [0x10013, 0, 5])).isSome = true ∧ good devPlan 1 [0x10012, 0, 5] 0x12 ∧
      (devAbort []).flightsWhere (fun _ y => (cmd 1 [0x10012, 0, 5]).aborts y) = [] ∧
      (devAbort [(8, runCmd .waiting)]).flightsWhere (fun _ y => (cmd 1 [0x10012, 0, 5]).aborts y) = [8] ∧
      (devAbort [(8, runCmd .running)]).flightsWhere (fun _ y => (cmd 1 [0x10012, 0, 5]).aborts y) = [8] := by
  repeat' apply And.intro
  all_goals decide +kernel

/-- A table of one layer of one step, streamed from host memory into a window of 4 MiB. -/
def layer1 : Layer := { readLayer [] 0 0 with stepCount := 1, narrowBuf := 0, wideBuf := 0, residDesc := 0xFFF, carryDesc := 0xFFF, narrowSrc := 2,
                                              narrowBlocks := 1, narrowAddr := 0x4000 }
def table1 : LayerTable := { addr := 0, group := 0xFFFF, layers := [layer1], windowBase := 2 ^ 28, windowMib := 4, lateLimit := 1000 }
def pin1 : PinEntry := { issueStep := 0, needStep := 0, src := 0x4000, source := 2, dest := 2 ^ 29, blocks := 1 }
def plan2 : Plan := { plan1 with table := some table1, pinned := [(0, [pin1])] }
def devTable : Dev := { devPlan with plans := [(pk1, plan2)] }
theorem witness_PlanSettingsReachTheirPlan :
    devTable.plan? (cmd 1 [0x10022, 0, 5]) = some plan2 ∧ plan2.table = some table1 ∧ good devTable 1 [0x10022, 0, 5] 0x22 ∧
      good devTable 1 [0x10023, 0, 5] 0x23 ∧ good devTable 1 [0x10024, 0, 5, 0, 1] 0x24 ∧
      devTable.carryBad pad1 (cmd 1 [0x10024, 0, 5, 0, 1]) plan2 table1 = false ∧
      good devTable 1 [0x100A0, 0, 5] 0xA0 ∧ good devTable 1 [0x100A1, 0, 5] 0xA1 := by
  repeat' apply And.intro
  all_goals decide +kernel

/-! ### Runs -/

def ins (cls flags param a b c : Nat) : TI := { i0 := cls * 2 ^ 28 + flags * 65536 + param, i1 := a, i2 := b, i3 := c, ent := [] }
/-- Plan shed 0 on shed 0, with `t` in queue `u`. -/
def shed1 (u : Nat) (t : TI) : ShedRun := { ShedRun.start [] 0 (List.range 64) with queues := [(u, [t])] }
/-- A run of plan 5 at its first step. -/
def run1 (x : ShedRun) : Run :=
  { started := true, stepOn := true, slots := [], plan := pk1, paddock := 1, stepBase := 0, step := 0, steps := 1, bind := [], args := 0,
    modes := 0, seed := 0, tag := 0, seqs := [], sheds := [(0, x)], tiles := 0, wideLayers := 0, carried := [], bucket := none, layerCarry := none, layerEntry := none, counts := [],
    stepCounts := [], lists := [], signals := [], pins := [], stall := none, suspended := false, preempt := false, gathering := false,
    gathered := [], pageWait := [], wrote := [] }
def devRun (r : Run) : Dev :=
  { devPlan with flights := [(7, runCmd .running)], runs := [(7, r)], sheds := [(0, { Shed.blank with power := .run })] }
def empty1 : ShedRun := ShedRun.start [] 0 (List.range 64)
def new1 : Run := { run1 empty1 with started := false, stepOn := false }
theorem witness_PlanRunStartsItsFirstStep :
    Runs (st (devRun new1)) 7 0x11 (runCmd .running) ∧ new1.zeroBound = false ∧ Run.zeroBound { new1 with bind := [3, 0] } = true ∧
      (devRun new1).pad 1 = some pad1 ∧ (devRun new1).runPlan new1 = some plan1 ∧ new1.seqKeys = [] ∧ (devRun new1).mayRun pad1 new1 = true ∧
      (devRun new1).mayRun { pad1 with isIn := false } new1 = false ∧
      ((devRun new1).planImg plan1).sheds ≤ (pad1.serving NonVol.reset).length := by
  repeat' apply And.intro
  all_goals decide +kernel

/-- Every shed past its marker with nothing queued; the last step, and one before it; and a sequence that is gone. -/
def ended : ShedRun := { empty1 with markers := 1 }
theorem witness_PlanStepEndsWhenEveryShedIsDone :
    Runs (st (devRun (run1 ended))) 7 0x11 (runCmd .running) ∧ (devRun (run1 ended)).stepDone 7 (run1 ended) = true ∧
      (devRun (run1 empty1)).stepDone 7 (run1 empty1) = false ∧ (run1 ended).mode mGuard = false ∧
      (devRun (run1 ended)).badSeq (run1 ended) = none ∧ (run1 ended).step + 1 = (run1 ended).steps ∧ plan1.layerAt 0 = none ∧ (run1 ended).gather plan1 = none ∧
      Run.gather { run1 ended with modes := 8 } { plan2 with table := some { table1 with group := 6 } } = some (padKey 1 6, 1) ∧
      ({ run1 ended with steps := 2 } : Run).step + 1 ≠ ({ run1 ended with steps := 2 } : Run).steps ∧
      (devRun (run1 ended)).badSeq { run1 ended with seqs := [9] } = some 65545 := by
  repeat' apply And.intro
  all_goals decide +kernel

/-- A Hayloft block that is marked failed, and one that reads. -/
theorem witness_HayloftHoldsWhatIsWritten :
    good dev0 1 [0x30, 0, 0, 0, 0, 0, 4096, 0, 0] 0x30 ∧ good dev0 1 [0x31, 0, 0, 0, 0, 0, 4096] 0x31 ∧
      (cmd 1 [0x10031, 0, 0, 0, 0, 0, 4096]).d 6 ≠ 0 ∧ State.reset.hay.firstBad 0 4096 none = none ∧
      State.reset.hay.firstBad 0 4096 (some 0) = some 0 ∧ fld ((cmd 1 [0x30, 0, 0, 0, 0, 0, 4096, 0, 0]).w 8) 0 4 = 0 ∧ dev0.poison = [] ∧ good dev0 1 [0x32] 0x32 := by
  repeat' apply And.intro
  all_goals decide +kernel

def win1 : WinSlot := { layer := 0, wide := false, addr := 2 ^ 28, size := 2 ^ 21, ready := false, seen := [] }
def fetch1 : PinFetch := { run := 7, stream := 0, entry := 0, pin := pin1, seen := [] }
def stalled : Run := { run1 empty1 with stepOn := false, stall := some 0 }
theorem witness_WeightsAreFetched :
    KV.find devTable.plans pk1 = some plan2 ∧ plan2.failed = [] ∧ plan2.window.all (·.ready) = true ∧
      devTable.nextFetch pk1 plan2 table1 = some (0, 0) ∧ 0 ≤ plan2.depth ∧ winRoom table1 plan2.window layer1.winSize = some (2 ^ 28) ∧
      ([win1].find? (fun w => w.layer == 0 && !w.ready)) = some win1 ∧ (layer1.copyAt false).1 = 2 ∧
      Dev.pinFetch { devTable with plans := [(pk1, { plan2 with fetches := [fetch1] })] } 7 0 0 =
        some (pk1, { plan2 with fetches := [fetch1] }, fetch1) ∧ fetch1.pin.source = 2 ∧ inMap pad1.hostMap 0x4000 4096 = true ∧ stalled.plan = pk1 ∧
      stalled.stall = some 0 ∧ 0 + plan2.lateNs ≤ dev0.now + plan2.lateNs ∧ dev0.now + 0 < 0 + plan2.lateNs := by
  decide +kernel

/-! ### Tiles -/

/-- The front of queue `u` is of class `cls` and executes: it stands there with its operands, the destination
inside the bound extents, neither a page nor a peer. -/
def tileMeets (d : Dev) (u cls : Nat) : Bool :=
  match d.env 7 0 u with
  | none => false
  | some e =>
    match e.front u cls with
    | none => false
    | some t => !t.idle && (match e.opnd t 1, e.opnd t 2 with
      | some o, some a => !o.beyond && !o.desc.paged && !a.desc.paged && e.peerFails d o == none &&
          d.poison == [] && (cls != cXch || !e.xchBeyond t a) && (cls != cFft || e.im.convs.any (fun c => !e.fftBeyond t c o a))
      | _, _ => false)
def tileDev (u : Nat) (t : TI) : Dev := devRun (run1 (shed1 u t))
def dt (di tile : Nat) : Nat := di * 2 ^ 20 + tile
theorem witness_TilesExecuteAtTheFront :
    tileMeets (tileDev 0 (ins cLoad 0 0 (dt 0 0) (dt 1 0) noOperand)) 0 cLoad = true ∧
      tileMeets (tileDev 63 (ins cStore 0 0 (dt 0 0) (dt 1 0) noOperand)) 63 cStore = true ∧
      tileMeets (tileDev 0 (ins cConv 2 0 (dt 0 0) (dt 0 0) noOperand)) 0 cConv = true ∧
      tileMeets (tileDev 0 (ins cSf 0 0 (dt 0 0) (dt 1 0) noOperand)) 0 cSf = true ∧
      tileMeets (tileDev 0 (ins cNorm 0 1 (dt 0 0) (dt 1 0) noOperand)) 0 cNorm = true ∧
      tileMeets (tileDev 0 (ins cSoft 3 0 (dt 0 0) (dt 1 0) noOperand)) 0 cSoft = true ∧
      tileMeets (tileDev 0 (ins cXch 1 1 (dt 0 0) (dt 1 0) 0)) 0 cXch = true ∧
      tileMeets (tileDev fftUnit (ins cFft 0 0 (dt 0 0) (dt 1 0) noOperand)) fftUnit cFft = true := by
  decide +kernel
/-- An entry with a limit of 0, the other operands of TXCH and TFFT, and a peer that no route reaches. -/
theorem witness_TilesExecuteAtTheFront_rest :
    TI.idle { ins cLoad 0 0 0 0 0 with ent := [0, 0, 0, 0, 0, 0, 0xFFFF0000, 0xFFFF] } = true ∧
      ((tileDev 0 (ins cXch 1 1 (dt 0 0) (dt 1 0) 0)).env 7 0 0).any (fun e => (e.im.desc? 0).isSome && (e.other 0 0).isSome) = true ∧
      ((tileDev fftUnit (ins cFft 0 0 (dt 0 0) (dt 1 0) noOperand)).env 7 0 fftUnit).any (fun e => (e.im.convs[0]?).isSome) = true ∧
      (devRun (run1 empty1)).memFault NonVol.reset 7 .none = (devRun (run1 empty1), none) ∧
      ((devRun (run1 empty1)).memFault NonVol.reset 7 (.uncorrectable 64)).2 = some 64 := by
  decide +kernel
/-- TMM over descriptors 3 (1 by 1), 2 and 2 (32 BF16 elements). -/
def mmTile : TI := ins cMm 0 0 (dt 3 0) (dt 2 0) (dt 2 0)
def mmMeets (d : Dev) : Bool :=
  match d.env 7 0 0 with
  | none => false
  | some e => e.front 0 cMm == some mmTile && (match e.opnd mmTile 1, e.opnd mmTile 2, e.opnd mmTile 3 with
    | some c, some a, some b => !c.beyond && c.size.getD 0 0 ≤ 128 && c.size.getD 1 0 ≤ 128 && !e.isAbsent d a && !e.isAbsent d b
    | _, _, _ => false)
theorem witness_AccumulatorsSumTheirBlocks :
    (tileDev 0 mmTile).poison = [] ∧ mmMeets (tileDev 0 mmTile) = true ∧ mmTile.idle = false ∧ mmTile.clears = true ∧ mmTile.flag 1 = false ∧
      (ins cMm 1 0 0 0 0).clears = false ∧ TI.clears { ins cMm 1 0 0 0 0 with ent := [0] } = true := by
  decide +kernel

/-! ### Control instructions -/

/-- The controller of plan shed 0 stands at the one instruction of a stream: `w` at address 576 of the image. -/
def ctrlDev (w : List (Nat × Nat)) (x : ShedRun) (r : Run) : Dev :=
  { devRun { r with sheds := [(0, x)] } with hbm := w.foldl (fun m c => m.writeLE (base1 + c.1) 4 c.2) (imgAt base1) }
def stands (d : Dev) (cls : Nat) : Bool :=
  match d.env 7 0 0 with
  | none => false
  | some e => e.x.markers == e.r.step && e.x.pc < e.im.count 0 && e.x.batch == none && (e.x.cur e.im 0).cls == cls && (e.x.cur e.im 0).held
def waitAt (n : Nat) : List (Nat × Nat) := [(576, 0xB0000000), (580, 0), (584, n)]
theorem witness_ControlInstructionsSteer_wait :
    stands (ctrlDev (waitAt 1) empty1 (run1 empty1)) cWait = true ∧
      0 ≤ KV.getD empty1.counters 0 0 ∧ KV.getD empty1.counters 0 0 < 1 ∧ empty1.waiting = false := by decide +kernel
/-- TBATCH of one entry, whose list is all zeros, with the CRC that the check found and with another. -/
def batchWords : List (Nat × Nat) := [(536, 2), (576, 0x90000000), (580, 1), (584, 0)]
theorem witness_ControlInstructionsSteer_batch :
    stands (ctrlDev batchWords empty1 (run1 empty1)) cBatch = true ∧ (ctrlDev batchWords empty1 (run1 empty1)).poison = [] ∧
      ((ctrlDev batchWords empty1 (run1 empty1)).env 7 0 0).any (fun e => KV.find e.r.lists (listKey 0 (e.x.cur e.im 0) (batchCount (e.x.cur e.im 0) e.pv)) ==
        some (crc32c (e.listBytes (ctrlDev batchWords empty1 (run1 empty1)) (e.x.cur e.im 0)).2)) = false ∧
      ((ctrlDev batchWords empty1 (run1 empty1)).env 7 0 0).any (fun e => (e.listBytes (ctrlDev batchWords empty1 (run1 empty1)) (e.x.cur e.im 0)).2.length == 32)
        = true := by decide +kernel
theorem witness_ControlInstructionsSteer_signal :
    stands (devRun (run1 empty1)) cSig = true ∧ stands (ctrlDev [(576, 0xA0010000)] empty1 (run1 empty1)) cSig = true ∧ empty1.drained = true ∧
      (shed1 0 mmTile).drained = false ∧
      ((tileDev 5 (ins cSig 0 0 0 1 noOperand)).env 7 0 5).any (fun e => (e.front 5 cSig).isSome && !e.writesOpen dev0 false) = true ∧
      ((tileDev 5 (ins cSig 0 0 0 1 noOperand)).env 7 0 5).any (fun e => e.writesOpen { dev0 with sent :=
        [{ sent0 (some 7) with pkt := { pkt0 with kind := kWrite }, unit := 6 }] } false) = true ∧
      ((tileDev 5 (ins cChain 0 2 noOperand noOperand noOperand)).env 7 0 5).any (fun e => (e.front 5 cChain).isSome) = true := by decide +kernel

/-! ### Sequences -/

/-- A sequence of one block, one layer and one group at 1 MiB, its two pages in the pool, and its header: INT8, rows of 32. -/
def seq1 : Seq := { (cmd 1 [0x10040, 0, 5, 0x10001, 2 ^ 20, 0, 1]).newSeq 0 with crc := 0 }
def kvMem : Memory := (Memory.writeLE [] (2 ^ 20 + 12) 4 (32 * 65536 + 0x22)).writeLE (2 ^ 20 + 256) 8 (poolEntry 0 + poolEntry 1 * 2 ^ 32)
def pool1 : Pool := { base := 2 ^ 24, pages := 8, swapBase := 2 ^ 25, swapSlots := 2, policy := 0, refs := [(0, 1), (1, 1)], swapUsed := [] }
def padPool : Paddock := { pad1 with pool := some pool1 }
def sk1 : Nat := padKey 1 5
def devSeq : Dev := { dev0 with hbm := kvMem, pads := [(1, padPool)], seqs := [(sk1, seq1)] }
def devNoSeq : Dev := { devSeq with seqs := [] }
theorem witness_WrittenListIsInOrder :
    KV.find devSeq.seqs sk1 = some seq1 ∧
      (hMaskAddr (devSeq.hdr seq1) + maskBytes (devSeq.hdr seq1) seq1.maxBlocks ≤ seq1.list) := by decide +kernel
theorem witness_SequencesComeAndGo :
    devSeq.pad (cmd 1 [0x10047]).paddock = some padPool ∧ good devNoSeq 1 [0x10047, 0, 0, 0, 0, 0, 2 ^ 18] 0x47 ∧
      devNoSeq.seqs.vals.any (fun q => q.paddock == 1) = false ∧ devSeq.seqs.vals.any (fun q => q.paddock == 1) = true ∧
      good devNoSeq 1 [0x10040, 0, 5, 0x10001, 2 ^ 20, 0, 1] 0x40 ∧ devNoSeq.pool 1 = some pool1 ∧ KV.has devNoSeq.seqs sk1 = false ∧
      hdrOk (devNoSeq.hdr seq1) = true ∧ seq1.privPages ≤ pool1.freePages ∧ devSeq.poison = [] ∧ (devSeq.swapIn 7 sk1 seq1 true).isSome = true ∧ devNoSeq.listHits 1 seq1.list seq1.listBytes = false ∧
      good devSeq 1 [0x10044, 0, 5] 0x44 ∧ good devSeq 1 [0x10045, 0, 5] 0x45 ∧ good devSeq 1 [0x10046, 0, 5] 0x46 ∧ seq1.stale = false ∧
      (devSeq.ownEntries seq1).length = 2 ∧ (devSeq.pool 1).elim 0 Pool.freeSlots = 2 ∧ devSeq.swapEntries seq1 = [] := by
  repeat' apply And.intro
  all_goals decide +kernel
/-- The clauses of SEQ_CREATE on ranges, and a swap area with one slot too few. -/
theorem witness_SequencesComeAndGo_ranges :
    overlaps seq1.list seq1.listBytes (hRemote (devNoSeq.hdr seq1)) (stagingBytes (devNoSeq.hdr seq1) seq1.groups) = false ∧
      overlaps seq1.list seq1.listBytes (hMaskAddr (devNoSeq.hdr seq1)) (maskBytes (devNoSeq.hdr seq1) seq1.maxBlocks) = false ∧
      Pool.freeSlots { pool1 with swapUsed := [0] } < 2 := by decide +kernel
/-- SEQ_APPEND of 0, of 256 (the last token that fits) and of 257 tokens. -/
theorem witness_SequencesGrowAndAreEdited :
    devSeq.pad (cmd 1 [0x10041]).paddock = some padPool ∧ KV.find devSeq.seqs sk1 = some seq1 ∧ seq1.stale = false ∧
      Seq.stale { seq1 with stale := true } = true ∧ good devSeq 1 [0x10041, 0, 5, 256] 0x41 ∧ (cmd 1 [0x10041, 0, 5]).w 3 = 0 ∧
      hTokens (devSeq.hdr seq1) + 256 ≤ seq1.maxBlocks * 256 ∧ seq1.maxBlocks * 256 < hTokens (devSeq.hdr seq1) + 257 ∧
      (cmd 1 [0x10041, 0, 5, 256]).d 4 = 0 ∧ (devSeq.pool 1).isSome = true ∧
      (∀ a ∈ seq1.blockAddrs (hTokens (devSeq.hdr seq1) / 256) (appendBlocks (hTokens (devSeq.hdr seq1)) 256).length, eKind (devSeq.ent a) ≠ 0) ∧
      good devSeq 1 [0x10043, 0, 5] 0x43 ∧ devSeq.listOk seq1 = false := by
  repeat' apply And.intro
  all_goals decide +kernel
/-- SEQ_VERIFY without candidates, of a list of no GENERATION whose CRC (CRC-32C of its 264 bytes) is written. -/
def kvCrc : Nat := 0xC91B6AEF
def seqOrder : Seq := { seq1 with gen := 0, crc := kvCrc }
def devOrder : Dev := { devSeq with hbm := kvMem.writeLE (2 ^ 20 + 4) 4 kvCrc, seqs := [(sk1, seqOrder)] }
theorem kv_fold : (devOrder.hbm.reads (2 ^ 20 + 256) 264 ++ devOrder.hbm.reads 0 0).foldl crcByte 0xFFFFFFFF = 0x36E49510 :=
  crc_part 66 _ 0x2EB1210D _ _ (by decide +kernel) <|
  crc_part 66 _ 0x2BD471A4 _ _ (by decide +kernel) <|
  crc_part 66 _ 0x4E5B7B9C _ _ (by decide +kernel) <|
  crc_part 66 _ 0x36E49510 _ _ (by decide +kernel) <|
  by decide +kernel
theorem listOk_of (d : Dev) (q : Seq) (c : Nat) (h1 : d.hbm.readLE q.list 4 = q.gen) (h2 : d.hbm.readLE (q.list + 4) 4 = q.crc)
    (h3 : d.listCrc q = c) (h4 : c = q.crc) : d.listOk q = true := by
  unfold Dev.listOk; rw [h1, h2, h3, h4]; simp
theorem listCrc_of (d : Dev) (q : Seq) (a n b m c : Nat) (ha : q.list + 256 = a) (hn : 4 * q.entries = n) (hb : hMaskAddr (d.hdr q) = b)
    (hm : maskBytes (d.hdr q) q.maxBlocks = m) (h : (d.hbm.reads a n ++ d.hbm.reads b m).foldl crcByte 0xFFFFFFFF = c) :
    d.listCrc q = c ^^^ 0xFFFFFFFF := by
  subst ha hn hb hm; unfold Dev.listCrc crc32c; dsimp only; rw [h]
theorem witness_SequencesGrowAndAreEdited_verify :
    good devSeq 1 [0x10042, 0, 5] 0x42 ∧ fld ((cmd 1 [0x10042, 0, 5]).w 3) 0 4 = 0 ∧ hPeers (devSeq.hdr seq1) = 0 ∧
      devSeq.swapEntries seq1 = [] ∧ hTokens (devSeq.hdr seq1) + (bestCand [] 0 (0, 0)).1 ≤ seq1.maxBlocks * 256 ∧
      devOrder.listOk seqOrder = true :=
  ⟨good_of (by decide +kernel) rfl rfl, by decide +kernel, by decide +kernel, by decide +kernel, by decide +kernel,
   listOk_of _ _ _ (by decide +kernel) (by decide +kernel)
     (listCrc_of _ _ _ _ _ _ _ (by decide +kernel) (by decide +kernel) (by decide +kernel) (by decide +kernel) kv_fold) (by decide +kernel)⟩

/-- The image with other words, sequence 5 of `kvMem` with other header words bound, and `t` in queue 0. -/
def pagedDev (img hdr : List (Nat × Nat)) (modes : Nat) (refs : KV Nat) (t : TI) : Dev :=
  { tileDev 0 t with
    runs := [(7, { run1 (shed1 0 t) with seqs := [5], modes := modes })], pads := [(1, { pad1 with pool := some { pool1 with refs := refs } })],
    seqs := [(sk1, seq1)],
    hbm := hdr.foldl (fun m c => m.writeLE (2 ^ 20 + c.1) 4 c.2) kvMem ++ img.foldl (fun m c => m.writeLE (base1 + c.1) 4 c.2) (imgAt base1) }
/-- Descriptor 1 a page, and descriptor 0 a page and a tensor of device 5. -/
def srcPage : List (Nat × Nat) := [(324, 0), (380, 0xFFF00003)]
def dstPage : List (Nat × Nat) := [(316, 0xFFF00003)]
def dstPeer : List (Nat × Nat) := [(256, 0x1240), (512, 2), (316, 0xFFF00500)]
def loadTile : TI := ins cLoad 0 0 (dt 0 0) (dt 1 0) noOperand
def storeTile0 : TI := ins cStore 0 0 (dt 0 0) (dt 1 0) noOperand
def walkAt (d : Dev) : Option (Bool × Walk) :=
  match d.env 7 0 0 with
  | none => none
  | some e =>
    match e.opnd loadTile 2 with
    | none => none
    | some a => (e.pageSeq d a).map (fun z => (!e.sparse d loadTile a && a.desc.paged, d.walk z.2.1 z.2.2 a.desc.layer a.desc.branch a.desc.pageIdx e.r.stepNo))
theorem witness_TilesExecuteAtTheFront_pages :
    walkAt (pagedDev srcPage [] 0 [(0, 1), (1, 1)] loadTile) = some (true, .page (2 ^ 24)) ∧
      walkAt (pagedDev srcPage [(40, 1), (44, 1)] 0 [(0, 1), (1, 1)] loadTile) = some (true, .wait) ∧
      walkAt (pagedDev srcPage [] 0 [] loadTile) = some (true, .stale) ∧
      (walkAt (pagedDev srcPage [(20, 1)] 32 [(0, 1), (1, 1)] loadTile)).map (·.1) = some false := by
  decide +kernel
theorem witness_TilesExecuteAtTheFront_stores :
    ((pagedDev dstPage [] 0 [(0, 1), (1, 1)] storeTile0).env 7 0 0).any (fun e => e.front 0 cStore == some storeTile0 &&
      (e.opnd storeTile0 1).any (fun o => o.desc.paged && !o.beyond && e.peerFails (pagedDev dstPage [] 0 [] storeTile0) o == none)) = true ∧
      ((pagedDev dstPeer [] 0 [] storeTile0).env 7 0 0).any (fun e =>
        (e.opnd storeTile0 1).any (fun o => !o.beyond && e.peerFails (pagedDev dstPeer [] 0 [] storeTile0) o == some .peerFenced)) = true := by
  decide +kernel

/-! ### Links: this is device 3; device 5 lies beyond port 2, and set 0 permits paddock 1 -/

def route1 : Route := { self := 3, coord := 0x0000, sets := [[2]], ingress := List.replicate 16 0, expectPort := List.replicate 16 0xFF,
                        expectNode := List.replicate 16 0xFFFF, dests := [(5, (4, 0))] }
def nb5 : Neighbour := { serial := 1, node := 5, port := 2, coord := 0, current := 2, oldest := 1 }
def upPort : Port := { Port.blank with state := .up, nb := some nb5, goodLanes := 16, version := 1 }
def devLink : Dev := { dev0 with route := some route1, ports := [(2, upPort)] }
/-- A packet from device 5 to device 3 for paddock 1, sealed. -/
def pk (kind off : Nat) (pay : List Byte) : Pkt :=
  pktSeal { pkt0 with kind := kind, src := 5, dst := 3, offset := off, length := pay.length, payload := pay }
theorem witness_PacketsAreDiscarded :
    devLink.carries 2 ∧ packetRow 2 (pk kWrite 64 [1]) (.writePacket 2 (pk kWrite 64 [1])) = true ∧
      pktCrcOk (pk kWrite 64 [1]) = true ∧ pktCrcOk { pk kWrite 64 [1] with crc := 0 } = false ∧
      devLink.addressed 2 (pk kWrite 64 [1]) = true ∧ devLink.addressed 2 { pk kWrite 64 [1] with dst := 4 } = false ∧
      ((devLink.noted 2 (pk kWrite 64 [1])).port 2).vcOk (pk kWrite 64 [1]) = true ∧
      ((devLink.noted 2 (pk kWrite 64 [1])).port 2).vcOk { pk kWrite 64 [1] with vc := 2 } = false ∧
      (devLink.noted 2 (pk kWrite 64 [1])).mapOk (pk kWrite (2 ^ 30 - 1) [1]) = true ∧
      (devLink.noted 2 (pk kWrite 64 [1])).mapOk (pk kWrite (2 ^ 30) [1]) = false ∧
      (devLink.noted 2 (pk kWrite 64 [1])).ingressOk 2 { pk kWrite 64 [1] with paddock := 2 } = false := by
  refine ⟨⟨by decide, Or.inl (by decide)⟩, ?_⟩; decide +kernel
def passesB (d : Dev) (p : Nat) (k : Pkt) : Bool :=
  pktCrcOk k && d.addressed p k && ((d.noted p k).port p).vcOk k && (d.noted p k).ingressOk p k && (d.noted p k).mapOk k
theorem passes_of {d : Dev} {p : Nat} {k : Pkt} (h : d.carries p) (h2 : passesB d p k = true) : d.passes p k := by
  simp only [passesB, Bool.and_eq_true] at h2
  exact ⟨h, h2.1.1.1.1, h2.1.1.1.2, h2.1.1.2, h2.1.2, h2.2⟩
theorem carries2 : devLink.carries 2 := ⟨by decide, Or.inl (by decide)⟩
/-- COPY number 7 waits for what it asked of device 5. -/
def copyDev : Dev := { devLink with
  flights := [(7, moving [0x10020, 0, 0, 0, 64, 0, 1, 0, 0x5002])],
  sent := [{ sent0 (some 7) with port := 2, pkt := { pkt0 with kind := kReadReq, src := 3, dst := 5 } }] }
theorem witness_PacketsAreTaken :
    devLink.passes 2 (pk kWrite 64 [1]) ∧ devLink.passes 2 (pk kReadReq 64 []) ∧ devLink.passes 2 (pk kPage 0 []) ∧
      devLink.passes 2 (pk kSignal 0 []) ∧ devLink.passes 2 (pk kMailbox 0 []) ∧ devLink.passes 2 (pk kResponse 0 []) :=
  ⟨passes_of carries2 (by decide +kernel), passes_of carries2 (by decide +kernel), passes_of carries2 (by decide +kernel),
   passes_of carries2 (by decide +kernel), passes_of carries2 (by decide +kernel), passes_of carries2 (by decide +kernel)⟩
theorem witness_PacketsAreTaken_rest :
    copyDev.passes 2 (pk kReadData 0 [9]) ∧ KV.find copyDev.flights 7 = some (moving [0x10020, 0, 0, 0, 64, 0, 1, 0, 0x5002]) ∧
      (devLink.noted 2 (pk kReadReq 64 [])).poisoned 64 4 = none ∧
      (Dev.noted { devLink with poison := [2] } 2 (pk kReadReq 64 [])).poisoned 64 4 = some 64 ∧ (devLink.noted 2 (pk kPage 0 [])).pageTaker (pk kPage 0 []) = none ∧
      (KV.getD devLink.rxMbox 0 RxMbox.blank).mbox.full = false ∧
      (KV.getD { devLink with rxMbox := [(0, { RxMbox.blank with mbox := { MboxSt.blank with full := true } })] }.rxMbox 0 RxMbox.blank).mbox.full = true ∧
      fld (pk kResponse 0 []).offset 0 2 = 0 ∧ (sent0 none).flight = none := by
  refine ⟨passes_of ⟨by decide, Or.inl (by decide)⟩ (by decide +kernel), ?_⟩; decide +kernel

/-! ### Collectives -/

def grp1 : Group := { paddock := 1, handle := 5, members := [3, 5], own := 0, switch := 0xFFFF, digest := groupDigest [3, 5] 0xFFFF, inst := 1 }
/-- Devices 3 and 5 at the points 0 and 1 of axis 0: the table of GROUP_DEFINE at address 0x1000. -/
def grpMem : Memory := (((Memory.writeLE [] 0x1004 4 1).writeLE 0x1008 4 0xFFFF).writeLE 0x1010 2 3).writeLE 0x1012 2 5
def devGrp (gs : KV Group) (cs : KV Coll) : Dev := { devLink with hbm := grpMem, groups := gs, colls := cs }
theorem witness_GroupsAndCollectivesBegin_define :
    good (devGrp [] []) 1 [0x10050, 0, 5, 1, 0x1000] 0x50 ∧ blockPoints (grpMem.readLE 0x1004 4) = 2 ∧
      0x0800 ≤ fld (grpMem.readLE 0x1008 4) 0 16 ∧ fld (grpMem.readLE 0x1008 4) 16 16 = 0 ∧ grpMem.readLE 0x100C 4 = 0 ∧
      (devGrp [] []).hbmOk pad1 0x1000 20 = true ∧ (devGrp [] []).route = some route1 ∧ (devGrp [] []).poison = [] ∧ route1.coord = 0 ∧ [3, 5].any (fun i => decide (0x07FF < i) && i != 0xFFFF) = false ∧
      groupMembers 0 1 1 0 [3, 5] = [3, 5] ∧ hasRepeat [3, 5] = false ∧ ownEntry 0 1 0 [3, 5] = some 3 := by
  repeat' apply And.intro
  all_goals decide +kernel
def runWords (op cnt : Nat) : List Nat := [0x10051, 0, 5, op + 0x3000, 0x2000, 0, 0x3000, 0, cnt]
def gk1 : Nat := padKey 1 5
def coll1 : Coll := { Coll.blank with group := gk1, op := 1, format := 0x30, elems := 8, slotAskedAt := some 0, onSlot := true, slotLast := some 0 }
theorem witness_GroupsAndCollectivesBegin :
    good (devGrp [(gk1, grp1)] []) 1 (runWords 1 8) 0x51 ∧ (cmd 1 (runWords 1 0)).d 8 = 0 ∧ (cmd 1 (runWords 1 0)).collOp ≠ 7 ∧
      (cmd 1 (runWords 7 0)).collOp = 7 ∧ KV.find (devGrp [(gk1, grp1)] []).groups gk1 = some grp1 ∧
      good (devGrp [(gk1, grp1)] []) 1 [0x10053, 0, 5] 0x53 ∧ (devGrp [(gk1, grp1)] []).groupFree gk1 = true ∧
      (devGrp [(gk1, grp1)] [(9, coll1)]).groupFree gk1 = false ∧ KV.has (devGrp [(gk1, grp1)] []).colls 7 = false ∧ good (devGrp [(gk1, grp1)] []) 1 [0x10052, 0, 5, 4] 0x52 ∧
      ([4, 4] : List Nat).sum = 8 ∧ (devGrp [] []).collRangesBad pad1 0x2000 8 0x3000 16 = false ∧
      (devGrp [] []).collRangesBad pad1 0x2000 16 0x2000 16 = false := by
  repeat' apply And.intro
  all_goals decide +kernel
def busyPkt (k : Nat) : Sent := { sent0 none with pkt := { pkt0 with kind := k, dst := 5 }, busy := true }
def tx1 (r : Option Nat) : TxMbox := { mbox := { MboxSt.blank with full := true }, goAt := 0, refusedAt := r, delivered := none, port := 2 }
theorem witness_RefusalsAndSilencesRunOut :
    KV.find (devGrp [(gk1, grp1)] [(9, coll1)]).colls 9 = some coll1 ∧ coll1.slotAskedAt = some 0 ∧ coll1.complete grp1 = false ∧
      ([busyPkt kPage].find? (fun x => x.pkt.kind == kPage && x.pkt.dst == 5 && x.pkt.seq == 0 && x.busy)) = some (busyPkt kPage) ∧
      KV.find [(11, tx1 (some 0))] 11 = some (tx1 (some 0)) ∧ (tx1 (some 0)).mbox.full = true ∧ (tx1 none).delivered = none := by decide +kernel
def upPkt (ph : Nat) : Pkt := pktSeal { pkt0 with kind := kCollective, src := 5, dst := 3, desc := 5, offset := ph * 2 ^ 60, payload := [1] }
def collDev : Dev := { devGrp [(gk1, grp1)] [(7, coll1)] with flights := [(7, cmd 1 (runWords 1 8))] }
theorem witness_CollectivePacketsReachTheirInstance :
    collDev.passes 2 (upPkt phUp) ∧ (collDev.noted 2 (upPkt phUp)).collOf (upPkt phUp) = some 7 ∧
      (devLink.noted 2 (upPkt phUp)).collOf (upPkt phUp) = none ∧ devLink.passes 2 (upPkt phFail) ∧ pktPhase (upPkt phFail) = phFail ∧
      pktPhase (upPkt phSlotReply) = phSlotReply :=
  ⟨passes_of ⟨by decide, Or.inl (by decide)⟩ (by decide +kernel), by decide +kernel, by decide +kernel,
   passes_of carries2 (by decide +kernel), by decide +kernel, by decide +kernel⟩
/-- A packet of the group's switch, which is the neighbour of port 2. -/
def swPkt (ph : Nat) : Pkt := pktSeal { pkt0 with kind := kCollective, src := 3, dst := 3, desc := 5, offset := ph * 2 ^ 60, payload := [1, 0, 0, 0] }
def swDev : Dev := { collDev with groups := [(gk1, { grp1 with switch := 0x0805 })], ports := [(2, { upPort with nb := some { nb5 with node := 0x0805 } })] }
theorem witness_CollectivePacketsReachTheirInstance_switch :
    swDev.passes 2 (swPkt phSlotReply) ∧ swDev.passes 2 (swPkt phSlotResult) ∧ swDev.passes 2 (swPkt phSlotAbort) ∧
      pktFromSwitch (swPkt phSlotReply) = true ∧ (swDev.noted 2 (swPkt phSlotReply)).collOf (swPkt phSlotReply) = some 7 ∧ coll1.onSlot = true :=
  ⟨passes_of ⟨by decide, Or.inl (by decide)⟩ (by decide +kernel), passes_of ⟨by decide, Or.inl (by decide)⟩ (by decide +kernel),
   passes_of ⟨by decide, Or.inl (by decide)⟩ (by decide +kernel), by decide +kernel, by decide +kernel, by decide +kernel⟩

/-! ### Media -/

def encWords : List Nat := [0x10060, 0, 0]
def enc1 : Stream := { Stream.blank with paddock := 1, ready := [7] }
def dec1 : Stream := { Stream.blank with paddock := 1, enc := false, engine := 4, ready := [7] }
def engine1 (stopped : Bool) : Engine :=
  { stream := 0, flight := 7, picture := 0, key := true, units := [], waiting := [], slices := 0, bytesOut := 0, isOver := false, stopped := stopped }
def devMedia (q : Stream) (es : KV Engine) (op : Nat) : Dev :=
  { dev0 with pll := [.media], streams := [(0, q)], engines := es, flights := [(7, cmd 1 [op + 0x10000])] }
theorem witness_MediaStreamsOpenAndClose :
    good dev0 1 encWords 0x60 ∧ (cmd 1 encWords).w 9 = 0 ∧ dev0.engineFull 0 = false ∧ bitOf ((cmd 1 encWords).w 10) 0 = false ∧
      Dev.engineFull { dev0 with streams := (List.range 8).map (fun h => (h, enc1)) } 0 = true ∧
      good dev0 1 [0x10063, 0, 0] 0x63 ∧ dev0.engineFull 4 = false ∧ KV.find (devMedia enc1 [] 0x62).streams 0 = some enc1 ∧
      good (devMedia enc1 [] 0x62) 1 [0x10062] 0x62 ∧ good (devMedia enc1 [] 0x65) 1 [0x10065] 0x65 ∧
      (devMedia enc1 [] 0x65).engines.vals.any (fun e => e.stream == 0) = false ∧
      (devMedia enc1 [(0, engine1 false)] 0x65).engines.vals.any (fun e => e.stream == 0) = true := by
  repeat' apply And.intro
  all_goals decide +kernel
theorem witness_MediaStreamsOpenAndClose_handle : (∃ h, dev0.newStream true = some h) ∧ ∃ h, dev0.newStream false = some h := by
  constructor <;> exact Option.isSome_iff_exists.mp (by decide +kernel)
/-- Picture 63 of a stream that waits for 0 is near enough; 64 is not. -/
theorem witness_PicturesAreCoded :
    Runs (st (devMedia enc1 [] 0x61)) 7 0x61 (cmd 1 [0x10061]) ∧ (devMedia enc1 [] 0x61).engines.vals.any (fun e => e.flight == 7) = false ∧
      enc1.ahead (cmd 1 [0x10061, 0, 0, 0, 0, 0, 63]).picture ≤ 63 ∧ 63 < enc1.ahead (cmd 1 [0x10061, 0, 0, 0, 0, 0, 64]).picture ∧
      KV.has (devMedia enc1 [] 0x61).engines 0 = false ∧ dec1.job = none ∧ dev0.supply.warn = false ∧ dev0.pll.contains .media = false ∧
      (devMedia enc1 [] 0x61).pll.contains .media = true ∧ Supply.warn { Supply.blank with warn := true } = true ∧
      (devMedia enc1 [] 0x61).firstOf ((KV.keep (devMedia enc1 [] 0x61).streams (fun _ q => q.engine == 0)).filterMap
        (fun e => (devMedia enc1 [] 0x61).offered e.1 e.2)) = some 7 ∧
      (devMedia dec1 [] 0x64).firstOf ((KV.keep (devMedia dec1 [] 0x64).streams (fun _ q => q.engine == 4)).filterMap
        (fun e => (devMedia dec1 [] 0x64).offered e.1 e.2)) = some 7 ∧
      KV.find (devMedia enc1 [(0, engine1 true)] 0x61).engines 0 = some (engine1 true) ∧ (engine1 false).stopped = false := by
  repeat' apply And.intro
  all_goals decide +kernel

/-! ### Ports -/

def devPort (p : Port) : Dev := { dev0 with ports := [(2, p)] }
/-- A route table of one destination and one set at address 0x1000. -/
def routeMem : Memory := ((((Memory.writeLE [] 0x1000 4 1).writeLE 0x1004 4 3).writeLE 0x100C 4 1).writeLE (0x1300) 4 0x40005).writeLE 0x1304 4 0
theorem witness_PortsAreControlled :
    good dev0 0 [0x71, 0, 2] 0x71 ∧ fld ((cmd 0 [0x71, 0, 2 + 4 * 256]).w 2) 8 4 = 4 ∧ (dev0.port 2).state = .disabled ∧
      ((devPort upPort).port 2).state ≠ .disabled ∧ fld ((cmd 0 [0x71, 0, 2 + 3 * 256 + 2 * 65536]).w 2) 16 2 ≠ 3 ∧
      fld ((cmd 0 [0x71, 0, 2 + 3 * 256 + 3 * 65536]).w 2) 16 2 = 3 ∧
      ({ upPort with state := .fenced, fenceCause := 6 } : Port).fenceCause % 2 = 0 ∧ (6 : Nat) < 8 ∧ (7 : Nat) % 2 = 1 ∧ (dev0.port 2).waiter = none ∧ good dev0 0 [0x70] 0x70 ∧
      routeBad NonVol.reset dev0 0 0 = true ∧ routeBad NonVol.reset { dev0 with hbm := routeMem } 0x1000 1 = false ∧ dev0.outq = [] ∧
      [({ pkt := pkt0, mode := .asked, flight := none, unit := 0, held := false } : Queued)] ≠ [] := by
  repeat' apply And.intro
  all_goals decide +kernel
def nbSame : Neighbour := { nb5 with current := Config.linkCurrent, oldest := 0 }
def nbNone : Neighbour := { nb5 with current := 0, oldest := 1 }
theorem witness_PortsTrain :
    dev0.boot.ready = true ∧ ((devPort { Port.blank with state := .training }).port 2).state = .training ∧ 8 ≤ popLanes 0xFF ∧ popLanes 0x7F < 8 ∧
      0 + trainLimit 0 ≤ dev0.now + trainLimit 0 ∧ dev0.now + 0 < 0 + trainLimit 0 ∧
      ((devPort { Port.blank with state := .failed, retries := 1 }).port 2).state = .failed := by decide +kernel
theorem witness_PortsTrain_fence : devLink.fenceCauseOf 2 nbSame = 0 ∧ devLink.fenceCauseOf 2 nbNone ≠ 0 := by
  constructor
  · simp [Dev.fenceCauseOf, devLink, dev0, route1, nbSame, nb5, commonVersion]
  · simp [Dev.fenceCauseOf, devLink, dev0, route1, nbNone, nb5, commonVersion]
theorem witness_LanesFailAndSwap :
    ((devPort upPort).port 2).live = true ∧ sel true upPort.hold = none ∧ (sel true upPort.spare).isSome = false ∧
      (sel true ({ upPort with spare := (some 3, some 3) } : Port).spare).isSome = true ∧
      17 ≤ (({ upPort with replayTimes := (List.replicate 17 0, List.replicate 17 0) } : Port).recentReplays true 39999).length ∧
      (({ upPort with replayTimes := (List.replicate 17 0, List.replicate 17 0) } : Port).recentReplays true 40000).length < 17 ∧
      sel true ({ upPort with hold := (some (3, 0), some (3, 0)) } : Port).hold = some (3, 0) ∧ (0 : Nat) + 199999 - 0 < 200000 := by decide +kernel

/-! ### The counter -/

def devGtc (g : Gtc) : Dev := { devLink with gtc := g }
def child : Gtc := { Gtc.blank with counting := true, root := 5, state := .acquiring, acquired := true, inSince := some 0, outSince := some 0 }
def gtcRoot : Gtc := { child with root := 3, state := .root, inEn := true, outEn := true }
theorem witness_TickCounterIsControlledAndFollows :
    good devLink 0 [0x72, 0, 4, 0, 2] 0x72 ∧ fld ((cmd 0 [0x72, 0, 4, 0, 2]).w 2) 0 4 = 4 ∧ bitOf ((cmd 0 [0x72, 0, 4, 0, 2]).w 4) 1 = true ∧
      (devGtc gtcRoot).route.isSome = true ∧ gtcRoot.root = (devGtc gtcRoot).selfId ∧ (devGtc child).gtc.root ≠ (devGtc child).selfId ∧
      (devGtc child).parentPort = some 2 ∧ 1000 < theta 0 1001 1001 0 ∧ theta 0 1000 1000 0 ≤ 1000 ∧ child.inSince = some 0 ∧
      ((devGtc gtcRoot).advance 0).gtc.val.toNat % 1000000000 = 0 ∧ gtcRoot.ppsSeen = false ∧ ({ gtcRoot with ppsSeen := true } : Gtc).ppsSeen = true ∧
      gtcRoot.ppsLost = false := by
  repeat' apply And.intro
  all_goals decide +kernel

/-! ### Power -/

def idleShed : Shed := { Shed.blank with power := .run }
/-- No paddock: every shed's target is OFF; shed 5 runs, idle since 0. -/
def devIdle (x : Shed) (dt : Nat) : Dev := Dev.advance { dev0 with pads := [], sheds := [(5, x)] } dt
def devSave : Dev := { dev0 with features := [(0x0300, 6208 * 2 ^ 32), (0x0301, 1)], pads := [], sheds := [(5, { idleShed with power := .hold })] }
theorem witness_ShedsSleepAndWake :
    (devIdle idleShed 2000).mayDeepen NonVol.reset 5 2000 .gate = true ∧ (devIdle idleShed 1999).mayDeepen NonVol.reset 5 2000 .gate = false ∧
      (devIdle idleShed 100000).mayDeepen NonVol.reset 5 100000 .hold = true ∧ (devSave.advance 2000000).mayDeepen NonVol.reset 5 2000000 .save = true ∧
      devSave.hasSaveArea = true ∧ dev0.hasSaveArea = false ∧ (devSave.shed 5).saving = none ∧
      (devIdle idleShed 20000000).mayDeepen NonVol.reset 5 20000000 .off = true ∧ dev0.supply.ref = true ∧ dev0.pllWanted .yard = true ∧
      dev0.pllWanted .media = false ∧ dev0.pll.contains .yard = false := by decide +kernel
theorem witness_ShedsSleepAndWake_rest :
    (Dev.mayRest { devSave with sheds := [] } State.reset.hay) = true ∧ (devSave.mayRest State.reset.hay) = false ∧ 0 + 50000000 ≤ dev0.now + 50000000 ∧
      [Pll.die (dieOfShed 5)].contains (.die (dieOfShed 5)) = true := by decide +kernel
def devCap : Dev := { dev0 with cap := 2500, dies := [(1, { Die.blank with capPt := 2, tempPt := 1 })] }
theorem witness_ClocksFollowPowerAndTemperature :
    good dev0 1 [0x10080, 0, 15000] 0x80 ∧ good dev0 0 [0x81, 0, 1] 0x81 ∧ capOf 1 = 2500 ∧ capOf 0 = 0 ∧ devCap.cap < 2501 ∧ devCap.capVictim = some 0 ∧
      2375 * 100 ≤ devCap.cap * 95 ∧ devCap.cap * 95 < 2376 * 100 ∧ devCap.capRaise = some 1 ∧ (dev0.die (dieOfStack 0)).tempPt = 0 ∧
      (rangeFrom 6 6).all (fun j => decide (((devCap.setTemp 6 969).stack j).temp < 970)) = true ∧ 0 < (devCap.die 1).tempPt ∧
      ({ Die.blank with supPt := 8 } : Die).point ≥ 7 ∧ ({ Die.blank with coolSince := some 0 } : Die).coolSince = some 0 ∧
      0 + 10000000 ≤ dev0.now + 10000000 ∧ Die.blank.coolSince = none ∧ 64 < hbmTop ∧ NonVol.reset.hole 64 = false ∧ hbmTop ≤ 768 * 10 ^ 9 := by
  repeat' apply And.intro
  all_goals decide +kernel
theorem witness_SuppliesWarnAndAlertsAreRaised :
    dev0.supply.warn = false ∧ dev0.devPower ≠ .standby ∧ ({ Supply.blank with warn := true } : Supply).warnPin = false ∧
      0 < ({ Die.blank with supPt := 8 } : Die).supPt ∧ dev0.boot.standbyWake = none ∧ Dev.devPower { dev0 with devPower := .standby } = .standby ∧
      (1 : Nat) ≠ 2 := by decide +kernel

/-! ### Resets -/

def tripDev : Dev := { dev0 with supply := { dev0.supply with trip := true } }
theorem witness_ResetsBegin :
    dev0.absorbsWarm = false ∧ tripDev.absorbsWarm = true ∧ Dev.reset.boot.reset = some { kind := 1, cause := 4, since := 0 } ∧
      (dev0.beginWarm 0).boot.reset = some { kind := 0, cause := 0, since := 0 } ∧ dev0.supply.trip = false ∧ dev0.boot.reset = none ∧
      tripDev.supply.tripCool = false ∧ dev0.devPower ≠ .standby ∧ dev0.supply.off = false ∧ tripDev.supply.tripReset = false ∧
      ({ tripDev.supply with tripReset := true } : Supply).tripReset = true ∧ ({ tripDev.supply with ref := false } : Supply).ref = false ∧
      Temps.trips { die := 1150, hbm := 0, hay := 0 } = true ∧ Temps.trips { die := 1149, hbm := 1099, hay := 949 } = false := by decide +kernel
def coldDev : Dev := { Dev.reset with supply := { Supply.blank with perst := true } }
def nvDead : NonVol := { NonVol.reset with slotA := NonVol.reset.slotB }
def standbyDev : Dev := { dev0 with devPower := .standby, boot := { dev0.boot with standbyWake := some 0 } }
theorem witness_DevicesStartAndStop :
    coldDev.boot.reset = some { kind := 1, cause := 4, since := 0 } ∧ coldDev.supply.ref = true ∧ coldDev.supply.perst = true ∧
      NonVol.reset.bootSlot = some NonVol.reset.slotA ∧ nvDead.bootSlot = none ∧ Dev.reset.supply.perst = false ∧ dev0.boot.ready = true ∧
      good dev0 0 [0xF0, 0, 1] 0xF0 ∧ dev0.anySwitch = false ∧ dev0.picturesPend (fun _ => true) = false ∧
      (devMedia enc1 [(0, engine1 false)] 0x61).picturesPend (fun _ => true) = true ∧ (withCmd dev0 0 [0xF0]).dev.inflight 0 ≤ (dev0.queue 0).cqFree ∧
      standbyDev.devPower = .standby ∧ standbyDev.boot.standbyWake.isSome = true ∧ 44000 < standbyDev.supply.mv48 ∧
      Dev.boot { dev0 with boot := { dev0.boot with standbyAt := some 0 } } = { dev0.boot with standbyAt := some 0 } := by
  repeat' apply And.intro
  all_goals decide +kernel

/-! ### Fallow -/

def coreAt (c : CoreRec) : Dev := { dev0 with cores := [(coreKey 3 70, c)] }
def failing1 : CoreRec := { CoreRec.blank with running := some (7, 0), failedOnce := [7] }
def due7 : CoreRec := { CoreRec.blank with dueAt := [(7, 0)] }
/-- Nine cores of shed 3 out of service leave 63. -/
def nvFew : NonVol := { NonVol.reset with retired := (List.range 9).map (fun c => (coreKey 3 c, { cause := 6, tick := 0 })) }
theorem witness_FallowSlicesFindFailingCores :
    NonVol.reset.inService 3 = true ∧ NonVol.reset.isRetired 3 70 = false ∧ 0 + 600000000000 ≤ 600000000000 ∧
      ((coreAt CoreRec.blank).core (coreKey 3 70)).dueAt = [] ∧
      (Dev.advance { coreAt due7 with sheds := [(3, { Shed.blank with power := .run })] } 50000).mayRunSlice NonVol.reset 3 70 7 = true ∧
      (Dev.advance { coreAt due7 with sheds := [(3, { Shed.blank with power := .run })] } 49999).mayRunSlice NonVol.reset 3 70 7 = false ∧
      ((coreAt failing1).core (coreKey 3 70)).running = some (7, 0) ∧ failing1.failedOnce.contains 7 = true ∧
      ({ failing1 with failedOnce := [] } : CoreRec).failedOnce.contains 7 = false ∧ CoreRec.blank.running = none ∧
      70 ∈ NonVol.reset.good 3 ∧ 0 + 10000000000 ≤ 10000000000 ∧ dev0.fallow.enable = true ∧ ((coreAt due7).shed 3).power = .off ∧
      (nvFew.good 3).length < 64 ∧ dev0.busyShed 3 = false ∧ nvFew.inService 3 = true := by decide +kernel
theorem witness_FallowSlicesFindFailingCores_commands :
    good dev0 0 [0x90, 0, 1, 0, 0] 0x90 ∧ good dev0 0 [0x91, 0, 0x0F, 1] 0x91 := by
  repeat' apply And.intro
  all_goals decide +kernel
theorem witness_CoresAreRetiredAndMapped :
    good dev0 0 [0x92, 0, 3 + 71 * 256] 0x92 ∧ NonVol.reset.isRetired 3 71 = false ∧ nvFew.isRetired 3 8 = true ∧
      71 < fld ((cmd 0 [0x92, 0, 3 + 72 * 256]).w 2) 8 7 ∧ (NonVol.reset.logical 3).contains 71 = false ∧ 64 ≤ (NonVol.reset.good 3).length ∧
      NonVol.inService { NonVol.reset with shedsOut := [3] } 3 = false ∧
      Runs (st (devRun new1)) 7 0x11 (runCmd .running) ∧ new1.started = false := by
  repeat' apply And.intro
  all_goals decide +kernel

/-! ### Fetching and starting -/

/-- Queue 1 has one entry to fetch, whose opcode is 0x0F: a code that no table defines. -/
def devFetch (h : Bool) : Dev :=
  { dev0 with queues := [(1, { ring with tail := 1, held := h })], host := Memory.writeLE [] 0x20000 4 0x1000F }
def waits (ws : List Nat) (bad : Bool) : Flight := { cmd 1 ws with phase := .waiting, fenceBad := bad }
def devWait (ws : List Nat) : Dev := { dev0 with flights := [(7, waits ws true)], now := 10000000000 }
theorem witness_CommandsAreFetchedStartedAndTimed :
    dev0.fullUp = true ∧ dev0.answers 0 1 = true ∧ dev0.fetchable 1 = false ∧ (devFetch false).fetchable 1 = true ∧
      (devFetch true).turn = some 1 ∧ (devFetch true).turn ≠ some 2 ∧
      (Flight.fetched 1 0 ((devFetch false).entryWords ((devFetch false).queue 1)) 0 2).badOpcode = true ∧
      (devWait [0x10820]).fencesClear 7 (waits [0x10820] true) = true ∧ (waits [0x10820] true).fenceOk = true ∧
      (waits [0x10020] true).fenceOk = false ∧ (devWait [0x10020]).outranked NonVol.reset 7 (waits [0x10020] true) = false ∧ (waits [0x10020] true).recheck = false ∧ (waits [0x10020] true).opcode ≠ 0x11 ∧
      Dev.outranked { devPlan with flights := [(5, runCmd .waiting), (7, runCmd .waiting)] } NonVol.reset 7 (runCmd .waiting) = true ∧
      (∀ h ∈ (devRun new1).neededSheds NonVol.reset (runCmd .waiting), ((devRun new1).shed h).power = .run) ∧
      (∃ h ∈ (shedsOf 2).filter NonVol.reset.inService, (dev0.shed h).power ≠ .run) ∧
      Dev.runSlot { dev0 with flights := [(5, runCmd .running), (7, runCmd .waiting)] } (runCmd .waiting) = false ∧
      dev0.runSlot (runCmd .waiting) = true ∧
      (runCmd .running).phase ≠ .waiting := by decide +kernel
theorem witness_CommandsAreFetchedStartedAndTimed_timeout :
    (Dev.advance { dev0 with flights := [(7, cmd 1 [0x10020])] } 10000000000).expired 7 (cmd 1 [0x10020]) = true ∧
      (Dev.advance { dev0 with flights := [(7, cmd 1 [0x10020])] } 9999999999).expired 7 (cmd 1 [0x10020]) = false ∧
      (Dev.advance { dev0 with flights := [(7, cmd 1 [0x10020])] } 10000000000).linkFirst (withCmd dev0 1 [0x10020]) 7 = false ∧
      KV.find dev0.colls 7 = none := by decide +kernel

/-! ### Ethernet -/

def qp1 (err : Bool) : Qp := { port := 0, mtu := 0, dscp := 0, paddock := 1, remoteQpn := 0, localPsn := 0, remotePsn := 0, ip := 0, mac := 0,
                               rkey := 9, error := err, rate := 800, credit := 0 }
def devQp (err : Bool) : Dev := { dev0 with qps := [(1, qp1 err)] }
/-- The map ends at 2^30. -/
theorem witness_EthernetRequestsAreServed :
    (devQp false).boot.ready = true ∧ (devQp false).devPower ≠ .standby ∧ Dev.reset.boot.ready = false ∧ KV.find (devQp true).qps 1 = some (qp1 true) ∧
      (devQp false).rdmaBad (qp1 false) 9 (2 ^ 30 - 4) 4 = false ∧ (devQp false).rdmaBad (qp1 false) 9 (2 ^ 30 - 4) 5 = true ∧
      (devQp false).rdmaBad (qp1 false) 8 0 4 = true ∧ (devQp false).poisoned 0 4 = none ∧
      Dev.poisoned { devQp false with poison := [0] } 0 4 = some 0 ∧ KV.find dev0.qps 1 = none := by decide +kernel

/-! ### Paddocks -/

def pad2 : Paddock := { pad1 with isIn := false }
/-- Paddocks 1 (IN) and 2 share sheds 0 and 1; queue 2 of paddock 2 has entries. -/
def devShare (runs : KV Run) (more : Nat) : Dev :=
  { dev0 with pads := [(1, pad1), (2, pad2)], runs := runs,
              queues := [(1, { ring with tail := more }), (2, { ring with paddock := 2, tail := 1 })] }
def sw1 (b : Bool) : Switch := { outgoing := some 1, incoming := 2, since := 0, started := b }
theorem witness_PaddocksShareSheds :
    good dev0 0 [0x30004, 0, 0, 12] 0x04 ∧ (cmd 0 [0x30004, 0, 0, 12]).cls = some .ordinary ∧
      createBad NonVol.reset dev0 (cmd 0 [0x30004, 0, 0, 12]) = false ∧ createBad NonVol.reset dev0 (cmd 0 [0x30004, 0, 0, 6]) = true ∧
      (cmd 0 [0x30004, 0, 3, 12]).cls = none ∧ (dev0.setOf 12).isEmpty = true ∧ (dev0.setOf 3).isEmpty = false ∧
      good dev0 0 [0x10005] 0x05 ∧ good dev0 0 [0x100F1] 0xF1 ∧ dev0.switchHolds 3 = false ∧
      Dev.switchHolds { dev0 with switches := [(3, sw1 true)] } 3 = true ∧
      dev0.picturesPend (fun q => q.paddock == 1) = false ∧ (devMedia enc1 [(0, engine1 false)] 0x61).picturesPend (fun q => q.paddock == 1) = true := by
  repeat' apply And.intro
  all_goals decide +kernel
theorem witness_PaddocksShareSheds_switch :
    dev0.incoming 3 (some 1) = none ∧ (devShare [] 0).inOf 3 = some 1 ∧ (devShare [] 0).incoming 3 (some 1) = some 2 ∧ (devShare [] 0).demand 1 = false ∧
      (devShare [] 1).demand 1 = true ∧ (devShare [] 0).isCls 2 .reserved = false ∧ (devShare [] 0).activeRun 1 = none ∧
      (devShare [(9, run1 empty1)] 0).activeRun 1 = some (9, run1 empty1) ∧ KV.find (devShare [] 0).switches 3 = none ∧
      ((devShare [] 1).advance 10000000).incoming 3 (some 1) = some 2 ∧ pad1.inSince + 10000000 ≤ dev0.now + 10000000 ∧
      dev0.now + 9999999 < pad1.inSince + 10000000 ∧ (devShare [] 0).isCls 2 .ordinary = true ∧ ((devShare [] 0).setOf 3).contains 2 = true ∧
      KV.find [(3, sw1 true)] 3 = some (sw1 true) ∧ (dev0.shed 0).power ≠ .run ∧ NonVol.reset.inService 0 = true ∧ 0 ∈ shedsOf 3 ∧
      (∀ h ∈ shedsOf 3, (({ dev0 with sheds := [(0, idleShed), (1, idleShed)] } : Dev).shed h).power = .run) ∧ dev0.runs = [] ∧ (sw1 false).started = false ∧ (devShare [] 0).pad 2 = some pad2 := by decide +kernel
theorem witness_OnlyTheirRowsWriteTheLastingStores :
    writesNv .i3cAlertCauseRead = false ∧ writesHay .i3cAlertCauseRead = false ∧ ∃ t, exec .i3cAlertCauseRead (st dev0) = .next t :=
  ⟨rfl, rfl, _, rfl⟩

/-! ### The spec's worked numbers -/

theorem witness_JtagInstructionsSelect :
    bitOf dev0.boot.policy 1 = false ∧ bitOf (Dev.boot { dev0 with boot := { dev0.boot with policy := 2 } }).policy 1 = true := by decide

/-- Table 5.5: three blocks of 1, 2^-11 and 2^-70, with block exponents 23, 12 and -47. -/
def nearTie : List BlockIn :=
  [{ val := .fin (Q.dy false 1 0), bexp := some 23 }, { val := .fin (Q.dy false 1 (-11)), bexp := some 12 },
   { val := .fin (Q.dy false 1 (-70)), bexp := some (-47) }]
def toFp16 (v : Val) : Option Nat := (fmtOf 0x31).map (fun f => (f.writeScalar { mode := 0, nonsat := false } { v := v, draw := 0, special := false }).code)
theorem test_near_tie_normal : toFp16 ((AccElem.zero.addAll false nearTie).result false []) = some 0x3C00 := by decide +kernel
theorem test_near_tie_exact : toFp16 ((AccElem.zero.addAll true nearTie).result true []) = some 0x3C01 := by decide +kernel
/-- R108's example: 1.046875 in FP8 E4M3 (eighths: 8 and 3/8) has f16 = 0x6000. -/
theorem test_stochastic : roundN 2 0x4A3C 8 3 8 = 9 ∧ roundN 2 0x7000 8 3 8 = 8 ∧ roundN 2 0x6000 8 3 8 = 8 ∧ roundN 2 0x5FFF 8 3 8 = 9 := by decide
/-- Table 5.1: 1.0 and the largest finite value of FP8 E4M3 (448), its NaN, and -128/64 in INT8. -/
theorem test_format_codes :
    (fmtOf 0x20).map (fun f => (f.decode 0x38, f.decode 0x7E, f.decode 0x7F)) = some (.fin (Q.dy false 8 (-3)), .fin (Q.dy false 14 5), .nan) ∧
      (fmtOf 0x22).map (·.decode 0x80) = some (.fin (Q.ofInt (-128) (-6))) := by decide +kernel
/-- The published check value of CRC-32C: the nine digits. -/
theorem test_crc32c : crc32c ((List.range 9).map (fun i => BitVec.ofNat 8 (0x31 + i))) = 0xE3069283 := by decide +kernel

/-- Table 10.7: 400,000 kb/s at 24/1, CBR. Key picture 0 uses 58,000,000 bits; picture 1 uses 12,100,000; picture 3
overshoots with 12,910,000 and picture 4's budget is 12,090,000. -/
def enc10 (k e : Nat) : Stream := { Stream.blank with words := [0x10060, 0, 0, 0, 24 + 65536, 0, 400000], debtK := k, debtE := e }
def budgetBits (q : Stream) (key : Bool) : Option Nat := (q.budget key 0).map (·.1)
theorem test_budgets :
    budgetBits (enc10 0 0) true = some 66666664 ∧ (enc10 0 0).debtsAfter true ((enc10 0 0).budget true 0) 58000000 = (0, 41333334) ∧
      budgetBits (enc10 41333334 0) false = some 12500000 ∧
      (enc10 41333334 0).debtsAfter false ((enc10 41333334 0).budget false 0) 12100000 = (0, 37166668) ∧
      (enc10 33000002 0).debtsAfter false ((enc10 33000002 0).budget false 0) 12910000 = (410000, 28833336) ∧
      budgetBits (enc10 28833336 410000) false = some 12090000 := by decide +kernel

/-! ### Single steps -/

/-- NOP with tag 0x0102 completes with ST_OK in slot 0 of queue 1's completion ring. -/
theorem test_nop_completes :
    (match exec (.nop 7) (withCmd dev0 1 [0x10000, 0x0102]) with
      | .next t => t.dev.host.readLE 0x10000 4 == 0x0102 && t.dev.flights.isEmpty
      | _ => false) = true := by decide +kernel
/-- FILL of 3 bytes at 64 with the pattern 0xDDCCBBAA. -/
theorem test_fill :
    (match exec (.fill 7 .none) (withCmd dev0 1 [0x10021, 0, 64, 0, 3, 0, 0xDDCCBBAA, 0]) with
      | .next t => t.dev.hbm.reads 63 5 == [0, 0xAA, 0xBB, 0xCC, 0]
      | _ => false) = true := by decide +kernel
/-- A tail past the ring is ignored (R28). -/
theorem test_bad_doorbell :
    (match exec (.sqDbWrite 0 1 16 []) (st dev0) with
      | .next t => (t.dev.queue 1).state == .active && (t.dev.queue 1).tail == 0
      | _ => false) = true := by decide +kernel
/-- R67: core 0 of shed 3 retired, logical core 0 is physical core 1. -/
theorem test_logical_core : (NonVol.logical { NonVol.reset with retired := [(coreKey 3 0, { cause := 6, tick := 0 })] } 3).head? = some 1 := by decide +kernel
/-- The Tilth paddock of chapter 14: sheds 24 to 31, channels 672 to 767; COUNT_A 8 and COUNT_B 96. -/
def tilth : List Nat := [0x0400004, 0, 1, 0xFF000000, 0x006002A0, 0]
theorem test_tilth_paddock :
    (match exec (.paddockCreate 7) (withCmd dev0 0 tilth) with
      | .next t => t.dev.host.readLE (0x10000 + 24) 4 == 8 && t.dev.host.readLE (0x10000 + 28) 4 == 96 && KV.has t.dev.pads 0x040
      | _ => false) = true := by decide +kernel

end Sys2Proof.Tests
end

section
/-! SUPPORT. How a command ends: what a verdict leaves of the device, of the other queues and of host memory (R33, R39). -/
namespace Sys2Proof.Machine
open Sys2Proof

/-! ### Queues by number -/

@[simp] theorem Dev.setQueue_queue_same (d : Dev) (q : Nat) (x : Queue) : (d.setQueue q x).queue q = x :=
  KV.getD_put_same _ _ _ _

theorem Dev.setQueue_queue_other (d : Dev) {q j : Nat} (x : Queue) (h : j ≠ q) : (d.setQueue q x).queue j = d.queue j :=
  KV.getD_put_other _ _ _ h

theorem Dev.queue_congr {d e : Dev} (h : e.queues = d.queues) (j : Nat) : e.queue j = d.queue j := by
  simp [Dev.queue, h]

@[simp] theorem State.view_queue (s : State) (q : Nat) : s.view.queue q = s.dev.queue q := rfl
@[simp] theorem State.view_pad (s : State) (p : Nat) : s.view.pad p = s.dev.pad p := rfl
@[simp] theorem State.view_fn (s : State) (n : Nat) : s.view.fn n = s.dev.fn n := rfl

theorem State.view_keeps (s : State) : Dev.Keeps s.dev s.view := by constructor <;> rfl

@[simp] theorem Dev.letGo_queue (d : Dev) (id : Nat) (f : Flight) (j : Nat) : (d.letGo id f).queue j = d.queue j := rfl
@[simp] theorem Dev.setFlight_queue (d : Dev) (id : Nat) (f : Flight) (j : Nat) : (d.setFlight id f).queue j = d.queue j := rfl
@[simp] theorem Dev.updFlight_queue (d : Dev) (id : Nat) (g : Flight → Flight) (j : Nat) : (d.updFlight id g).queue j = d.queue j := rfl

@[simp] theorem Dev.postInternal_queue (d : Dev) (id : Nat) (st : Status) (tag j : Nat) :
    (d.postInternal id st tag).queue j = d.queue j :=
  Dev.queue_congr (Dev.postInternal_queues _ _ _ _) j

/-- Table 3.11: only a firmware fault posts an event. -/
theorem Dev.postInternal_of_ne (d : Dev) (id : Nat) {st : Status} (tag : Nat) (h : st ≠ .internal) : d.postInternal id st tag = d :=
  if_neg h

/-! ### The two ways to end: an entry, or a place behind the full ring -/

theorem SlotFree.of_queue {d e : Dev} {x : Flight} (h : e.queue x.queue = d.queue x.queue) (hs : SlotFree d x) : SlotFree e x := by
  simpa [SlotFree, h] using hs

/-- Only the queue of the command matters to its completion. -/
theorem Completed.of_queue {d e t : Dev} {f : Nat} {x : Flight} {st : Status} {a b : Nat} (hq : e.queue x.queue = d.queue x.queue)
    (h : Completed e t f x st a b) : Completed d t f x st a b := by
  simpa [Completed, entryAddr, hq] using h

/-- A completion stands while the entry's bytes, the ring's tail and the command's absence do. -/
theorem Completed.congr {d t u : Dev} {f : Nat} {x : Flight} {st : Status} {a b : Nat} (h : Completed d t f x st a b)
    (hf : KV.find u.flights f = none) (hh : u.host = t.host) (hq : (u.queue x.queue).cqTail = (t.queue x.queue).cqTail) :
    Completed d u f x st a b := by
  obtain ⟨-, h0, h6, h7, ht⟩ := h
  exact ⟨hf, by rwa [hh], by rwa [hh], by rwa [hh], hq.trans ht⟩

/-- The queue moves on by one slot as an entry is written at CQ_TAIL. -/
def Queue.bump (q : Queue) : Queue :=
  { q with cqTail := (q.cqTail + 1) % 2 ^ q.cqLog2, phase := if (q.cqTail + 1) % 2 ^ q.cqLog2 = 0 then !q.phase else q.phase }

theorem Dev.writeEntry_queues (d : Dev) (id : Nat) (f : Flight) :
    (d.writeEntry id f).queues = KV.put d.queues f.queue (d.queue f.queue).bump :=
  (Dev.writeEntry_spec d id f).2.2

theorem Dev.writeEntry_queue_same (d : Dev) (id : Nat) (f : Flight) : (d.writeEntry id f).queue f.queue = (d.queue f.queue).bump := by
  simp [Dev.queue, Dev.writeEntry_queues]

theorem Dev.writeEntry_queue_other (d : Dev) (id : Nat) (f : Flight) {j : Nat} (h : j ≠ f.queue) :
    (d.writeEntry id f).queue j = d.queue j := by
  simp [Dev.queue, Dev.writeEntry_queues, KV.getD_put_other _ _ _ h]

/-- R33: an entry is 32 bytes at CQ_TAIL; the rest of host memory stays. -/
theorem Dev.writeEntry_host_outside (d : Dev) (id : Nat) (f : Flight) (i : Nat) (h : i < entryAddr d f ∨ entryAddr d f + 32 ≤ i) :
    (d.writeEntry id f).host.read i = d.host.read i := by
  rw [(Dev.writeEntry_spec d id f).2.1]
  exact Memory.read_writes_outside _ _ _ _ (by rwa [Flight.length_completion])

/-- The ring takes the entry of a command that ends: it has a free slot and no completion waits (R33). -/
def Queue.takes (q : Queue) : Bool := q.cqSpace && q.waitCq.isEmpty

theorem Dev.retire_of_takes {d : Dev} {f : Flight} (id : Nat) (h : (d.queue f.queue).takes = true) :
    d.retire id f = d.writeEntry id (d.lateFlag f) :=
  if_pos h

theorem Dev.retire_of_full {d : Dev} {f : Flight} (id : Nat) (h : (d.queue f.queue).takes = false) :
    d.retire id f = ((d.letGo id (d.lateFlag f)).setFlight id { d.lateFlag f with phase := .finished }).setQueue f.queue
      { d.queue f.queue with waitCq := (d.queue f.queue).waitCq ++ [id] } :=
  if_neg (by simpa [Queue.takes] using h)

theorem Dev.retire_queue_other (d : Dev) (id : Nat) (f : Flight) {j : Nat} (h : j ≠ f.queue) : (d.retire id f).queue j = d.queue j := by
  cases ht : (d.queue f.queue).takes with
  | true => rw [Dev.retire_of_takes id ht, Dev.writeEntry_queue_other _ _ _ (by simpa using h)]
  | false => rw [Dev.retire_of_full id ht, Dev.setQueue_queue_other _ _ h]; simp

theorem Dev.retire_host_outside (d : Dev) (id : Nat) (f : Flight) (i : Nat) (h : i < entryAddr d f ∨ entryAddr d f + 32 ≤ i) :
    (d.retire id f).host.read i = d.host.read i := by
  cases ht : (d.queue f.queue).takes with
  | true => rw [Dev.retire_of_takes id ht]; exact Dev.writeEntry_host_outside _ _ _ _ (by simpa [entryAddr] using h)
  | false => rw [Dev.retire_of_full id ht]; simp

/-- What a command ends as: its verdict, with the flag of a guarded run (R39, R126). -/
def Dev.ended (d : Dev) (f : Nat) (x : Flight) (st : Status) (a b : Nat) : Flight :=
  (d.postInternal f st x.tag).lateFlag (d.runFlags f (x.verdict st a b))

theorem Dev.finish_of_none {d : Dev} {f : Nat} (st : Status) (a b : Nat) (h : KV.find d.flights f = none) : d.finish f st a b = d := by
  simp [Dev.finish, h]

theorem Dev.finish_of_finished {d : Dev} {f : Nat} {x : Flight} (st : Status) (a b : Nat) (h : KV.find d.flights f = some x)
    (hp : x.phase = .finished) : d.finish f st a b = d := by
  simp [Dev.finish, h, hp]

theorem Dev.finish_of_unfinished {d : Dev} {f : Nat} {x : Flight} (st : Status) (a b : Nat) (h : KV.find d.flights f = some x)
    (hp : x.phase ≠ .finished) :
    d.finish f st a b = (d.postInternal f st x.tag).retire f (d.runFlags f (x.verdict st a b)) := by
  simp [Dev.finish, h, hp]

/-- The end of a command touches no queue but its own. -/
theorem Dev.finish_queue_other {d : Dev} {f : Nat} {x : Flight} (st : Status) (a b : Nat) (h : KV.find d.flights f = some x)
    {j : Nat} (hj : j ≠ x.queue) : (d.finish f st a b).queue j = d.queue j := by
  by_cases hp : x.phase = .finished
  · rw [Dev.finish_of_finished st a b h hp]
  · rw [Dev.finish_of_unfinished st a b h hp, Dev.retire_queue_other _ _ _ (by simpa [Flight.verdict] using hj)]
    simp

/-- R33: with no slot free the command stays, finished, at the end of those that wait. -/
theorem Dev.finish_of_full {d : Dev} {f : Nat} {x : Flight} (st : Status) (a b : Nat) (h : KV.find d.flights f = some x)
    (hp : x.phase ≠ .finished) (hs : (d.queue x.queue).cqSpace = false) :
    KV.find (d.finish f st a b).flights f = some { d.ended f x st a b with phase := .finished } ∧
      (d.finish f st a b).queue x.queue = { d.queue x.queue with waitCq := (d.queue x.queue).waitCq ++ [f] } ∧
      (d.finish f st a b).host = (d.postInternal f st x.tag).host := by
  have ht : ((d.postInternal f st x.tag).queue (d.runFlags f (x.verdict st a b)).queue).takes = false := by
    simp [Queue.takes, Flight.verdict, hs]
  rw [Dev.finish_of_unfinished st a b h hp, Dev.retire_of_full f ht]
  refine ⟨?_, ?_, ?_⟩
  · simp [KV.find_upd_same, h, Dev.ended]
  · simp [Flight.verdict]
  · simp

end Sys2Proof.Machine
end

section
/-! PROOFS. The machine's first step and reset, and completions. -/
open Sys2Proof Sys2Proof.Machine

/-- Settles O9: the laws of completions give the entry's four fields and the ring's tail. -/
theorem completionEntryIsWritten : Obligations.CompletionEntryIsWritten :=
  fun d f x st a b hf hp hs => Dev.finish_completed d f x st a b hf hp hs

/-- Settles O10: with no slot free, `finish` puts the command, finished, behind those that wait. -/
theorem fullRingKeepsTheCommand : Obligations.FullRingKeepsTheCommand := by
  intro d f x st st' a b a' b' hf hp hs
  obtain ⟨hx, hq, hh⟩ := Dev.finish_of_full st a b hf hp hs
  exact ⟨⟨_, hx, rfl, rfl⟩, by rw [hq], hh, Dev.postInternal_of_ne d f x.tag, Dev.finish_of_finished st' a' b' hx rfl⟩

/-- Settles O11: an entry is written within its 32 bytes, and no queue but the command's own moves. -/
theorem completionKeepsTheRest : Obligations.CompletionKeepsTheRest := by
  intro d f x st a b hf
  refine ⟨Dev.finish_of_finished st a b hf, Dev.finish_keeps d f st a b, Dev.postInternal_of_ne d f x.tag,
    fun j hj => Dev.finish_queue_other st a b hf hj, fun i hp hi => ?_⟩
  rw [Dev.finish_of_unfinished st a b hf hp]
  exact Dev.retire_host_outside _ _ _ _ (by simpa [entryAddr, Flight.verdict] using hi)

/-- Settles O1: by the definition of a step over a queue that is not empty. -/
theorem stepRunsTheFrontCommand : Obligations.StepRunsTheFrontCommand := fun _ _ _ => rfl

/-- Settles O7: every table is empty at reset, so each entry is the blank record. -/
theorem resetLeavesNothingBound : Obligations.ResetLeavesNothingBound :=
  ⟨rfl, rfl, fun _ => rfl, rfl, rfl, fun _ => rfl, rfl, fun _ => rfl, fun _ => rfl⟩

end

section
/-! SUPPORT. What sending packets and failing a collective leave of the commands and the queues (R254, R262). -/
namespace Sys2Proof.Machine
open Sys2Proof

/-- The commands in flight, the queues and the count of fetches are the same. -/
structure Dev.SameWork (d t : Dev) : Prop where
  flights : t.flights = d.flights
  queues : t.queues = d.queues
  nextFlight : t.nextFlight = d.nextFlight

theorem Dev.SameWork.refl (d : Dev) : Dev.SameWork d d := ⟨rfl, rfl, rfl⟩

theorem Dev.SameWork.trans {a b c : Dev} (h : Dev.SameWork a b) (g : Dev.SameWork b c) : Dev.SameWork a c :=
  ⟨g.flights.trans h.flights, g.queues.trans h.queues, g.nextFlight.trans h.nextFlight⟩

/-- A fold of steps that each keep the work keeps it. -/
theorem Dev.SameWork.foldl {α : Type} (g : Dev → α → Dev) (h : ∀ d a, Dev.SameWork d (g d a)) :
    ∀ (l : List α) (d : Dev), Dev.SameWork d (l.foldl g d)
  | [], d => Dev.SameWork.refl d
  | a :: l, d => (h d a).trans (Dev.SameWork.foldl g h l (g d a))

theorem Dev.noteMailPort_sameWork (d : Dev) (port : Nat) (p : Pkt) : Dev.SameWork d (d.noteMailPort port p) := by
  unfold Dev.noteMailPort
  split <;> exact ⟨rfl, rfl, rfl⟩

theorem Dev.launch_sameWork (d : Dev) (port : Nat) (q : Queued) : Dev.SameWork d (d.launch port q) := by
  unfold Dev.launch
  split
  · exact (Dev.noteMailPort_sameWork d port q.pkt).trans ⟨rfl, rfl, rfl⟩
  · exact ⟨rfl, rfl, rfl⟩
  · exact ⟨rfl, rfl, rfl⟩

theorem Dev.dispatch_sameWork (d : Dev) (q : Queued) : Dev.SameWork d (d.dispatch q).1 := by
  unfold Dev.dispatch
  split
  · exact Dev.SameWork.refl d
  · exact ⟨rfl, rfl, rfl⟩
  · split
    · exact ⟨rfl, rfl, rfl⟩
    · split
      · exact ⟨rfl, rfl, rfl⟩
      · exact Dev.launch_sameWork _ _ _

theorem Dev.hbmWrite_sameWork (d : Dev) (a : Nat) (bs : List Byte) : Dev.SameWork d (d.hbmWrite a bs) := ⟨rfl, rfl, rfl⟩

theorem Dev.leavePartials_sameWork (d : Dev) (c : Coll) (st : Status) : Dev.SameWork d (d.leavePartials c st) := by
  unfold Dev.leavePartials
  split
  · exact Dev.SameWork.refl d
  · exact Dev.SameWork.foldl _ (fun d _ => Dev.hbmWrite_sameWork d _ _) _ _

theorem Dev.sendFails_sameWork (d : Dev) (g : Group) (c : Coll) (st : Status) : Dev.SameWork d (d.sendFails g c st) := by
  refine Dev.SameWork.foldl _ (fun d m => ?_) _ _
  dsimp only
  split
  · exact Dev.dispatch_sameWork _ _
  · exact Dev.SameWork.refl d

theorem Dev.failColl_sameWork (d : Dev) (id : Nat) (st : Status) : Dev.SameWork d (d.failColl id st) := by
  unfold Dev.failColl
  split
  · exact Dev.SameWork.refl d
  · split
    · exact Dev.SameWork.refl d
    · split
      · exact Dev.SameWork.refl d
      · refine Dev.SameWork.trans (Dev.SameWork.trans ?_ (Dev.sendFails_sameWork _ _ _ _)) (Dev.leavePartials_sameWork _ _ _)
        exact ⟨rfl, rfl, rfl⟩

/-- R262: a command that is not a member of a collective sends no FAIL. -/
theorem Dev.failColl_of_none {d : Dev} {id : Nat} (st : Status) (h : KV.find d.colls id = none) : d.failColl id st = d := by
  simp [Dev.failColl, h]

/-- An event touches no command and no queue. -/
theorem Dev.postTo_sameWork (d : Dev) (n : Nat) (e : Event) : Dev.SameWork d (d.postTo n e) :=
  ⟨Dev.postTo_flights d n e, Dev.postTo_queues d n e, (Dev.postTo_keeps d n e).nextFlight⟩

theorem Dev.postD_sameWork (d : Dev) (code source : Nat) (l : List Nat) : Dev.SameWork d (d.postD code source l) :=
  Dev.postTo_sameWork _ _ _

theorem Dev.postP_sameWork (d : Dev) (code pad source : Nat) (l : List Nat) : Dev.SameWork d (d.postP code pad source l) :=
  (Dev.postTo_sameWork d 0 _).trans (Dev.SameWork.foldl _ (fun d n => Dev.postTo_sameWork d n _) _ _)

theorem Dev.wakeSheds_sameWork (d : Dev) (ss : List Nat) (lvl : ShedPower) : Dev.SameWork d (d.wakeSheds ss lvl) :=
  Dev.SameWork.foldl (fun d k => d.wakeShed k lvl) (fun _ _ => ⟨rfl, rfl, rfl⟩) ss d

/-! ### A queue torn down (R26) -/

/-- Command `f`, if it is in flight, is of queue `q`. -/
def Dev.ofQueue (d : Dev) (f q : Nat) : Prop := ∀ y, KV.find d.flights f = some y → y.queue = q

theorem Dev.ofQueue_of_find {d : Dev} {f : Nat} {x : Flight} (h : KV.find d.flights f = some x) : d.ofQueue f x.queue := by
  intro y hy
  rw [h] at hy
  rw [Option.some.inj hy]

theorem Dev.ofQueue.congr {d e : Dev} {f q : Nat} (h : d.ofQueue f q) (he : e.flights = d.flights) : e.ofQueue f q := by
  simpa [Dev.ofQueue, he] using h

/-- The end of command `f` leaves every queue but its own. -/
theorem Dev.ofQueue.finish_queue {d : Dev} {f q : Nat} (h : d.ofQueue f q) (st : Status) (a b : Nat) {j : Nat} (hj : j ≠ q) :
    (d.finish f st a b).queue j = d.queue j := by
  cases hf : KV.find d.flights f with
  | none => rw [Dev.finish_of_none st a b hf]
  | some y => exact Dev.finish_queue_other st a b hf (by rwa [h y hf])

/-- A fence's mark changes no command's queue. -/
theorem find_markFence_queue {fl : KV Flight} {id q i : Nat} {st : Status} {y : Flight} (h : KV.find (markFence fl id q st) i = some y) :
    ∃ z, KV.find fl i = some z ∧ y.queue = z.queue := by
  unfold markFence at h
  split at h
  · exact ⟨y, h, rfl⟩
  · rw [KV.find_mapV] at h
    obtain ⟨z, hz, rfl⟩ := Option.map_eq_some_iff.1 h
    refine ⟨z, hz, ?_⟩
    split <;> rfl

theorem Dev.leave_flights (d : Dev) (id : Nat) (x : Flight) :
    (d.leave id x).flights = markFence (KV.del d.flights id) id x.queue x.status := by
  unfold Dev.leave
  dsimp only
  split <;> rfl

theorem Dev.writeEntry_flights (d : Dev) (id : Nat) (x : Flight) :
    (d.writeEntry id x).flights = markFence (KV.del d.flights id) id x.queue x.status := by
  unfold Dev.writeEntry
  dsimp only
  split <;> simp [Dev.leave_flights]

/-- R26: an aborted command leaves flight, and marks the fences that wait for it. -/
theorem Dev.abortOne_flights {d : Dev} {id : Nat} {x : Flight} (h : KV.find d.flights id = some x) :
    ∃ q st, (d.abortOne id).flights = markFence (KV.del d.flights id) id q st := by
  have hc := (Dev.failColl_sameWork d id .aborted).flights
  by_cases hp : x.phase = .finished
  · exact ⟨x.queue, x.status, by simp [Dev.abortOne, h, hp, Dev.leave_flights]⟩
  · simp only [Dev.abortOne, h, hp, if_false]
    split
    · exact ⟨_, _, by rw [Dev.writeEntry_flights, hc]⟩
    · exact ⟨_, _, by rw [Dev.leave_flights, Dev.setQueue_flights, hc]⟩

/-- A command that is aborted takes no other out of its queue. -/
theorem Dev.ofQueue.abortOne {d : Dev} {f q id : Nat} (h : d.ofQueue f q) (hid : f ≠ id) : (d.abortOne id).ofQueue f q := by
  cases hx : KV.find d.flights id with
  | none => simpa [Dev.abortOne, hx] using h
  | some x =>
    obtain ⟨k, st, ht⟩ := Dev.abortOne_flights hx
    intro y hy
    rw [ht] at hy
    obtain ⟨z, hz, hyz⟩ := find_markFence_queue hy
    rw [KV.find_del_other _ hid] at hz
    rw [hyz, h z hz]

theorem Dev.ofQueue.aborts {f q : Nat} : ∀ (ids : List Nat) (d : Dev), d.ofQueue f q → (∀ i ∈ ids, f ≠ i) →
    (ids.foldl Dev.abortOne d).ofQueue f q
  | [], _, h, _ => h
  | i :: ids, _, h, hi => Dev.ofQueue.aborts ids _ (h.abortOne (hi i (by simp))) (fun k hk => hi k (List.mem_cons_of_mem _ hk))

/-- R26: a teardown that keeps command `f` leaves it in its queue. -/
theorem Dev.ofQueue.teardown {d : Dev} {f q : Nat} (h : d.ofQueue f q) (k : Nat) (st : QState) :
    (d.teardownQueue k f st).1.ofQueue f q := by
  have ha : ((d.flightsWhere (fun i y => y.queue == k && i != f)).foldl Dev.abortOne d).ofQueue f q := by
    refine Dev.ofQueue.aborts _ d h (fun i hi => ?_)
    simp only [Dev.flightsWhere, KV.keys, KV.keep, List.mem_map, List.mem_filter, Bool.and_eq_true, bne_iff_ne, ne_eq] at hi
    obtain ⟨e, ⟨-, -, he⟩, rfl⟩ := hi
    exact fun hf => he hf.symm
  unfold Dev.teardownQueue
  dsimp only
  split
  · exact ha.congr rfl
  · exact ha.congr (Dev.postP_sameWork _ _ _ _ _).flights

end Sys2Proof.Machine
end

section
/-! SUPPORT. Administration commands: features, queues, maps (R25, R26, R46, R369). -/
namespace Sys2Proof.Machine
open Sys2Proof

theorem Runs.onDev {s : State} {f op : Nat} {x : Flight} (h : Runs s f op x) (g : Dev → Flight → Dev) :
    onDev s (fun d => d.onFlight f op (g d)) = s.gives (g s.view x) := by
  rw [onDev_gives, h.onFlight]

theorem Runs.onDevR {s : State} {f op : Nat} {x : Flight} (h : Runs s f op x) (g : NonVol → Hay → Dev → Flight → Dev) :
    onDevR s (fun nv hay d => d.onFlight f op (g nv hay d)) = s.gives (g s.nv s.hay s.view x) := by
  rw [onDevR_gives, h.onFlight]

/-- A running command that ends while its ring has room leaves its entry, whatever the row changed but its queue and the
commands in flight. -/
theorem Runs.completed {s : State} {f op : Nat} {x : Flight} (h : Runs s f op x) (hs : SlotFree s.dev x) {d : Dev} {st : Status} {a b : Nat}
    (hf : d.flights = s.dev.flights := by rfl) (hq : d.queue x.queue = s.dev.queue x.queue := by rfl) :
    Completed s.dev (d.finish f st a b) f x st a b :=
  (Dev.finish_completed d f x st a b (by rw [hf]; exact h.1) h.unfinished (hs.of_queue hq)).of_queue hq

/-- Counters are 32 bits: a 64-bit figure fills both. -/
theorem Completed.of_mod {d t : Dev} {f : Nat} {x : Flight} {st : Status} {a b : Nat}
    (h : Completed d t f x st (a % 2 ^ 32) (b % 2 ^ 32)) : Completed d t f x st a b := by
  simpa [Completed] using h

theorem Dev.view_finish_keeps (s : State) (f : Nat) (st : Status) (a b : Nat) : Dev.Keeps s.dev (s.view.finish f st a b) :=
  s.view_keeps.trans (Dev.finish_keeps _ _ _ _ _)

/-! ### Features -/

theorem featureSet_of_bad {nv : NonVol} {hay : Hay} {d : Dev} {f : Nat} {x : Flight}
    (h : featureBad nv d (fld (x.w 2) 0 16) (x.d 4) = true) : featureSet nv hay d f x = (hay, d.finish f .badParam 0 0) := by
  simp [featureSet, h]

theorem featureSet_of_good {nv : NonVol} {hay : Hay} {d : Dev} {f : Nat} {x : Flight}
    (h : featureBad nv d (fld (x.w 2) 0 16) (x.d 4) = false) :
    (featureSet nv hay d f x).2 = Dev.finish64 { d with features := KV.put d.features (fld (x.w 2) 0 16) (x.d 4) } f .ok
        (d.feature (fld (x.w 2) 0 16)) ∧
      (¬ (0x0120 ≤ fld (x.w 2) 0 16 ∧ fld (x.w 2) 0 16 ≤ 0x013F) → (featureSet nv hay d f x).1 = hay) := by
  simp only [featureSet, h, Bool.false_eq_true, if_false]
  split
  · rename_i hr
    exact ⟨rfl, fun hn => absurd ⟨hr.1, hr.2.1⟩ hn⟩
  · exact ⟨rfl, fun _ => rfl⟩

theorem exec_featureSet {s : State} {f : Nat} {x : Flight} (h : Runs s f 0x03 x) :
    exec (.featureSet f) s = .next { s with dev := (featureSet s.nv s.hay s.view f x).2, hay := (featureSet s.nv s.hay s.view f x).1 } := by
  obtain ⟨hf, hp, ho⟩ := h
  show execFeatureSet f s = _
  simp only [execFeatureSet, onAll, hf, hp, ho, and_self, if_true]
  rfl

theorem exec_featureSet_of_bad {s : State} {f : Nat} {x : Flight} (h : Runs s f 0x03 x)
    (hb : featureBad s.nv s.view (fld (x.w 2) 0 16) (x.d 4) = true) : exec (.featureSet f) s = s.gives (s.view.finish f .badParam 0 0) := by
  rw [exec_featureSet h, featureSet_of_bad hb]
  rfl

/-! ### Queues bound and unbound -/

/-- A queue as QUEUE_BIND leaves it: the fields of the command, both rings empty (R25). -/
def Flight.boundQueue (x : Flight) : Queue :=
  { Queue.blank with
    fn := fld (x.w 2) 16 6, paddock := x.paddock, credit := fld (x.w 3) 0 11, sqBase := x.d 4, cqBase := x.d 6,
    sqLog2 := fld (x.w 8) 0 5, cqLog2 := fld (x.w 8) 8 5, vector := fld (x.w 9) 0 11,
    timeoutMs := if fld (x.w 9) 16 16 = 0 then 10000 else fld (x.w 9) 16 16, state := .active }

theorem exec_queueBind_of_bound {s : State} {f : Nat} {x : Flight} (h : Runs s f 0x06 x) (hu : x.isUnbind = false)
    (hb : (s.dev.queue x.bindQueue).state ≠ .unbound) : exec (.queueBind f) s = s.gives (s.view.finish f .badParam 0 0) := by
  show execQueueBind f s = _
  rw [execQueueBind, h.onDev]
  simp [hu, hb]

theorem exec_queueBind_of_unbound {s : State} {f : Nat} {x : Flight} (h : Runs s f 0x06 x) (hu : x.isUnbind = false)
    (hb : (s.dev.queue x.bindQueue).state = .unbound) :
    exec (.queueBind f) s = s.gives ((s.view.setQueue x.bindQueue x.boundQueue).finish f .ok 0 0) := by
  show execQueueBind f s = _
  rw [execQueueBind, h.onDev]
  simp [hu, hb, Flight.boundQueue]

theorem exec_queueUnbind_of_unbound {s : State} {f : Nat} {x : Flight} (h : Runs s f 0x06 x) (hu : x.isUnbind = true)
    (hb : (s.dev.queue x.bindQueue).state = .unbound) :
    exec (.queueUnbind f) s = s.gives (s.view.finish f .notInPaddock 0 0) := by
  show execQueueUnbind f s = _
  rw [execQueueUnbind, h.onDev]
  simp [hu, hb]

theorem exec_queueUnbind_of_bound {s : State} {f : Nat} {x : Flight} (h : Runs s f 0x06 x) (hu : x.isUnbind = true)
    (hb : (s.dev.queue x.bindQueue).state ≠ .unbound) :
    exec (.queueUnbind f) s =
      s.gives (((s.view.teardownQueue x.bindQueue f .unbound).1.setQueue x.bindQueue Queue.blank).finish f .ok
        (s.view.teardownQueue x.bindQueue f .unbound).2.1 (s.view.teardownQueue x.bindQueue f .unbound).2.2) := by
  show execQueueUnbind f s = _
  rw [execQueueUnbind, h.onDev]
  simp [hu, hb]

/-! ### Maps -/

/-- R369: a table that MAP_UPDATE refuses for the HBM map of a paddock, given that its entries are in order. -/
def Dev.hbmMapBad (d : Dev) (nv : NonVol) (pad : Nat) (es : List (Nat × Nat)) : Bool :=
  es.any (fun e => nv.reachesHole e.1 e.2 || hbmTop < e.1 + e.2 || d.pads.any (fun q => q.1 != pad && q.2.hitsDedicated e.1 e.2))

/-- R369: the paddock with another map of host memory, and with another map of HBM. -/
def Paddock.withHostMap (p : Paddock) (es : List (Nat × Nat)) : Paddock := { p with hostMap := es, hostGen := (p.hostGen + 1) % 2 ^ 32 }
def Paddock.withHbmMap (p : Paddock) (es : List (Nat × Nat)) : Paddock := { p with hbmMap := es, hbmGen := (p.hbmGen + 1) % 2 ^ 32 }

/-- The device with another record of one paddock. -/
def Dev.setPad (d : Dev) (k : Nat) (p : Paddock) : Dev := { d with pads := KV.put d.pads k p }

theorem Dev.setPad_finish_pad_same (d : Dev) (k : Nat) (p : Paddock) (f : Nat) (st : Status) (a b : Nat) :
    ((d.setPad k p).finish f st a b).pad k = some p := by
  simp [Dev.pad, Dev.setPad, KV.find_put_same]

theorem Dev.setPad_finish_pad_other (d : Dev) {k j : Nat} (p : Paddock) (f : Nat) (st : Status) (a b : Nat) (h : j ≠ k) :
    ((d.setPad k p).finish f st a b).pad j = d.pad j := by
  simp [Dev.pad, Dev.setPad, KV.find_put_other _ _ h]

section
variable {s : State} {f : Nat} {x : Flight} {p : Paddock} (h : Runs s f 0x07 x) (hp : s.dev.pad x.paddock = some p)
include h hp

theorem exec_mapUpdate_of_bad (hk : mapOk (readMap s.dev.host (x.d 4) (x.w 6)) = false) :
    exec (.mapUpdate f) s = s.gives (s.view.finish f .badParam 0 0) := by
  show execMapUpdate f s = _
  rw [execMapUpdate, h.onDevR]
  simp [hp, hk]

theorem exec_mapUpdate_host (hk : mapOk (readMap s.dev.host (x.d 4) (x.w 6)) = true) (hm : fld (x.w 2) 0 4 ≠ 0) :
    exec (.mapUpdate f) s = s.gives ((s.view.setPad x.paddock (p.withHostMap (readMap s.dev.host (x.d 4) (x.w 6)))).finish f .ok
      ((p.hostGen + 1) % 2 ^ 32) 0) := by
  show execMapUpdate f s = _
  rw [execMapUpdate, h.onDevR]
  simp [hp, hk, hm, Dev.setPad, Paddock.withHostMap]

theorem exec_mapUpdate_hbm (hk : mapOk (readMap s.dev.host (x.d 4) (x.w 6)) = true) (hm : fld (x.w 2) 0 4 = 0)
    (hb : s.dev.hbmMapBad s.nv x.paddock (readMap s.dev.host (x.d 4) (x.w 6)) = false) :
    exec (.mapUpdate f) s = s.gives ((s.view.setPad x.paddock (p.withHbmMap (readMap s.dev.host (x.d 4) (x.w 6)))).finish f .ok
      ((p.hbmGen + 1) % 2 ^ 32) 0) := by
  show execMapUpdate f s = _
  rw [Dev.hbmMapBad] at hb
  rw [execMapUpdate, h.onDevR]
  simp only [State.view_pad, State.view_host, State.view_pads, hp, hk, hm, hb, if_true, Bool.not_true, Bool.or_false, Bool.false_eq_true, if_false]
  rfl

end

theorem Dev.hbmMapBad_eq_false {d : Dev} {nv : NonVol} {pad : Nat} {es : List (Nat × Nat)}
    (h : ∀ e ∈ es, nv.reachesHole e.1 e.2 = false ∧ e.1 + e.2 ≤ hbmTop ∧ ∀ q ∈ d.pads, q.1 ≠ pad → q.2.hitsDedicated e.1 e.2 = false) :
    d.hbmMapBad nv pad es = false := by
  rw [Dev.hbmMapBad, List.any_eq_false]
  intro e he
  obtain ⟨hh, ht, hd⟩ := h e he
  have hn : d.pads.any (fun q => q.1 != pad && q.2.hitsDedicated e.1 e.2) = false := by
    rw [List.any_eq_false]
    intro q hq
    by_cases hk : q.1 = pad
    · simp [hk]
    · simp [hd q hq hk]
  simp [hh, hn, Nat.not_lt.2 ht]

end Sys2Proof.Machine
end

section
/-! PROOFS. Administration commands. -/
open Sys2Proof Sys2Proof.Machine

/-- Settles O13: the row is `featureSet`, which writes one entry of the table or refuses. -/
theorem featureSetWritesOneFeature : Obligations.FeatureSetWritesOneFeature := by
  intro s f x h hs
  refine ⟨fun hg => ?_, fun hb => ?_⟩
  · obtain ⟨hd, hh⟩ := featureSet_of_good (hay := s.hay) (f := f) hg
    refine ⟨_, _, exec_featureSet h, ?_, ?_, ?_, hh⟩
    · rw [hd]
      exact Completed.of_mod (h.completed hs)
    · rw [hd, Dev.feature, Dev.finish64_features, KV.getD_put_same]
    · intro j hj
      rw [hd, Dev.feature, Dev.finish64_features, KV.getD_put_other _ _ _ hj]
      rfl
  · exact ⟨_, exec_featureSet_of_bad h hb, h.completed hs, Dev.finish_features _ _ _ _ _⟩

/-- Settles O14: a bind writes the record of an unbound queue; a teardown leaves the command that asks for it in its own
queue, so its end leaves the blank record of the other. -/
theorem queuesAreBoundAndUnbound : Obligations.QueuesAreBoundAndUnbound := by
  refine ⟨fun s f x h hs hu hq => ⟨fun hb => ?_, fun hb => ?_⟩, fun s f x h hu => ⟨fun hb => ⟨?_, fun hq => ?_⟩, fun hb hs => ?_⟩⟩
  · refine ⟨_, exec_queueBind_of_unbound h hu hb, h.completed hs (hq := Dev.setQueue_queue_other s.view _ hq.symm),
      (s.view_keeps.trans (Dev.setQueue_keeps _ _ _)).trans (Dev.finish_keeps _ _ _ _ _), ?_⟩
    exact (Dev.finish_queue_other (d := s.view.setQueue _ _) .ok 0 0 h.1 hq).trans (Dev.setQueue_queue_same _ _ _)
  · exact ⟨_, exec_queueBind_of_bound h hu hb, h.completed hs, Dev.view_finish_keeps s _ _ _ _,
      fun j hj => Dev.finish_queue_other (d := s.view) .badParam 0 0 h.1 hj⟩
  · exact exec_queueUnbind_of_bound h hu hb
  · refine ⟨_, exec_queueUnbind_of_bound h hu hb, ?_⟩
    have ht := (Dev.ofQueue_of_find (d := s.view) h.1).teardown x.bindQueue .unbound
    rw [(ht.congr (Dev.setQueue_flights _ _ _)).finish_queue _ _ _ hq, Dev.setQueue_queue_same]
  · exact ⟨_, exec_queueUnbind_of_unbound h hu hb, h.completed hs⟩

/-- Settles O15: the row decides by the map named and the order of the table. -/
theorem mapUpdateReplacesOneMap : Obligations.MapUpdateReplacesOneMap := by
  intro s f x p h hs hp
  refine ⟨fun hm hk => ?_, fun hk => ?_, fun hm hk hr => ?_⟩
  · exact ⟨_, exec_mapUpdate_host h hp hk hm, h.completed hs, Dev.setPad_finish_pad_same _ _ _ _ _ _ _,
      fun j hj => Dev.setPad_finish_pad_other s.view _ _ _ _ _ hj⟩
  · exact ⟨_, exec_mapUpdate_of_bad h hp hk, h.completed hs, Dev.finish_pads _ _ _ _ _⟩
  · exact ⟨_, exec_mapUpdate_hbm h hp hk hm (Dev.hbmMapBad_eq_false hr), h.completed hs,
      Dev.setPad_finish_pad_same _ _ _ _ _ _ _⟩

end

section
/-! SUPPORT. COPY, FILL, the end of a transfer and a failed read of host memory (R35, R45, R233, R336). -/
namespace Sys2Proof.Machine
open Sys2Proof

/-! ### The two memories by their space -/

theorem Dev.put_flights (d : Dev) (sp : Space) (a : Nat) (bs : List Byte) : (d.put sp a bs).flights = d.flights := by
  cases sp <;> rfl

theorem Dev.length_readSpace (d : Dev) (sp : Space) (a n : Nat) : (d.readSpace sp a n).length = n := by
  cases sp <;> exact Memory.length_reads _ _ _

/-- What is put into a space is what it holds. -/
theorem Dev.readSpace_put_same (d : Dev) (sp : Space) (a : Nat) (bs : List Byte) {n : Nat} (h : bs.length = n) :
    (d.put sp a bs).readSpace sp a n = bs := by
  subst h
  cases sp <;> exact Memory.reads_writes _ _ _

/-- What is put into a space leaves its other bytes and the other space. -/
theorem Dev.readSpace_put_other (d : Dev) {sp sp' : Space} {a c : Nat} (bs : List Byte) {n : Nat} (hn : bs.length = n)
    (h : sp' ≠ sp ∨ c < a ∨ a + n ≤ c) : (d.put sp a bs).readSpace sp' c 1 = d.readSpace sp' c 1 := by
  subst hn
  have inside (hs : ¬ sp' ≠ sp) (m : Memory) : (m.writes a bs).reads c 1 = m.reads c 1 :=
    congrArg (· :: []) (Memory.read_writes_outside bs m a c (h.resolve_left hs))
  cases sp <;> cases sp'
  case hbm.hbm => exact inside (by simp) d.hbm
  case host.host => exact inside (by simp) d.host
  case hbm.host => rfl
  case host.hbm => rfl

/-! ### Errors of a memory access -/

theorem Dev.poisoned_of_nil {d : Dev} (h : d.poison = []) (a n : Nat) : d.poisoned a n = none := by
  simp [Dev.poisoned, h]

@[simp] theorem Dev.withFault_none (d : Dev) (nv : NonVol) (f : Nat) (go : Dev → Dev) : d.withFault nv f .none go = go d := rfl

@[simp] theorem Dev.withFault_uncorrectable (d : Dev) (nv : NonVol) (f a : Nat) (go : Dev → Dev) :
    d.withFault nv f (.uncorrectable a) go = (d.countErr nv a (fun x => { x with words := (d.now, a / 32) :: x.words })).finishMem f a := rfl

theorem Dev.settle64_moving (d : Dev) {f : Nat} {x : Flight} (st : Status) (v : Nat) (h : KV.find d.flights f = some x) :
    Moving (d.settle64 f st v) f st v (v / 2 ^ 32) := by
  have hm := Dev.settle_moving d f x st (v % 2 ^ 32) (v / 2 ^ 32 % 2 ^ 32) h
  simp only [Moving, Nat.mod_mod] at hm
  exact hm

/-! ### COPY -/

/-- A local copy of ranges that are the same or do not meet. -/
theorem Dev.copyLocal_of_apart (d : Dev) {ss ds : Space} {a b n : Nat} (h : ¬ (ss = ds ∧ a ≠ b ∧ overlaps a n b n = true)) :
    d.copyLocal ss ds a b n = d.put ds b (d.readSpace ss a n) :=
  if_neg h

theorem Dev.copyRun_of_clean {d : Dev} {x : Flight} (nv : NonVol) (f : Nat) (hn : x.d 6 ≠ 0) (hp : d.poison = []) :
    d.copyRun nv f x .none = if fld (x.w 8) 0 4 = 2 ∨ fld (x.w 8) 4 4 = 2 then d.copyPeer f x (x.d 6)
      else (d.copyLocal (spaceOf (fld (x.w 8) 0 4)) (spaceOf (fld (x.w 8) 4 4)) (x.d 2) (x.d 4) (x.d 6)).settle64 f .ok (x.d 6) := by
  simp [Dev.copyRun, Dev.memFault, Dev.poisoned_of_nil hp, hn]

theorem Dev.copyRun_of_empty {d : Dev} {x : Flight} (nv : NonVol) (f : Nat) (mf : MemFault) (hn : x.d 6 = 0) :
    d.copyRun nv f x mf = d.finish f .empty 0 0 := by
  simp [Dev.copyRun, hn]

theorem exec_copy {s : State} {f : Nat} {x : Flight} (h : Runs s f 0x20 x) (mf : MemFault) :
    exec (.copy f mf) s = s.gives (s.view.copyRun s.nv f x mf) := by
  show execCopy f mf s = _
  rw [execCopy, h.onDevR]

/-! ### FILL -/

theorem length_patternBytes (pat n : Nat) : (patternBytes pat n).length = n := by simp [patternBytes]

theorem exec_fill {s : State} {f : Nat} {x : Flight} (h : Runs s f 0x21 x) (mf : MemFault) :
    exec (.fill f mf) s = s.gives (if x.d 4 = 0 then s.view.finish f .empty 0 0
      else s.view.withFault s.nv f (if fld (x.w 7) 0 4 = 0 then mf else .none) fun d =>
        (d.put (spaceOf (fld (x.w 7) 0 4)) (x.d 2) (patternBytes (x.w 6) (x.d 4))).settle64 f .ok (x.d 4)) := by
  show execFill f mf s = _
  rw [execFill, h.onDevR]

/-! ### The end of a transfer, and of a command whose read of host memory fails -/

theorem exec_transferDone {s : State} {f : Nat} {x : Flight} (h : KV.find s.dev.flights f = some x) (hp : x.phase = .moving) :
    exec (.transferDone f) s = s.gives (if s.dev.owes f = false ∧ s.dev.waitsPort f = false then s.view.retire f x else s.view) := by
  have ho : s.view.owes f = s.dev.owes f := rfl
  have hw : s.view.waitsPort f = s.dev.waitsPort f := rfl
  show execTransferDone f s = _
  simp [execTransferDone, onDev_gives, h, hp, ho, hw]

theorem exec_pcieCompletionTimeout {s : State} {f : Nat} {x : Flight} (a cls : Nat) (h : KV.find s.dev.flights f = some x)
    (hp : x.phase = .running ∨ x.phase = .moving ∧ x.opcode ≠ 0x10) (hr : x.readsHost = true) :
    exec (.pcieCompletionTimeout f a cls) s =
      s.gives ((s.view.postP evHostReadError x.paddock (x.queue + (s.dev.queue x.queue).fn * 256 + x.tag * 65536)
        [a % 2 ^ 32, a / 2 ^ 32 % 2 ^ 32, cls]).finishMem f (2 ^ 64 - 1)) := by
  show execPcieCompletionTimeout f a cls s = _
  simp [execPcieCompletionTimeout, onDev_gives, h, hp, hr]

/-- R39: without a collective to fail, an uncorrectable read only ends its command. -/
theorem Dev.finishMem_of_noColl {d : Dev} {f : Nat} (addr : Nat) (h : KV.find d.colls f = none) :
    d.finishMem f addr = d.finish f .memUncorrectable (addr % 2 ^ 32) (addr / 2 ^ 32) := by
  rw [Dev.finishMem, Dev.failColl_of_none _ h]

/-- Events touch no collective. -/
@[simp] theorem Dev.raise_colls (d : Dev) (n v : Nat) : (d.raise n v).colls = d.colls := by
  unfold Dev.raise
  split
  · rfl
  · dsimp only; split <;> rfl

theorem Dev.raiseN_colls (n : Nat) : ∀ (k : Nat) (d : Dev), (d.raiseN n k).colls = d.colls
  | 0, _ => rfl
  | k + 1, d => (Dev.raiseN_colls n k (d.raise n 1)).trans (Dev.raise_colls d n 1)

theorem Dev.postTo_colls (d : Dev) (n : Nat) (e : Event) : (d.postTo n e).colls = d.colls := Dev.raiseN_colls _ _ _

theorem Dev.postP_colls (d : Dev) (code pad source : Nat) (l : List Nat) : (d.postP code pad source l).colls = d.colls := by
  have h : ∀ (e : Event) (ns : List Nat) (d : Dev), (ns.foldl (fun d n => d.postTo n e) d).colls = d.colls := by
    intro e ns
    induction ns with
    | nil => intro d; rfl
    | cons n ns ih => intro d; exact (ih _).trans (Dev.postTo_colls d n e)
  exact (h _ _ _).trans (Dev.postTo_colls _ _ _)

end Sys2Proof.Machine
end

section
/-! PROOFS. Memory commands and the end of their data. -/
open Sys2Proof Sys2Proof.Machine

/-- Settles O16: without an error the row puts the bytes it reads, or its pattern, into the destination's space. -/
theorem copyAndFillMoveTheirBytes : Obligations.CopyAndFillMoveTheirBytes := by
  intro s f x
  refine ⟨fun h hs hd hn hp ha => ?_, fun h hn => ?_, fun hs h hn mf => ?_, fun hs h hn mf => ?_, fun h hn hp hr => ?_, fun a h hn hsp => ?_⟩
  · have hl := Dev.length_readSpace s.view (spaceOf (fld (x.w 8) 0 4)) (x.d 2) (x.d 6)
    have he := exec_copy h .none
    rw [Dev.copyRun_of_clean (d := s.view) s.nv f hn hp, if_neg (by omega), Dev.copyLocal_of_apart _ ha] at he
    exact ⟨_, he, Dev.settle64_moving _ .ok _ (by rw [Dev.put_flights]; exact h.1), Dev.readSpace_put_same _ _ _ _ hl,
      fun sp a hsp => Dev.readSpace_put_other _ _ hl hsp⟩
  · have hl := length_patternBytes (x.w 6) (x.d 4)
    have he := exec_fill h .none
    rw [if_neg hn, ite_self, Dev.withFault_none] at he
    exact ⟨_, he, Dev.settle64_moving _ .ok _ (by rw [Dev.put_flights]; exact h.1), Dev.readSpace_put_same _ _ _ _ hl,
      fun sp a hsp => Dev.readSpace_put_other _ _ hl hsp⟩
  · exact ⟨_, (exec_copy h mf).trans (by rw [Dev.copyRun_of_empty s.nv f mf hn]), h.completed hs⟩
  · exact ⟨_, (exec_fill h mf).trans (by rw [if_pos hn]), h.completed hs⟩
  · rw [exec_copy h, Dev.copyRun_of_clean (d := s.view) s.nv f hn hp, if_pos hr]
  · rw [exec_fill h, if_neg hn, if_pos hsp, Dev.withFault_uncorrectable, State.view_now]

/-- Settles O17: a moving command that owes nothing retires; a failed read posts its event, which leaves the commands, the
queues and the collectives, and then ends the command. -/
theorem commandsEndAfterTheirData : Obligations.CommandsEndAfterTheirData := by
  refine ⟨fun s f x hf hp hs => ⟨fun ho hw => ?_, fun hw => ?_⟩, fun s f a cls x hf hp hr => ⟨?_, fun hc hs => ?_⟩⟩
  · exact ⟨_, (exec_transferDone hf hp).trans (by rw [if_pos ⟨ho, hw⟩]), Dev.retire_completed s.view f x x rfl rfl hs⟩
  · rw [exec_transferDone hf hp, if_neg]
    rintro ⟨ho, hq⟩
    simp [ho, hq] at hw
  · exact exec_pcieCompletionTimeout a cls hf hp hr
  · have hu : x.phase ≠ .finished := by
      rcases hp with hp | ⟨hp, -⟩ <;> simp [hp]
    refine ⟨_, exec_pcieCompletionTimeout a cls hf hp hr, ?_⟩
    rw [Dev.finishMem_of_noColl _ (by rw [Dev.postP_colls]; exact hc)]
    have hw := Dev.postP_sameWork s.view evHostReadError x.paddock (x.queue + (s.dev.queue x.queue).fn * 256 + x.tag * 65536)
      [a % 2 ^ 32, a / 2 ^ 32 % 2 ^ 32, cls]
    have hq := Dev.queue_congr hw.queues x.queue
    exact (Dev.finish_completed _ f x _ _ _ (by rw [hw.flights]; exact hf) hu (hs.of_queue hq)).of_queue hq

end

section
/-! SUPPORT. Doorbells and the administration queue's registers (R21, R22, R28, R33, R34). -/
namespace Sys2Proof.Machine
open Sys2Proof

/-- The host's stores of a doorbell row, in order (R27). -/
def State.stored (s : State) (stores : List (Nat × List Byte)) : Dev :=
  { s.view with host := stores.foldl (fun m w => m.writes w.1 w.2) s.dev.host }

theorem exec_sqDbWrite (s : State) (fn q : Nat) (v : Word) (stores : List (Nat × List Byte)) :
    exec (.sqDbWrite fn q v stores) s = s.gives ((s.stored stores).sqDoorbell fn q v.toNat) := rfl

theorem exec_cqHdWrite (s : State) (fn q : Nat) (v : Word) :
    exec (.cqHdWrite fn q v) s = s.gives (s.view.cqDoorbell fn q v.toNat) := rfl

section
variable {d : Dev} {fn q v : Nat}

/-- R21: a doorbell in the BAR0 of another function, or while the queues do not answer, does nothing. -/
theorem Dev.sqDoorbell_of_silent (h : d.fullUp = false ∨ d.answers fn q = false) : d.sqDoorbell fn q v = d := by
  rcases h with h | h <;> simp [Dev.sqDoorbell, h]

theorem Dev.cqDoorbell_of_silent (h : d.fullUp = false ∨ d.answers fn q = false) : d.cqDoorbell fn q v = d := by
  rcases h with h | h <;> simp [Dev.cqDoorbell, h]

variable (hu : d.fullUp = true) (ha : d.answers fn q = true)
include hu ha

theorem Dev.sqDoorbell_of_bad (hb : (d.queue q).state = .unbound ∨ (d.queue q).badTail (fld v 0 16) = true) :
    d.sqDoorbell fn q v = d.endRest.badDoorbell fn q 0 v (d.queue q).head := by
  simp [Dev.sqDoorbell, hu, ha, hb]

theorem Dev.sqDoorbell_of_good (hs : (d.queue q).state ≠ .unbound) (hb : (d.queue q).badTail (fld v 0 16) = false) :
    d.sqDoorbell fn q v = (d.endRest.setQueue q { d.queue q with tail := fld v 0 16 }).markHeld := by
  simp [Dev.sqDoorbell, hu, ha, hs, hb]

theorem Dev.cqDoorbell_of_bad (hb : (d.queue q).state = .unbound ∧ d.drains q = false ∨ (d.queue q).badHead (fld v 0 16) = true) :
    d.cqDoorbell fn q v = d.endRest.badDoorbell fn q 1 v (d.queue q).cqTail := by
  simp [Dev.cqDoorbell, hu, ha, hb]

theorem Dev.cqDoorbell_of_good (hs : (d.queue q).state ≠ .unbound ∨ d.drains q = true) (hb : (d.queue q).badHead (fld v 0 16) = false) :
    d.cqDoorbell fn q v = (d.endRest.setQueue q { d.queue q with cqHead := fld v 0 16 }).flushCq q (d.queue q).waitCq := by
  have hn : ¬ ((d.queue q).state = .unbound ∧ d.drains q = false) := by
    rintro ⟨h1, h2⟩
    rcases hs with h | h
    · exact h h1
    · simp [h] at h2
  simp [Dev.cqDoorbell, hu, ha, hn, hb]

end

/-- Table 3.11: the KIND of an invalid doorbell is 0 for a submission tail and 1 for a completion head. -/
theorem Dev.badDoorbell_submission (d : Dev) (fn q v i : Nat) :
    d.badDoorbell fn q 0 v i = d.postD evDoorbellInvalid (q + fn * 256) [v, i] := by
  rw [Dev.badDoorbell, Nat.zero_mul, Nat.add_zero]

theorem Dev.badDoorbell_completion (d : Dev) (fn q v i : Nat) :
    d.badDoorbell fn q 1 v i = d.postD evDoorbellInvalid (q + fn * 256 + 2 ^ 14) [v, i] := by
  rw [Dev.badDoorbell, Nat.one_mul]

/-! ### Queues that read HELD -/

/-- A queue's mark as it reads HELD changes nothing else of it. -/
theorem Dev.markHeld_queue (d : Dev) (j : Nat) : ∃ b, d.markHeld.queue j = { d.queue j with held := b } := by
  cases h : KV.find d.queues j with
  | none => exact ⟨false, by simp [Dev.queue, KV.getD, Dev.markHeld, KV.find_mapV, h, Queue.blank]⟩
  | some x =>
    simp only [Dev.queue, KV.getD, Dev.markHeld, KV.find_mapV, h, Option.map_some, Option.getD_some]
    split
    · exact ⟨true, rfl⟩
    · exact ⟨x.held, rfl⟩

@[simp] theorem Dev.markHeld_flights (d : Dev) : d.markHeld.flights = d.flights := rfl
@[simp] theorem Dev.markHeld_host (d : Dev) : d.markHeld.host = d.host := rfl

theorem Dev.setQueue_self (d : Dev) (q j : Nat) : (d.setQueue q (d.queue q)).queue j = d.queue j := by
  by_cases h : j = q
  · subst h; exact Dev.setQueue_queue_same _ _ _
  · exact Dev.setQueue_queue_other _ _ h

/-- R34: a head that stays where it is, within the ring, is valid. -/
theorem Queue.badHead_self {x : Queue} (h : x.cqHead < 2 ^ x.cqLog2) : x.badHead x.cqHead = false := by
  simp [Queue.badHead, h]

/-! ### The registers of queue 0 as its completions are written -/

/-- What completion entries leave of a queue: all but the ring's tail, its phase and what waits. -/
structure Queue.SameFront (x y : Queue) : Prop where
  state : y.state = x.state
  head : y.head = x.head
  tail : y.tail = x.tail
  cqHead : y.cqHead = x.cqHead
  credit : y.credit = x.credit
  timeoutMs : y.timeoutMs = x.timeoutMs

theorem Queue.SameFront.refl (x : Queue) : x.SameFront x := ⟨rfl, rfl, rfl, rfl, rfl, rfl⟩

theorem Queue.SameFront.trans {x y z : Queue} (h : x.SameFront y) (g : y.SameFront z) : x.SameFront z :=
  ⟨g.state.trans h.state, g.head.trans h.head, g.tail.trans h.tail, g.cqHead.trans h.cqHead, g.credit.trans h.credit,
    g.timeoutMs.trans h.timeoutMs⟩

theorem Dev.setQueue_sameFront (d : Dev) (q : Nat) {x : Queue} (h : (d.queue q).SameFront x) (j : Nat) :
    (d.queue j).SameFront ((d.setQueue q x).queue j) := by
  by_cases hj : j = q
  · subst hj; rwa [Dev.setQueue_queue_same]
  · rw [Dev.setQueue_queue_other _ _ hj]; exact Queue.SameFront.refl _

theorem Dev.writeEntry_sameFront (d : Dev) (id : Nat) (f : Flight) (j : Nat) : (d.queue j).SameFront ((d.writeEntry id f).queue j) := by
  by_cases hj : j = f.queue
  · subst hj; rw [Dev.writeEntry_queue_same]; exact ⟨rfl, rfl, rfl, rfl, rfl, rfl⟩
  · rw [Dev.writeEntry_queue_other _ _ _ hj]; exact Queue.SameFront.refl _

theorem Dev.flushCq_sameFront (q j : Nat) : ∀ (w : List Nat) (d : Dev), (d.queue j).SameFront ((d.flushCq q w).queue j)
  | [], d => Queue.SameFront.refl _
  | id :: t, d => by
    have hd := Dev.setQueue_sameFront d q (x := { d.queue q with waitCq := t }) ⟨rfl, rfl, rfl, rfl, rfl, rfl⟩ j
    rw [Dev.flushCq]
    split
    · dsimp only
      split
      · exact (hd.trans (Dev.writeEntry_sameFront _ _ _ _)).trans (Dev.flushCq_sameFront q j t _)
      · exact hd.trans (Dev.flushCq_sameFront q j t _)
    · exact Queue.SameFront.refl _

theorem Dev.flushCq_keeps (q : Nat) : ∀ (w : List Nat) (d : Dev), Dev.Keeps d (d.flushCq q w)
  | [], d => Dev.Keeps.refl d
  | id :: t, d => by
    have hd := Dev.setQueue_keeps d q { d.queue q with waitCq := t }
    rw [Dev.flushCq]
    split
    · dsimp only
      split
      · exact (hd.trans (Dev.writeEntry_keeps _ _ _)).trans (Dev.flushCq_keeps q t _)
      · exact hd.trans (Dev.flushCq_keeps q t _)
    · exact Dev.Keeps.refl d

/-! ### The administration queue -/

/-- Queue 0 as an enable opens it over the rings that the registers name, with the completions that waited (R22). -/
def AdmReg.opened (a : AdmReg) (w : List Nat) : Queue :=
  { Queue.blank with
    sqBase := a.sqBase, cqBase := a.cqBase, sqLog2 := a.sqLog2, cqLog2 := a.cqLog2, credit := 64, timeoutMs := 10000, state := .active, waitCq := w }

theorem Dev.admqStart_adm (d : Dev) : d.admqStart.adm = { d.adm with enable := true, held := false } :=
  (Dev.flushCq_keeps 0 _ _).adm

theorem Dev.admqStart_sameFront (d : Dev) : (d.adm.opened (d.queue 0).waitCq).SameFront (d.admqStart.queue 0) := by
  have h := Dev.flushCq_sameFront 0 0 (d.queue 0).waitCq
    ({ d with adm := { d.adm with enable := true, held := false } }.setQueue 0 (d.adm.opened (d.queue 0).waitCq))
  rwa [Dev.setQueue_queue_same] at h

theorem Dev.admqStart_of_none_waits {d : Dev} (h : (d.queue 0).waitCq = []) :
    d.admqStart = { d with adm := { d.adm with enable := true, held := false } }.setQueue 0 (d.adm.opened []) := by
  rw [Dev.admqStart, h]
  rfl

/-- A write of ADMQ_CFG with ENABLE notes the sizes, and the enable (R22). -/
def Dev.admqNoted (d : Dev) (v : Nat) : Dev :=
  { d.endRest with adm := { d.adm with sqLog2 := fld v 0 5, cqLog2 := fld v 16 5, held := true } }

section
variable {d : Dev} {v : Nat} (hb : d.barUp = true) (hp : d.devPower ≠ .standby)
include hb hp

theorem Dev.admqEnable_of_good (he : d.adm.enable = false) (h1 : logOk (fld v 0 5) = true) (h2 : logOk (fld v 16 5) = true) :
    d.admqEnable v = if d.boot.ready then (d.admqNoted v).admqStart else d.admqNoted v := by
  unfold Dev.admqEnable
  dsimp only
  rw [if_neg (by simp [hb, hp, he, h1, h2])]
  rfl

theorem Dev.admqDisable_of_enabled (he : d.adm.enable = true) :
    d.admqDisable v = { d.endRest with adm := { d.adm with enable := false } }.setQueue 0 { d.queue 0 with state := .unbound } := by
  unfold Dev.admqDisable
  rw [if_neg (by simp [hb, hp]), if_pos he]

theorem Dev.admqDisable_of_disabled (he : d.adm.enable = false) :
    d.admqDisable v = { d.endRest with adm := { d.adm with sqLog2 := fld v 0 5, cqLog2 := fld v 16 5, held := false } } := by
  unfold Dev.admqDisable
  rw [if_neg (by simp [hb, hp]), if_neg (by simp [he])]

end

theorem exec_admqEnable (s : State) (v : Word) : exec (.admqEnable v) s = s.gives (s.view.admqEnable v.toNat) := rfl
theorem exec_admqDisable (s : State) (v : Word) : exec (.admqDisable v) s = s.gives (s.view.admqDisable v.toNat) := rfl

end Sys2Proof.Machine
end

section
/-! PROOFS. Doorbells and the administration queue. -/
open Sys2Proof Sys2Proof.Machine

/-- Settles O18: the row is `sqDoorbell` on the device with the host's stores made. -/
theorem submissionDoorbellMovesTheTail : Obligations.SubmissionDoorbellMovesTheTail := by
  refine ⟨fun s fn q v stores hu ha => ⟨fun hs hb => ?_, fun hb => ?_⟩, fun s fn q v stores hn => ?_, fun x n h hn => ?_⟩
  · have ho := Dev.markHeld_queue ((s.stored stores).endRest.setQueue q { s.dev.queue q with tail := fld v.toNat 0 16 })
    refine ⟨_, (exec_sqDbWrite s fn q v stores).trans (congrArg _ (Dev.sqDoorbell_of_good (d := s.stored stores) hu ha hs hb)), ?_, ?_, rfl, ?_⟩
    · obtain ⟨b, hq⟩ := ho q
      rw [Dev.setQueue_queue_same] at hq
      exact (congrArg Queue.tail hq :)
    · obtain ⟨b, hq⟩ := ho q
      rw [Dev.setQueue_queue_same] at hq
      exact (congrArg Queue.head hq :)
    · intro j hj
      obtain ⟨b, hq⟩ := ho j
      rw [Dev.setQueue_queue_other _ _ hj] at hq
      have hb : _ = b := congrArg Queue.held hq
      subst hb
      exact hq
  · have hw := Dev.postD_sameWork (s.stored stores).endRest evDoorbellInvalid (q + fn * 256) [v.toNat, (s.dev.queue q).head]
    exact ⟨_, (s.stored stores).endRest, (exec_sqDbWrite s fn q v stores).trans
      (congrArg _ ((Dev.sqDoorbell_of_bad (d := s.stored stores) hu ha hb).trans (Dev.badDoorbell_submission _ _ _ _ _))),
      rfl, rfl, rfl, hw.queues, hw.flights⟩
  · exact (exec_sqDbWrite s fn q v stores).trans (congrArg _ (Dev.sqDoorbell_of_silent (d := s.stored stores) hn))
  · subst hn
    simp [Queue.badTail, or_assoc]

/-- Settles O19: the row is `cqDoorbell`, whose valid head frees slots for the completions that wait. -/
theorem completionHeadFreesSlots : Obligations.CompletionHeadFreesSlots := by
  refine ⟨fun s fn q v hu ha => ⟨fun hs hb => ?_, fun hs hc hv hw => ?_, fun hb => ?_⟩, fun s fn q v hn => ?_, fun x n h hn => ?_⟩
  · exact (exec_cqHdWrite s fn q v).trans (congrArg _ (Dev.cqDoorbell_of_good (d := s.view) hu ha hs hb))
  · have hb : (s.dev.queue q).badHead (fld v.toNat 0 16) = false := by rw [hv]; exact Queue.badHead_self hc
    refine ⟨_, (exec_cqHdWrite s fn q v).trans (congrArg _ (Dev.cqDoorbell_of_good (d := s.view) hu ha (.inl hs) hb)), ?_⟩
    rw [State.view_queue, hw, hv]
    exact ⟨Dev.setQueue_self s.view.endRest q q, rfl, rfl⟩
  · have hw := Dev.postD_sameWork s.view.endRest evDoorbellInvalid (q + fn * 256 + 2 ^ 14) [v.toNat, (s.dev.queue q).cqTail]
    exact ⟨_, (exec_cqHdWrite s fn q v).trans
      (congrArg _ ((Dev.cqDoorbell_of_bad (d := s.view) hu ha hb).trans (Dev.badDoorbell_completion _ _ _ _ _))),
      rfl, hw.queues, hw.flights⟩
  · exact (exec_cqHdWrite s fn q v).trans (congrArg _ (Dev.cqDoorbell_of_silent (d := s.view) hn))
  · subst hn
    simp [Queue.badHead]

/-- Settles O20: an enable that takes effect opens queue 0, and the completions that waited move only the ring's tail,
its phase and the list of them. -/
theorem adminQueueOpensAndCloses : Obligations.AdminQueueOpensAndCloses := by
  intro s v hb hp
  refine ⟨fun he h1 h2 hr => ?_, fun he h1 h2 hr => ?_, fun he => ?_, fun he => ?_⟩
  · obtain ⟨hst, hhd, htl, hch, hcr, htm⟩ := Dev.admqStart_sameFront (s.view.admqNoted v.toNat)
    have ha := Dev.admqStart_adm (s.view.admqNoted v.toNat)
    refine ⟨_, (exec_admqEnable s v).trans (congrArg _ ((Dev.admqEnable_of_good (d := s.view) hb hp he h1 h2).trans (if_pos hr))),
      by rw [ha], by rw [ha], hst, hhd, htl, hch, hcr, htm, fun hw => ?_⟩
    rw [Dev.admqStart_of_none_waits (d := s.view.admqNoted v.toNat) hw, Dev.setQueue_queue_same]
    exact ⟨rfl, rfl⟩
  · exact ⟨s.view.admqNoted v.toNat, (exec_admqEnable s v).trans
      (congrArg _ ((Dev.admqEnable_of_good (d := s.view) hb hp he h1 h2).trans (if_neg (by simp [hr])))), he, rfl, rfl⟩
  · refine ⟨_, (exec_admqDisable s v).trans (congrArg _ (Dev.admqDisable_of_enabled (d := s.view) hb hp he)), rfl, ?_,
      fun j hj => Dev.setQueue_queue_other _ _ hj⟩
    rw [Dev.setQueue_queue_same]
  · exact ⟨_, (exec_admqDisable s v).trans (congrArg _ (Dev.admqDisable_of_disabled (d := s.view) hb hp he)), rfl, rfl⟩

end

section
/-! SUPPORT. Event rings and interrupt coalescing (R35, R58, R60). -/
namespace Sys2Proof.Machine
open Sys2Proof

@[simp] theorem Dev.setFn_fn_same (d : Dev) (n : Nat) (x : Fn) : (d.setFn n x).fn n = x := KV.getD_put_same _ _ _ _

/-- A change of a function's ring is what its ring becomes. -/
@[simp] theorem Dev.updRing_ring (d : Dev) (fn : Nat) (g : Ring → Ring) : ((d.updRing fn g).fn fn).ring = g (d.fn fn).ring := by
  rw [Dev.updRing, Dev.setFn_fn_same]

theorem exec_evtRingEnable (s : State) (fn : Nat) (v : DWord) : exec (.evtRingEnable fn v) s = s.gives (s.view.evtEnable fn v.toNat) := rfl
theorem exec_evtRingDisable (s : State) (fn : Nat) (v : DWord) : exec (.evtRingDisable fn v) s = s.gives (s.view.evtDisable fn v.toNat) := rfl
theorem exec_evtHeadWrite (s : State) (fn : Nat) (v : Word) : exec (.evtHeadWrite fn v) s = s.gives (s.view.evtHead fn v.toNat) := rfl

section
variable {d : Dev} {fn v : Nat} (hb : d.barUp = true)
include hb

theorem Dev.evtEnable_of_good (he : (d.fn fn).ring.enable = false) (hl : logOk (fld v 0 5) = true) :
    d.evtEnable fn v = (d.endRest.updRing fn (fun r => { r with
      base := ringBaseOf v, log2 := fld v 0 5, enable := true, head := 0, tail := 0, phase := true })).drainRing fn := by
  simp [Dev.evtEnable, hb, he, hl]

theorem Dev.evtDisable_of_enabled (he : (d.fn fn).ring.enable = true) :
    d.evtDisable fn v = d.endRest.updRing fn (fun r => { r with enable := false }) := by
  simp [Dev.evtDisable, hb, he]

theorem Dev.evtDisable_of_disabled (he : (d.fn fn).ring.enable = false) :
    d.evtDisable fn v = d.endRest.updRing fn (fun r => { r with base := ringBaseOf v, log2 := fld v 0 5 }) := by
  simp [Dev.evtDisable, hb, he]

variable (he : (d.fn fn).ring.enable = true)
include he

theorem Dev.evtHead_of_good (hh : (d.fn fn).ring.badHead (fld v 0 16) = false) :
    d.evtHead fn v = (d.endRest.updRing fn (fun r => { r with head := fld v 0 16 })).drainRing fn := by
  simp [Dev.evtHead, hb, he, hh]

theorem Dev.evtHead_of_bad (hh : (d.fn fn).ring.badHead (fld v 0 16) = true) :
    d.evtHead fn v = d.endRest.badDoorbell fn 0 2 v (d.fn fn).ring.tail := by
  simp [Dev.evtHead, hb, he, hh]

end

theorem exec_evtCauseClear {s : State} (hb : s.dev.barUp = true) (fn : Nat) (v : Word) :
    exec (.evtCauseClear fn v) s = s.gives (s.view.endRest.updRing fn (fun r => { r with
      overflow := r.overflow && !bitOf v.toNat 31, event := r.event && !bitOf v.toNat 30 })) := by
  have hu : s.view.barUp = true := hb
  show execEvtCauseClear fn v s = _
  simp [execEvtCauseClear, onDev_gives, hu]

theorem exec_evtLostRead {s : State} (hb : s.dev.barUp = true) (fn : Nat) :
    exec (.evtLostRead fn) s = s.gives (Dev.updRing { s.view with out := { Out.blank with value := (s.dev.fn fn).ring.lost } } fn
      (fun r => { r with lost := 0 })) := by
  have hu : s.view.barUp = true := hb
  show execEvtLostRead fn s = _
  simp [execEvtLostRead, onDev_gives, hu]

/-! ### Time, and the coalescing time of a vector -/

/-- R35: the row raises the vector once the coalescing time has run out since the first completion not yet signalled. -/
theorem exec_interruptCoalesceTimeout {s : State} {fn vec n since : Nat} (dt : Nat) (h : KV.find (s.dev.fn fn).coal vec = some (n, since)) :
    exec (.interruptCoalesceTimeout fn vec dt) s = s.gives (if n ≠ 0 ∧ since + s.dev.feature 0x0002 * 1000 ≤ s.dev.now + dt then
      ((s.view.advance dt).setFn fn { s.dev.fn fn with coal := KV.del (s.dev.fn fn).coal vec }).raise fn vec else s.view.advance dt) := by
  show execInterruptCoalesceTimeout fn vec dt s = _
  have hc : KV.find ((s.view.advance dt).fn fn).coal vec = some (n, since) := h
  have he : (s.view.advance dt).elapsed since ((s.view.advance dt).feature 0x0002 * 1000) = true ↔
      since + s.dev.feature 0x0002 * 1000 ≤ s.dev.now + dt := decide_eq_true_iff
  simp only [execInterruptCoalesceTimeout, onDev_gives, hc, he]
  rfl

end Sys2Proof.Machine
end

section
/-! PROOFS. Event rings and interrupts. -/
open Sys2Proof Sys2Proof.Machine

/-- Settles O21: each register row changes its function's ring, and the coalescing row compares the time that has passed. -/
theorem eventsReachTheirFunction : Obligations.EventsReachTheirFunction := by
  refine ⟨fun s fn v h hb => ⟨fun he hl => ?_, fun he => ?_, fun he => ⟨?_, fun hh => ?_, fun hh => ?_⟩⟩,
    fun s fn v hb => ⟨?_, ?_⟩, fun s fn vec dt n since hc => ⟨fun hn ht => ?_, fun ht => ?_⟩⟩
  · exact (exec_evtRingEnable s fn v).trans (congrArg _ (Dev.evtEnable_of_good (d := s.view) hb he hl))
  · exact ⟨_, (exec_evtRingDisable s fn v).trans (congrArg _ (Dev.evtDisable_of_disabled (d := s.view) hb he)), Dev.updRing_ring _ _ _⟩
  · exact ⟨_, (exec_evtRingDisable s fn v).trans (congrArg _ (Dev.evtDisable_of_enabled (d := s.view) hb he)), Dev.updRing_ring _ _ _⟩
  · exact (exec_evtHeadWrite s fn h).trans (congrArg _ (Dev.evtHead_of_good (d := s.view) hb he hh))
  · exact (exec_evtHeadWrite s fn h).trans (congrArg _ (Dev.evtHead_of_bad (d := s.view) hb he hh))
  · exact ⟨_, exec_evtCauseClear hb fn v, Dev.updRing_ring _ _ _⟩
  · exact ⟨_, exec_evtLostRead hb fn, rfl, Dev.updRing_ring _ _ _⟩
  · rw [exec_interruptCoalesceTimeout dt hc, if_pos ⟨hn, ht⟩]
  · rw [exec_interruptCoalesceTimeout dt hc, if_neg (by omega)]

end

section
/-! SUPPORT. Loading, unloading and aborting plans (R47, R63, R64, R231). -/
namespace Sys2Proof.Machine
open Sys2Proof

/-! ### PLAN_LOAD -/

/-- The image that a PLAN_LOAD reads from its source (Table 2.16). -/
def Dev.imageOf (d : Dev) (hay : Hay) (x : Flight) : List Byte :=
  if fld (x.w 3) 0 2 = 2 then hayReads hay d (x.d 4) (x.d 6) else d.readSpace (spaceOf (1 - fld (x.w 3) 0 2)) (x.d 4) (x.d 6)

theorem Dev.length_imageOf (d : Dev) (hay : Hay) (x : Flight) : (d.imageOf hay x).length = x.d 6 := by
  unfold Dev.imageOf
  split
  · simp [hayReads, rangeFrom]
  · exact Dev.length_readSpace _ _ _ _

/-- The device with a plan's image at a place of the store and the plan under its key. -/
def Dev.storePlan (d : Dev) (x : Flight) (base : Nat) (bs : List Byte) : Dev :=
  { d.hbmWrite base bs with
    plans := KV.put d.plans x.planKey (Plan.fresh x.paddock (fld (x.w 2) 0 16) base (x.d 6)), restSince := d.now }

section
variable {nv : NonVol} {hay : Hay} {d : Dev} {x : Flight} {bad : Option Nat} (f : Nat)

theorem planLoad_of_failing {b : Nat} (hs : fld (x.w 3) 0 2 = 2) (hb : hay.firstBad (x.d 4) (x.d 6) bad = some b) :
    planLoad nv hay d f x bad .none = (hay.markFailed b, d.finish f .hayloftReadFail 0 0) := by
  simp [planLoad, hs, hb, Dev.memFault]

variable (hb : fld (x.w 3) 0 2 = 2 → hay.firstBad (x.d 4) (x.d 6) bad = none) (hp : fld (x.w 3) 0 2 = 1 → d.poison = [])
include hb hp

/-- With its image read, a PLAN_LOAD is refused or stored by the image and the room alone. -/
theorem planLoad_of_read : planLoad nv hay d f x bad .none = (hay,
    if d.loadBad x (d.imageOf hay x) then d.finish f .badParam 0 0
    else match d.storeRoom (x.d 6) with
      | none => d.finish f .badParam 0 0
      | some base => (d.storePlan x base (d.imageOf hay x)).settle64 f .ok (x.d 6)) := by
  have h1 : (if fld (x.w 3) 0 2 = 2 then hay.firstBad (x.d 4) (x.d 6) bad else none) = none := by
    split
    · exact hb ‹_›
    · rfl
  have h2 : (if fld (x.w 3) 0 2 = 1 then d.poisoned (x.d 4) (x.d 6) else none) = none := by
    split
    · exact Dev.poisoned_of_nil (hp ‹_›) _ _
    · rfl
  simp only [planLoad, Dev.memFault, h1, h2, Option.orElse_none]
  change (if d.loadBad x (d.imageOf hay x) then _ else _) = _
  cases d.loadBad x (d.imageOf hay x) with
  | true => rfl
  | false => cases d.storeRoom (x.d 6) <;> rfl

theorem planLoad_of_refused (hr : d.loadBad x (d.imageOf hay x) = true ∨ d.storeRoom (x.d 6) = none) :
    planLoad nv hay d f x bad .none = (hay, d.finish f .badParam 0 0) := by
  rw [planLoad_of_read f hb hp]
  rcases hr with hr | hr
  · rw [if_pos hr]
  · rw [hr, ite_self]

theorem planLoad_of_room {base : Nat} (hg : d.loadBad x (d.imageOf hay x) = false) (hr : d.storeRoom (x.d 6) = some base) :
    planLoad nv hay d f x bad .none = (hay, (d.storePlan x base (d.imageOf hay x)).settle64 f .ok (x.d 6)) := by
  rw [planLoad_of_read f hb hp, if_neg (by simp [hg]), hr]

end

theorem exec_planLoad {s : State} {f : Nat} {x : Flight} (h : Runs s f 0x10 x) {bad : Option Nat} {mf : MemFault} {hay : Hay} {d : Dev}
    (hl : planLoad s.nv s.hay s.view f x bad mf = (hay, d)) : exec (.planLoad f bad mf) s = .next { s with hay := hay, dev := d } := by
  obtain ⟨hf, hp, ho⟩ := h
  have hv : KV.find ({ s.dev with out := Out.blank } : Dev).flights f = some x := hf
  show execPlanLoad f bad mf s = _
  simp only [execPlanLoad, onAll, hv, hp, ho, and_self, if_true]
  exact congrArg (fun r : Hay × Dev => Host.Outcome.next { s with hay := r.1, dev := r.2 }) hl

/-! ### PLAN_UNLOAD and PLAN_ABORT -/

theorem exec_planUnload {s : State} {f : Nat} {x : Flight} (h : Runs s f 0x13 x) (hp : (s.view.plan? x).isSome = true) :
    exec (.planUnload f) s = s.gives (Dev.finish { s.view with plans := KV.del s.dev.plans x.planKey } f .ok 0 0) := by
  show execPlanUnload f s = _
  rw [execPlanUnload, h.onDev]
  simp [Option.isNone_eq_false_iff.2 hp]

theorem exec_planAbort {s : State} {f : Nat} {x : Flight} (h : Runs s f 0x12 x) {ids : List Nat}
    (hi : s.view.flightsWhere (fun _ y => x.aborts y) = ids) :
    exec (.planAbort f) s = s.gives ((ids.foldl Dev.abortRun s.view).finish f .ok ids.length 0) := by
  show execPlanAbort f s = _
  rw [execPlanAbort, h.onDev, hi]

theorem Dev.abortRun_of_waiting {d : Dev} {g : Nat} {y : Flight} (h : KV.find d.flights g = some y) (hp : y.phase = .waiting) :
    d.abortRun g = d.finish g .aborted 0 0 := by
  simp [Dev.abortRun, h, hp]

theorem Dev.abortRun_of_started {d : Dev} {g : Nat} {y : Flight} (h : KV.find d.flights g = some y) (hp : y.phase ≠ .waiting) :
    d.abortRun g = d.failFlight g .aborted := by
  simp [Dev.abortRun, h, hp]

end Sys2Proof.Machine
end

section
/-! PROOFS. Plans. -/
open Sys2Proof Sys2Proof.Machine

/-- Settles O27: an image that is read is stored whole at the place that has room, or refused; the other two rows change
the table of plans and end the run that is named. -/
theorem plansComeAndGo : Obligations.PlansComeAndGo := by
  intro s f x bad
  refine ⟨fun bs h hs hp hb hbs => ⟨fun base hg hr => ?_, fun hr hsl => ?_⟩, fun b h hs hb hsl => ?_, fun h hp hsl => ?_, fun h hi hsl => ?_,
    fun g y h hi hf => ⟨fun hp => ?_, fun hp => ?_⟩⟩
  · change bs = s.view.imageOf s.hay x at hbs
    subst hbs
    have hl := Dev.length_imageOf s.view s.hay x
    have he := exec_planLoad h (planLoad_of_room (d := s.view) f hb hp hg hr)
    refine ⟨_, he, Dev.settle64_moving _ .ok _ h.1, ?_, fun a ha => ?_, KV.find_put_same _ _ _, fun k hk => KV.find_put_other _ _ hk⟩
    · have hw := Memory.reads_writes (s.view.imageOf s.hay x) s.dev.hbm base
      rwa [hl] at hw
    · exact Memory.read_writes_outside _ _ _ _ (by rwa [hl])
  · change bs = s.view.imageOf s.hay x at hbs
    subst hbs
    exact ⟨_, exec_planLoad h (planLoad_of_refused (d := s.view) f hb hp hr), h.completed hsl, Dev.view_finish_keeps s _ _ _ _⟩
  · exact ⟨_, exec_planLoad h (planLoad_of_failing (d := s.view) f hs hb), h.completed hsl, Dev.view_finish_keeps s _ _ _ _⟩
  · refine ⟨_, exec_planUnload h hp, h.completed hsl, ?_, fun k hk => ?_, Dev.finish_hbm _ _ _ _ _⟩
    · rw [Dev.finish_plans]
      exact KV.find_del_same _ _
    · rw [Dev.finish_plans]
      exact KV.find_del_other _ hk
  · exact ⟨_, exec_planAbort h hi, h.completed hsl, Dev.view_finish_keeps s _ _ _ _⟩
  · exact (exec_planAbort h hi).trans (by rw [List.foldl_cons, List.foldl_nil, Dev.abortRun_of_waiting (d := s.view) hf hp]; rfl)
  · exact (exec_planAbort h hi).trans (by rw [List.foldl_cons, List.foldl_nil, Dev.abortRun_of_started (d := s.view) hf hp]; rfl)

end

section
/-! SUPPORT. Commands taken up, and pictures at their engines (R37, R39, R195 to R204). -/
namespace Sys2Proof.Machine
open Sys2Proof

/-! ### A command begins to run -/

/-- The command as `Dev.beginRun` leaves it. -/
def Dev.begun (d : Dev) (x : Flight) : Flight :=
  { x with phase := .running, gtcStart := d.gtc.val, startNow := d.now,
           flags := setFlagIf d.supply.warn (setFlagIf d.throttled x.flags fThrottled) fVdroop }

theorem Dev.find_beginRun {d : Dev} {f : Nat} {x : Flight} (h : KV.find d.flights f = some x) :
    KV.find (d.beginRun f).flights f = some (d.begun x) := by
  rw [Dev.beginRun, Dev.updFlight_flights, KV.find_upd_same, h]
  rfl

/-! ### What waits in a stream's list -/

theorem exec_encPicture {s : State} {f : Nat} {x : Flight} {q : Stream} (h : Runs s f 0x61 x) (hq : KV.find s.view.streams x.streamId = some q)
    (he : s.view.engines.vals.any (fun e => e.flight == f) = false) :
    exec (.encPicture f) s = s.gives (if 63 < q.ahead x.picture then s.view.finish f .badParam 0 0 else s.view.mediaReady f x q) := by
  show execEncPicture f s = _
  rw [execEncPicture, h.onDev]
  simp only [hq, he, Bool.false_eq_true, if_false]

theorem exec_decData {s : State} {f : Nat} {x : Flight} {q : Stream} (h : Runs s f 0x64 x) (hq : KV.find s.view.streams x.streamId = some q)
    (he : s.view.engines.vals.any (fun e => e.flight == f) = false) (hj : q.job = none) :
    exec (.decData f) s = s.gives (s.view.mediaReady f x q) := by
  show execDecData f s = _
  rw [execDecData, h.onDev]
  simp only [hq, he, hj, Option.isSome_none, Bool.or_self, Bool.false_eq_true, if_false]

theorem Dev.find_mediaReady {d : Dev} {x : Flight} {q : Stream} (f : Nat) (h : KV.find d.streams x.streamId = some q) :
    KV.find (d.mediaReady f x q).streams x.streamId = some { q with ready := if q.ready.contains f then q.ready else q.ready ++ [f] } := by
  unfold Dev.mediaReady
  split
  · exact h
  · exact (KV.find_upd_same _ _ _).trans (by rw [h]; rfl)

/-! ### An engine takes up a picture -/

theorem Dev.pictureStart_of_held {d : Dev} {en : Nat} (nv : NonVol) (mf : MemFault)
    (h : KV.has d.engines en = true ∨ d.supply.warn = true ∨ d.pll.contains .media = false) : d.pictureStart nv en mf = d :=
  if_pos (by rcases h with h | h | h <;> simp only [h, Bool.true_or, Bool.or_true, Bool.not_false])

theorem Dev.pictureStart_of_first {d : Dev} {en f : Nat} {x : Flight} {q : Stream} (nv : NonVol) (mf : MemFault)
    (he : KV.has d.engines en = false) (hw : d.supply.warn = false) (hp : d.pll.contains .media = true)
    (hf : d.firstOf ((KV.keep d.streams (fun _ q => q.engine == en)).filterMap (fun e => d.offered e.1 e.2)) = some f)
    (hx : KV.find d.flights f = some x) (hq : KV.find d.streams x.streamId = some q) :
    d.pictureStart nv en mf = if q.enc then (d.beginRun f).startEncode nv en f x q mf else d.startDecode nv en f x q mf := by
  simp only [Dev.pictureStart, he, hw, hp, hf, hx, hq, Bool.false_or, Bool.not_true, Bool.false_eq_true, if_false]

/-- The first picture of a DEC_DATA whose data can be read: the command runs, and the engine works for it. -/
theorem Dev.startDecode_of_clean {d : Dev} {q : Stream} (nv : NonVol) (en f : Nat) (x : Flight) (hj : q.job = none) (hp : d.poison = []) :
    (d.startDecode nv en f x q .none).flights = (d.beginRun f).flights ∧
      ∃ e, KV.find (d.startDecode nv en f x q .none).engines en = some e ∧ e.flight = f ∧ e.stream = x.streamId := by
  have hn : (d.beginRun f).poisoned (x.d 3) (x.w 5) = none := Dev.poisoned_of_nil hp _ _
  simp only [Dev.startDecode, hj, Option.isSome_none, Bool.false_eq_true, if_false, Dev.memFault, Option.orElse_none, hn]
  exact ⟨trivial, _, KV.find_put_same _ _ _, rfl, rfl⟩

/-! ### Units leave, and pictures end -/

/-- The credit that a peer grants is the queue pair's alone (R198). -/
theorem Dev.grantCredit_eq (d : Dev) (en n : Nat) : ∃ qps, d.grantCredit en n = { d with qps := qps } := by
  unfold Dev.grantCredit
  split
  · exact ⟨_, rfl⟩
  · split
    · exact ⟨_, rfl⟩
    · exact ⟨_, rfl⟩

theorem Dev.grantCredit_of_none {d : Dev} {en : Nat} (h : KV.find d.engines en = none) (n : Nat) : d.grantCredit en n = d := by
  simp [Dev.grantCredit, h]

@[simp] theorem Dev.grantCredit_engines (d : Dev) (en n : Nat) : (d.grantCredit en n).engines = d.engines := by
  obtain ⟨_, h⟩ := d.grantCredit_eq en n
  rw [h]

@[simp] theorem Dev.grantCredit_flights (d : Dev) (en n : Nat) : (d.grantCredit en n).flights = d.flights := by
  obtain ⟨_, h⟩ := d.grantCredit_eq en n
  rw [h]

@[simp] theorem Dev.grantCredit_streams (d : Dev) (en n : Nat) : (d.grantCredit en n).streams = d.streams := by
  obtain ⟨_, h⟩ := d.grantCredit_eq en n
  rw [h]

@[simp] theorem Dev.grantCredit_supply (d : Dev) (en n : Nat) : (d.grantCredit en n).supply = d.supply := by
  obtain ⟨_, h⟩ := d.grantCredit_eq en n
  rw [h]

theorem exec_encOutputResume (en n : Nat) (s : State) :
    exec (.encOutputResume en n) s = s.gives ((s.view.grantCredit en n).outputResume en) := rfl

theorem exec_mediaPictureDone (en : Nat) (upto : Option Nat) (n : Nat) (s : State) : exec (.mediaPictureDone en upto n) s =
    s.gives (if (s.view.grantCredit en n).supply.warn then s.view.grantCredit en n else (s.view.grantCredit en n).pictureDone en upto) := rfl

theorem Dev.outputResume_of_none {d : Dev} {en : Nat} (h : KV.find d.engines en = none) : d.outputResume en = d := by
  simp [Dev.outputResume, h]

theorem Dev.pictureDone_of_none {d : Dev} {en : Nat} (h : KV.find d.engines en = none) (upto : Option Nat) : d.pictureDone en upto = d := by
  simp [Dev.pictureDone, h]

theorem Dev.outputResume_of_engine {d : Dev} {en : Nat} {e : Engine} (h : KV.find d.engines en = some e) :
    d.outputResume en = if e.stopped then (d.emitAll en e e.waiting).encodeEnd en else d := by
  simp only [Dev.outputResume, h]

theorem Dev.pictureDone_of_engine {d : Dev} {en : Nat} {e : Engine} {x : Flight} {q : Stream} (h : KV.find d.engines en = some e)
    (hx : KV.find d.flights e.flight = some x) (hq : KV.find d.streams e.stream = some q) (upto : Option Nat) :
    d.pictureDone en upto = if q.enc then (if e.stopped then d else (d.unitsDone en (upto.getD e.units.length)).encodeEnd en)
      else Dev.closeIfDue { d.decPicture e.flight x q with engines := KV.del (d.decPicture e.flight x q).engines en } e.stream := by
  simp only [Dev.pictureDone, h, hx, hq]

end Sys2Proof.Machine
end

section
/-! PROOFS. Pictures. -/
open Sys2Proof Sys2Proof.Machine

/-- Settles O42: a row per point of a picture's way, from its stream's list to the engine and out of it. -/
theorem picturesAreCoded : Obligations.PicturesAreCoded := by
  intro s f en x q hq
  refine ⟨fun h he => ⟨fun hn => ?_, fun hn hs => ?_⟩, fun h he hj => exec_decData h hq he hj, Dev.find_mediaReady (d := s.view) f hq,
    fun he hw hp hx hf => ⟨fun mf => ?_, fun henc hpo hj => ?_⟩, fun mf hb => ?_, fun e n g he hg => ⟨?_, fun upto => ⟨fun hw => ?_, ?_⟩⟩,
    fun he upto n => ⟨?_, ?_⟩⟩
  · rw [exec_encPicture h hq he, if_neg (Nat.not_lt.2 hn)]
  · refine ⟨_, (exec_encPicture h hq he).trans (congrArg s.gives (if_pos hn)), h.completed hs, Dev.view_finish_keeps s _ _ _ _⟩
  · exact congrArg s.gives (Dev.pictureStart_of_first (d := s.view) s.nv mf he hw hp hf hx hq)
  · obtain ⟨hfl, hen⟩ := Dev.startDecode_of_clean (d := s.view) s.nv en f x hj hpo
    refine ⟨_, congrArg s.gives ((Dev.pictureStart_of_first (d := s.view) s.nv .none he hw hp hf hx hq).trans (if_neg (by simp [henc]))),
      hen, s.view.begun x, ?_, rfl, rfl, rfl⟩
    rw [hfl]
    exact Dev.find_beginRun hx
  · exact congrArg s.gives (Dev.pictureStart_of_held (d := s.view) s.nv mf hb)
  · subst hg
    exact congrArg s.gives (Dev.outputResume_of_engine ((congrArg (KV.find · en) (Dev.grantCredit_engines _ _ _)).trans he))
  · subst hg
    exact congrArg s.gives (if_pos (by rwa [Dev.grantCredit_supply]))
  · rintro hw rfl hst hx
    subst hg
    have hd := Dev.pictureDone_of_engine (d := s.view.grantCredit en n) (by rw [Dev.grantCredit_engines]; exact he)
      (by rw [Dev.grantCredit_flights]; exact hx) (by rw [Dev.grantCredit_streams, hst]; exact hq) upto
    rw [hst] at hd
    exact congrArg s.gives ((if_neg (by rw [Dev.grantCredit_supply]; exact hw ▸ Bool.false_ne_true)).trans hd)
  · rw [exec_encOutputResume, Dev.grantCredit_of_none (d := s.view) he, Dev.outputResume_of_none (d := s.view) he]
  · rw [exec_mediaPictureDone, Dev.grantCredit_of_none (d := s.view) he, Dev.pictureDone_of_none (d := s.view) he, ite_self]

end

section
/-! SUPPORT. Commands fetched, checked, started and timed (R29 to R32, R37 to R43, R258, R297). -/
namespace Sys2Proof.Machine
open Sys2Proof

/-! ### What a command's check and its end leave of every queue's front -/

/-- The count of fetches is the same, and so is the front of every queue. -/
structure Dev.SameFronts (d t : Dev) : Prop where
  nextFlight : t.nextFlight = d.nextFlight
  front : ∀ j, (d.queue j).SameFront (t.queue j)

theorem Dev.SameFronts.refl (d : Dev) : Dev.SameFronts d d := ⟨rfl, fun _ => Queue.SameFront.refl _⟩

theorem Dev.SameFronts.trans {a b c : Dev} (h : Dev.SameFronts a b) (g : Dev.SameFronts b c) : Dev.SameFronts a c :=
  ⟨g.nextFlight.trans h.nextFlight, fun j => (h.front j).trans (g.front j)⟩

theorem Dev.SameFronts.of_queues {d t : Dev} (hn : t.nextFlight = d.nextFlight) (hq : t.queues = d.queues) : Dev.SameFronts d t :=
  ⟨hn, fun j => Dev.queue_congr hq j ▸ Queue.SameFront.refl _⟩

theorem Dev.SameWork.sameFronts {d t : Dev} (h : Dev.SameWork d t) : Dev.SameFronts d t := .of_queues h.nextFlight h.queues

theorem Dev.setQueue_sameFronts (d : Dev) (q : Nat) {x : Queue} (h : (d.queue q).SameFront x) : Dev.SameFronts d (d.setQueue q x) :=
  ⟨rfl, Dev.setQueue_sameFront d q h⟩

theorem Dev.markHeld_sameFronts (d : Dev) : Dev.SameFronts d d.markHeld := by
  refine ⟨rfl, fun j => ?_⟩
  obtain ⟨b, hb⟩ := d.markHeld_queue j
  rw [hb]
  exact ⟨rfl, rfl, rfl, rfl, rfl, rfl⟩

theorem Dev.retire_sameFronts (d : Dev) (id : Nat) (x : Flight) : Dev.SameFronts d (d.retire id x) := by
  cases ht : (d.queue x.queue).takes with
  | true =>
    rw [Dev.retire_of_takes id ht]
    exact ⟨(Dev.writeEntry_keeps _ _ _).nextFlight, Dev.writeEntry_sameFront d id _⟩
  | false =>
    rw [Dev.retire_of_full id ht]
    exact Dev.SameFronts.trans (b := (d.letGo id (d.lateFlag x)).setFlight id { d.lateFlag x with phase := .finished }) (.of_queues rfl rfl)
      (Dev.setQueue_sameFronts _ x.queue ⟨rfl, rfl, rfl, rfl, rfl, rfl⟩)

theorem Dev.finish_sameFronts (d : Dev) (id : Nat) (st : Status) (a b : Nat) : Dev.SameFronts d (d.finish id st a b) := by
  cases hx : KV.find d.flights id with
  | none => rw [Dev.finish_of_none st a b hx]; exact .refl d
  | some x =>
    by_cases hp : x.phase = .finished
    · rw [Dev.finish_of_finished st a b hx hp]; exact .refl d
    · rw [Dev.finish_of_unfinished st a b hx hp]
      exact (Dev.SameFronts.of_queues (Dev.postInternal_keeps _ _ _ _).nextFlight (Dev.postInternal_queues _ _ _ _)).trans (Dev.retire_sameFronts _ _ _)

theorem Dev.finishMem_sameFronts (d : Dev) (id a : Nat) : Dev.SameFronts d (d.finishMem id a) :=
  (Dev.failColl_sameWork d id .memUncorrectable).sameFronts.trans (Dev.finish_sameFronts _ _ _ _ _)

theorem Dev.installTable_sameFronts (d : Dev) (k : Nat) (t : LayerTable) : Dev.SameFronts d (d.installTable k t) :=
  Dev.SameFronts.trans (b := d.updPlan k (fun p => { p with table := some t, running := 0, window := [], failed := [] })) (.of_queues rfl rfl)
    (Dev.SameWork.foldl _ (fun d _ => Dev.hbmWrite_sameWork d _ _) _ _).sameFronts

/-- A run that is admitted is recorded, and its sheds are woken: no queue moves. -/
theorem Dev.planRunAdmit_sameFronts (d : Dev) (nv : NonVol) (p : Paddock) (f : Nat) (x : Flight) :
    Dev.SameFronts d (d.planRunAdmit nv p f x).1 := by
  unfold Dev.planRunAdmit
  split
  · split <;> exact .refl d
  · split
    · exact .refl d
    · next r t _ =>
      refine Dev.SameFronts.trans ?_ (Dev.wakeSheds_sameWork _ _ _).sameFronts
      cases t with
      | none => exact .of_queues rfl rfl
      | some t => exact (Dev.installTable_sameFronts d x.planKey t).trans (.of_queues rfl rfl)

theorem Dev.checkCmd_sameFronts (d : Dev) (nv : NonVol) (hay : Hay) (f : Nat) (x : Flight) : Dev.SameFronts d (d.checkCmd nv hay f x).1 := by
  unfold Dev.checkCmd
  split
  · exact .refl d
  · split
    · exact .refl d
    · dsimp only
      split
      · split
        · exact .refl d
        · exact Dev.planRunAdmit_sameFronts _ _ _ _ _
      · split
        · exact .refl d
        · split <;> exact .refl d

theorem Dev.passedChecks_sameFronts (d : Dev) (nv : NonVol) (f : Nat) (x : Flight) : Dev.SameFronts d (d.passedChecks nv f x) := by
  unfold Dev.passedChecks
  split
  · exact (Dev.wakeSheds_sameWork _ _ _).sameFronts
  · split
    · exact .of_queues rfl rfl
    · exact .refl d

theorem Dev.judge_sameFronts (d : Dev) (nv : NonVol) (hay : Hay) (f : Nat) (x : Flight) : Dev.SameFronts d (d.judge nv hay f x) := by
  refine (Dev.checkCmd_sameFronts d nv hay f x).trans ?_
  unfold Dev.judge
  dsimp only
  split
  · exact Dev.passedChecks_sameFronts _ _ _ _
  · split
    · exact Dev.finishMem_sameFronts _ _ _
    · exact Dev.finish_sameFronts _ _ _ _ _

/-! ### COMMAND_FETCH in its steps -/

/-- The command that a fetch of queue q brings into flight. -/
def Dev.fetchedCmd (d : Dev) (q : Nat) : Flight :=
  let y := Flight.fetched q (d.queue q).head (d.entryWords (d.queue q)) (BitVec.ofNat 64 (natLE (d.freeBytes 8).2)) (d.feature 0x0401)
  { y with recheck := (d.freeBytes 8).1.mapPending d.nextFlight y && !y.badOpcode, fenceBad := (d.queue q).refusedAt == some d.now }

/-- The device with that command in flight and SQ_HEAD moved on. -/
def Dev.withFetched (d : Dev) (q : Nat) : Dev :=
  { (d.freeBytes 8).1.setQueue q { d.queue q with head := ((d.queue q).head + 1) % 2 ^ (d.queue q).sqLog2,
                                                  held := (d.queue q).held && 1 < (d.queue q).unfetched } with
    flights := KV.put d.flights d.nextFlight (d.fetchedCmd q), nextFlight := d.nextFlight + 1,
    lastServed := if (d.queue q).held then q else d.lastServed, restSince := d.now }

/-- A queue notes the instant at which its command `id` was refused (R41). -/
def Dev.noteRefused (d : Dev) (q id : Nat) : Dev :=
  if (KV.find d.flights id).elim true (fun y => y.phase == .finished) then d.setQueue q { d.queue q with refusedAt := some d.now } else d

theorem Dev.fetch_eq (d : Dev) (nv : NonVol) (hay : Hay) (q : Nat) : d.fetch nv hay q =
    (if (d.fetchedCmd q).recheck then d.withFetched q
      else ((d.withFetched q).judge nv hay d.nextFlight (d.fetchedCmd q)).noteRefused q d.nextFlight).markHeld := rfl

theorem Dev.withFetched_queue (d : Dev) (q : Nat) : (d.withFetched q).queue q =
    { d.queue q with head := ((d.queue q).head + 1) % 2 ^ (d.queue q).sqLog2, held := (d.queue q).held && 1 < (d.queue q).unfetched } :=
  Dev.setQueue_queue_same _ _ _

theorem Dev.withFetched_nextFlight (d : Dev) (q : Nat) : (d.withFetched q).nextFlight = d.nextFlight + 1 := rfl

theorem Dev.find_withFetched (d : Dev) (q : Nat) : KV.find (d.withFetched q).flights d.nextFlight = some (d.fetchedCmd q) :=
  KV.find_put_same _ _ _

theorem Dev.noteRefused_sameFronts (d : Dev) (q id : Nat) : Dev.SameFronts d (d.noteRefused q id) := by
  unfold Dev.noteRefused
  split
  · exact Dev.setQueue_sameFronts d q ⟨rfl, rfl, rfl, rfl, rfl, rfl⟩
  · exact .refl d

/-- Once the command is in flight, its check moves no queue's front. -/
theorem Dev.fetch_sameFronts (d : Dev) (nv : NonVol) (hay : Hay) (q : Nat) : Dev.SameFronts (d.withFetched q) (d.fetch nv hay q) := by
  rw [Dev.fetch_eq]
  refine Dev.SameFronts.trans ?_ (Dev.markHeld_sameFronts _)
  split
  · exact .refl _
  · exact (Dev.judge_sameFronts _ _ _ _ _).trans (Dev.noteRefused_sameFronts _ _ _)

@[simp] theorem Dev.fetchedCmd_queue (d : Dev) (q : Nat) : (d.fetchedCmd q).queue = q := rfl

/-- The check of an opcode reads the entry and the queue alone. -/
theorem Flight.badOpcode_congr {x y : Flight} (hw : y.words = x.words) (hq : y.queue = x.queue) : y.badOpcode = x.badOpcode := by
  simp [Flight.badOpcode, Flight.opcode, Flight.w, hw, hq]

/-- A completion names its command by the entry and the queue alone. -/
theorem Completed.of_entry {d t : Dev} {f : Nat} {x y : Flight} {st : Status} {a b : Nat} (hw : y.words = x.words) (hq : y.queue = x.queue)
    (h : Completed d t f x st a b) : Completed d t f y st a b := by
  simpa [Completed, entryAddr, Flight.tag, Flight.w, hw, hq] using h

theorem Dev.judge_of_badOpcode {d : Dev} {x : Flight} (nv : NonVol) (hay : Hay) (f : Nat) (h : x.badOpcode = true) :
    d.judge nv hay f x = d.finish f .badOpcode 0 0 := by
  simp [Dev.judge, Dev.checkCmd, h]

/-- A completion stands when its queue then notes that the command was refused, and marks are set for held queues. -/
theorem Completed.noteRefused {d t : Dev} {f : Nat} {x : Flight} {st : Status} {a b : Nat} (h : Completed d t f x st a b) (q : Nat) :
    Completed d (t.noteRefused q f).markHeld f x st a b := by
  have hn : t.noteRefused q f = t.setQueue q { t.queue q with refusedAt := some t.now } := if_pos (by rw [h.1]; rfl)
  have hc : ((t.noteRefused q f).queue x.queue).cqTail = (t.queue x.queue).cqTail := by
    rw [hn]
    by_cases hq : x.queue = q
    · subst hq; rw [Dev.setQueue_queue_same]
    · rw [Dev.setQueue_queue_other _ _ hq]
  obtain ⟨c, hm⟩ := (t.noteRefused q f).markHeld_queue x.queue
  refine h.congr ?_ ?_ ?_
  · rw [Dev.markHeld_flights, hn]; exact h.1
  · rw [Dev.markHeld_host, hn]; rfl
  · rw [hm]; exact hc

/-- R38: an opcode that is not defined ends with ST_BAD_OPCODE at its fetch. -/
theorem Dev.fetch_of_badOpcode {d : Dev} {q : Nat} (nv : NonVol) (hay : Hay) (h : (d.fetchedCmd q).badOpcode = true)
    (hs : (d.queue q).cqSpace = true ∧ (d.queue q).waitCq = []) :
    Completed d (d.fetch nv hay q) d.nextFlight (d.fetchedCmd q) .badOpcode 0 0 := by
  have hr : (d.fetchedCmd q).recheck = false := by
    show (_ && !(d.fetchedCmd q).badOpcode) = false
    rw [h, Bool.not_true, Bool.and_false]
  have hq := d.withFetched_queue q
  have hc := Dev.finish_completed (d.withFetched q) d.nextFlight (d.fetchedCmd q) .badOpcode 0 0 (d.find_withFetched q)
    (by rintro ⟨⟩) (by rw [SlotFree, Dev.fetchedCmd_queue, hq]; exact hs)
  have hd : Completed d ((d.withFetched q).finish d.nextFlight .badOpcode 0 0) d.nextFlight (d.fetchedCmd q) .badOpcode 0 0 := by
    unfold Completed entryAddr at hc ⊢
    rw [Dev.fetchedCmd_queue] at hc ⊢
    rw [hq] at hc
    exact hc
  rw [Dev.fetch_eq, if_neg (by rw [hr]; decide), Dev.judge_of_badOpcode nv hay _ h]
  exact hd.noteRefused q

theorem Dev.commandFetch_of_barred {d : Dev} {q : Nat} (nv : NonVol) (hay : Hay) (err : Option Nat)
    (h : d.fetchable q = false ∨ (d.queue q).held = true ∧ d.turn ≠ some q) : d.commandFetch nv hay q err = d :=
  if_pos (by simpa using h)

theorem Dev.commandFetch_of_open {d : Dev} {q : Nat} (nv : NonVol) (hay : Hay) (err : Option Nat)
    (h : d.fetchable q = true) (ht : (d.queue q).held = false ∨ d.turn = some q) :
    d.commandFetch nv hay q err = match err with
      | some c => d.fetchError q c
      | none => d.fetch nv hay q := by
  refine (if_neg ?_).trans (by cases err <;> rfl)
  rcases ht with ht | ht <;> simp [h, ht]

theorem Dev.fetchError_queue (d : Dev) (q c : Nat) : (d.fetchError q c).queue q = { d.queue q with state := .stopped } :=
  (Dev.queue_congr (Dev.postP_sameWork _ _ _ _ _).queues q).trans (Dev.setQueue_queue_same _ _ _)

theorem Dev.fetchError_flights (d : Dev) (q c : Nat) : (d.fetchError q c).flights = d.flights := (Dev.postP_sameWork _ _ _ _ _).flights

/-! ### COMMAND_START -/

section
variable {d : Dev} {f : Nat} {x : Flight} (nv : NonVol) (hay : Hay)

theorem exec_commandStart (f : Nat) (s : State) : exec (.commandStart f) s = s.gives (s.view.commandStart s.nv s.hay f) := rfl

variable (h : KV.find d.flights f = some x)
include h

theorem Dev.commandStart_of_held (hb : x.phase ≠ .waiting ∨ d.fencesClear f x = false) : d.commandStart nv hay f = d := by
  simp only [Dev.commandStart, h]
  exact if_pos (hb.imp_right (by simp))

variable (hp : x.phase = .waiting) (hc : d.fencesClear f x = true)
include hp hc

theorem Dev.commandStart_of_fenceBad (ho : x.fenceOk = true) (hb : x.fenceBad = true) : d.commandStart nv hay f = d.finish f .aborted 0 0 := by
  simp [Dev.commandStart, h, hp, hc, ho, hb]

theorem Dev.commandStart_of_checked (ho : x.fenceOk = false ∨ x.fenceBad = false) (hr : x.recheck = false) :
    d.commandStart nv hay f = d.startNext nv f x := by
  have hf : (x.fenceOk && x.fenceBad) = false := Bool.and_eq_false_iff.2 ho
  simp [Dev.commandStart, h, hp, hc, hf, hr]

end

/-- The sheds that a command which starts runs on itself (R297). -/
def Dev.startSheds (d : Dev) (nv : NonVol) (x : Flight) : List Nat :=
  if x.opcode = 0x11 then d.neededSheds nv x else if x.opcode = 0x91 then (shedsOf (x.w 3)).filter nv.inService else []

theorem Dev.startNext_of_outranked {d : Dev} {nv : NonVol} {f : Nat} {x : Flight} (h : d.outranked nv f x = true) : d.startNext nv f x = d :=
  if_pos h

theorem Dev.startNext_of_noSlot {d : Dev} {f : Nat} {x : Flight} (nv : NonVol) (ho : x.opcode = 0x11) (hs : d.runSlot x = false) :
    d.startNext nv f x = d := by
  simp [Dev.startNext, ho, hs]

theorem Dev.startNext_of_first {d : Dev} {nv : NonVol} {f : Nat} {x : Flight} (h : d.outranked nv f x = false)
    (hs : x.opcode ≠ 0x11 ∨ d.runSlot x = true) : d.startNext nv f x = d.startOn f (d.startSheds nv x) := by
  unfold Dev.startNext Dev.startSheds
  rw [if_neg (by simp [h])]
  split
  · next ho => exact if_pos (hs.resolve_left (not_not_intro ho))
  · split <;> rfl

theorem Dev.startOn_of_awake {d : Dev} {ss : List Nat} (f : Nat) (h : ∀ k ∈ ss, (d.shed k).power = .run) : d.startOn f ss = d.beginRun f :=
  if_pos (by simpa using h)

theorem Dev.startOn_of_asleep {d : Dev} {ss : List Nat} (f : Nat) (h : ∃ k ∈ ss, (d.shed k).power ≠ .run) :
    d.startOn f ss = d.wakeSheds ss .run :=
  if_neg (by simpa using h)

theorem Dev.find_beginRun_other (d : Dev) {f g : Nat} (h : g ≠ f) : KV.find (d.beginRun f).flights g = KV.find d.flights g :=
  KV.find_upd_other _ _ h

/-! ### COMMAND_TIMEOUT -/

theorem exec_commandTimeout {s : State} {f dt : Nat} {x : Flight} (h : KV.find (s.view.advance dt).flights f = some x) :
    exec (.commandTimeout f dt) s = s.gives (if (s.view.advance dt).expired f x && !(s.view.advance dt).linkFirst s f then
      ((s.view.advance dt).timeoutStream x).failFlight f .timeout else s.view.advance dt) := by
  show s.gives (match KV.find (s.view.advance dt).flights f with
    | none => s.view.advance dt
    | some x => if (s.view.advance dt).expired f x && !(s.view.advance dt).linkFirst s f then
        ((s.view.advance dt).timeoutStream x).failFlight f .timeout else s.view.advance dt) = _
  rw [h]

theorem Dev.timeoutStream_eq (d : Dev) (x : Flight) : ∃ qs, d.timeoutStream x = { d with streams := qs } := by
  unfold Dev.timeoutStream
  split
  · exact ⟨_, rfl⟩
  · exact ⟨_, rfl⟩

theorem Dev.expired_started {d : Dev} {f : Nat} {x : Flight} (h : d.expired f x = true) : x.phase = .running ∨ x.phase = .moving := by
  simp only [Dev.expired, Bool.and_eq_true, Bool.or_eq_true, beq_iff_eq] at h
  exact h.1.1.1.1

/-- R262: a command that has started and is no collective's member ends with what it has reached. -/
theorem Dev.failFlight_of_started {d : Dev} {f : Nat} {x : Flight} (st : Status) (h : KV.find d.flights f = some x)
    (hp : x.phase = .running ∨ x.phase = .moving) (hc : KV.find d.colls f = none) :
    d.failFlight f st = d.finish f st (d.reached f).1 (d.reached f).2 := by
  simp only [Dev.failFlight, h, hp, if_true, Dev.failColl_of_none st hc]

/-- R43: an expired command that is no collective's member ends with ST_TIMEOUT and what it has reached. -/
theorem Dev.expiry_completed {d : Dev} {f : Nat} {x : Flight} (h : KV.find d.flights f = some x) (he : d.expired f x = true)
    (hc : KV.find d.colls f = none) (hs : SlotFree d x) :
    ∃ a b, Completed d ((d.timeoutStream x).failFlight f .timeout) f x .timeout a b := by
  have hp := Dev.expired_started he
  have hn : x.phase ≠ .finished := by rcases hp with hp | hp <;> rw [hp] <;> decide
  obtain ⟨qs, hq⟩ := d.timeoutStream_eq x
  rw [hq, Dev.failFlight_of_started (d := { d with streams := qs }) .timeout h hp hc]
  exact ⟨_, _, Dev.finish_completed { d with streams := qs } f x .timeout _ _ h hn hs⟩

end Sys2Proof.Machine
end

section
/-! PROOFS. Commands from their fetch to their end. -/
open Sys2Proof Sys2Proof.Machine

/-- Settles O54: a fetch moves its queue's front once and the check moves none; a start is decided by what it waits for, and
an expiry by the link rows of its tick. -/
theorem commandsAreFetchedStartedAndTimed : Obligations.CommandsAreFetchedStartedAndTimed := by
  intro s q f dt x y hy
  subst hy
  refine ⟨fun fn v stores hu ha hs hb => ?_, fun h err => ?_, fun h ht err => ?_, fun h ht => ⟨fun c => ?_, ?_, fun z g v hz ho hs => ?_⟩,
    fun hx => ⟨fun hb => ?_, fun hp hc => ⟨fun ho hb hs => ?_, fun ho hr => ⟨fun hk => ?_, fun ss hss hk hslot => ⟨fun hw => ?_, fun hw => ?_⟩,
      fun hk hop hslot => ?_⟩⟩⟩,
    fun d z hd hz => ?_⟩
  · exact ⟨_, (exec_sqDbWrite s fn q v stores).trans (congrArg _ (Dev.sqDoorbell_of_good (d := s.stored stores) hu ha hs hb)), rfl⟩
  · exact congrArg s.gives (Dev.commandFetch_of_barred (d := s.view) s.nv s.hay err (.inl h))
  · exact congrArg s.gives (Dev.commandFetch_of_barred (d := s.view) s.nv s.hay err (.inr ⟨h, ht⟩))
  · exact ⟨_, congrArg s.gives (Dev.commandFetch_of_open (d := s.view) s.nv s.hay (some c) h ht), Dev.fetchError_queue _ _ _,
      Dev.fetchError_flights _ _ _⟩
  · have hf := s.view.fetch_sameFronts s.nv s.hay q
    exact ⟨_, congrArg s.gives (Dev.commandFetch_of_open (d := s.view) s.nv s.hay none h ht), hf.nextFlight.trans (s.view.withFetched_nextFlight q),
      (hf.front q).head.trans (congrArg Queue.head (s.view.withFetched_queue q) :)⟩
  · have hw : z.words = (s.view.fetchedCmd q).words := by rw [hz]; rfl
    have hq : z.queue = (s.view.fetchedCmd q).queue := by rw [hz]; rfl
    rw [Flight.badOpcode_congr hw hq] at ho
    rw [SlotFree, hq] at hs
    exact ⟨_, congrArg s.gives (Dev.commandFetch_of_open (d := s.view) s.nv s.hay none h ht),
      (Dev.fetch_of_badOpcode (d := s.view) s.nv s.hay ho hs).of_entry hw hq⟩
  · exact congrArg s.gives (Dev.commandStart_of_held (d := s.view) s.nv s.hay hx hb)
  · exact ⟨_, congrArg s.gives (Dev.commandStart_of_fenceBad (d := s.view) s.nv s.hay hx hp hc ho hb),
      Dev.finish_completed s.view f x .aborted 0 0 hx (by rw [hp]; decide) hs, Dev.view_finish_keeps s _ _ _ _⟩
  · rw [exec_commandStart, Dev.commandStart_of_checked (d := s.view) s.nv s.hay hx hp hc ho hr, Dev.startNext_of_outranked hk]
  · subst hss
    refine ⟨_, s.view.begun x, ?_, Dev.find_beginRun (d := s.view) hx, rfl, rfl, rfl, rfl, fun g hg => s.view.find_beginRun_other hg⟩
    rw [exec_commandStart, Dev.commandStart_of_checked (d := s.view) s.nv s.hay hx hp hc ho hr, Dev.startNext_of_first hk hslot]
    exact congrArg s.gives (Dev.startOn_of_awake f hw)
  · subst hss
    rw [exec_commandStart, Dev.commandStart_of_checked (d := s.view) s.nv s.hay hx hp hc ho hr, Dev.startNext_of_first hk hslot]
    exact congrArg s.gives (Dev.startOn_of_asleep f hw)
  · rw [exec_commandStart, Dev.commandStart_of_checked (d := s.view) s.nv s.hay hx hp hc ho hr, Dev.startNext_of_noSlot s.nv hop hslot]
  · subst hd
    have he := exec_commandTimeout hz
    have hend (h : (s.view.advance dt).expired f z = true) (hl : (s.view.advance dt).linkFirst s f = false) :=
      he.trans (congrArg s.gives (if_pos (by rw [h, hl]; rfl)))
    refine ⟨fun h => he.trans (congrArg s.gives (if_neg ?_)), hend, fun h hl hs hc => ?_⟩
    · rcases h with h | h <;> simp [h]
    · obtain ⟨a, b, ht⟩ := Dev.expiry_completed hz h hc hs
      exact ⟨_, a, b, hend h hl, ht⟩

end

section
/-! SUPPORT. Mailboxes: their words, wakes and releases (R52 to R54, R56). -/
namespace Sys2Proof.Machine
open Sys2Proof

@[simp] theorem State.view_mbox (s : State) (mb : Mbox) : s.view.mbox mb = s.dev.mbox mb := by cases mb <;> rfl
@[simp] theorem State.view_asleep (s : State) (far : Bool) (mb : Mbox) : s.view.asleep far mb = s.dev.asleep far mb := by cases mb <;> rfl
@[simp] theorem State.view_shed (s : State) (k : Nat) : s.view.shed k = s.dev.shed k := rfl

@[simp] theorem Dev.setShed_shed_same (d : Dev) (k : Nat) (x : Shed) : (d.setShed k x).shed k = x := KV.getD_put_same _ _ _ _

/-! ### The record of a mailbox -/

@[simp] theorem Dev.setMbox_mbox_same (d : Dev) (mb : Mbox) (x : MboxSt) : (d.setMbox mb x).mbox mb = x := by
  cases mb with
  | host n m => simp [Dev.setMbox, Dev.mbox]
  | shed k => simp [Dev.setMbox, Dev.mbox]
  | peer v m => simp [Dev.setMbox, Dev.mbox, KV.find_put_same]
  | remote m => simp [Dev.setMbox, Dev.mbox, KV.find_put_same]

/-- What a mailbox holds does not decide whether its receiver sleeps. -/
@[simp] theorem Dev.setMbox_asleep (d : Dev) (far : Bool) (mb : Mbox) (x : MboxSt) :
    (d.setMbox mb x).asleep far mb = d.asleep far mb := by
  cases mb with
  | shed k => simp [Dev.setMbox, Dev.asleep]
  | host n m => rfl
  | peer v m => rfl
  | remote m => rfl

@[simp] theorem Dev.setMbox_out (d : Dev) (mb : Mbox) (x : MboxSt) : (d.setMbox mb x).out = d.out := by cases mb <;> rfl

@[simp] theorem Dev.setMbox_shed_same (d : Dev) (k : Nat) (x : MboxSt) : (d.setMbox (.shed k) x).shed k = { d.shed k with mbox := x } :=
  Dev.setShed_shed_same _ _ _

/-- What a row shows outside is no part of a mailbox. -/
theorem Dev.withOut_mbox (d : Dev) (o : Out) (mb : Mbox) : Dev.mbox { d with out := o } mb = d.mbox mb := by cases mb <;> rfl

/-- A host mailbox is read from its function alone. -/
theorem Dev.mbox_host_congr {d e : Dev} {n m : Nat} (h : e.fn n = d.fn n) : e.mbox (.host n m) = d.mbox (.host n m) := by
  simp [Dev.mbox, h]

/-- R61: an interrupt may mark its vector pending, and leaves the mailboxes of every function. -/
@[simp] theorem Dev.raise_mbox_host (d : Dev) (k v n m : Nat) : (d.raise k v).mbox (.host n m) = d.mbox (.host n m) := by
  unfold Dev.raise
  split
  · rfl
  · dsimp only
    split
    · by_cases hn : n = k
      · subst hn
        simp [Dev.mbox]
      · exact Dev.mbox_host_congr (KV.getD_put_other _ _ _ hn)
    · rfl

@[simp] theorem Dev.raise_value (d : Dev) (k v : Nat) : (d.raise k v).out.value = d.out.value := by
  unfold Dev.raise
  split
  · rfl
  · dsimp only
    split <;> rfl

@[simp] theorem Dev.startReturn_mbox_host (d : Dev) (n m : Nat) : d.startReturn.mbox (.host n m) = d.mbox (.host n m) := by
  unfold Dev.startReturn
  split <;> rfl

@[simp] theorem Dev.startReturn_out (d : Dev) : d.startReturn.out = d.out := by
  unfold Dev.startReturn
  split <;> rfl

@[simp] theorem Dev.wakeShed_mbox (d : Dev) (k : Nat) (lvl : ShedPower) : (d.wakeShed k lvl).mbox (.shed k) = d.mbox (.shed k) := by
  simp only [Dev.wakeShed, Dev.mbox, Dev.setShed_shed_same, Shed.wake]
  split <;> rfl

/-! ### Wakes (R56) -/

theorem Dev.wakeFor_of_awake {d : Dev} {far : Bool} {mb : Mbox} (h : d.asleep far mb = false) : d.wakeFor far mb = d := by
  simp [Dev.wakeFor, h]

/-- A write sets WAKE_PENDING where the receiver sleeps, and nothing else of the mailbox changes. -/
@[simp] theorem Dev.wakeFor_mbox (d : Dev) (far : Bool) (mb : Mbox) :
    (d.wakeFor far mb).mbox mb = { d.mbox mb with wake := (d.mbox mb).wake || d.asleep far mb } := by
  cases hs : d.asleep far mb with
  | false => simp [Dev.wakeFor_of_awake hs]
  | true =>
    cases mb with
    | host n m =>
      simp only [Dev.wakeFor, hs, Bool.not_true, Bool.false_eq_true, if_false, Bool.or_true]
      split
      · rw [Dev.startReturn_mbox_host, Dev.setMbox_mbox_same]
      · rw [Dev.withOut_mbox, Dev.setMbox_mbox_same]
    | shed k =>
      simp only [Dev.wakeFor, hs, Bool.not_true, Bool.false_eq_true, if_false, Bool.or_true]
      split
      · rw [Dev.wakeShed_mbox, Dev.setMbox_mbox_same]
      · exact Dev.setMbox_mbox_same _ _ _
    | peer v m => simp [Dev.wakeFor, hs]
    | remote m => simp [Dev.wakeFor, hs]

/-- WAKE# wakes a host that sleeps: the receiver of mailboxes 4 to 7. -/
theorem Dev.wakeFor_wakePin_of_asleep {d : Dev} {far : Bool} {n m : Nat} (h : d.asleep far (.host n m) = true) (hm : 4 ≤ m) :
    (d.wakeFor far (.host n m)).out.wakePin = true := by
  simp [Dev.wakeFor, h, Nat.not_lt.2 hm]

theorem Dev.mboxAwake_host {d : Dev} {n m : Nat} (hw : (d.mbox (.host n m)).wake = true) (hr : 4 ≤ m ∨ d.devPower ≠ .standby) :
    d.mboxAwake (.host n m) = d.setMbox (.host n m) { d.mbox (.host n m) with wake := false } := by
  simp [Dev.mboxAwake, hw, hr]

theorem Dev.mboxAwake_shed {d : Dev} {k : Nat} (hw : (d.mbox (.shed k)).wake = true) (hr : (d.shed k).power = .run)
    (hf : (d.shed k).fwSends = true) : d.mboxAwake (.shed k) = d.setMbox (.shed k) { d.mbox (.shed k) with wake := false } := by
  simp [Dev.mboxAwake, hw, hr, hf]

/-! ### The sender's writes (R52) -/

section
variable {d : Dev} {mb : Mbox} (far : Bool)

theorem Dev.mboxWrite_of_open {i : Nat} (v : Word) (hs : Mbox.sends mb = true) (hr : d.boot.reset = none) (hi : i < 12)
    (hf : (d.mbox mb).full = false) (ha : (d.mbox mb).aborted = false) :
    d.mboxWrite mb i v far = (d.setMbox mb { d.mbox mb with data := (d.mbox mb).data.set i v }).wakeFor far mb := by
  simp [Dev.mboxWrite, hs, hr, hf, ha, Nat.not_le.2 hi]

theorem Dev.mboxWrite_of_closed (i : Nat) (v : Word) (h : (d.mbox mb).full = true ∨ (d.mbox mb).aborted = true) :
    d.mboxWrite mb i v far = d :=
  if_pos (by rcases h with h | h <;> simp [h])

theorem Dev.mboxGo_of_closed (h : (d.mbox mb).full = true ∨ (d.mbox mb).aborted = true) : d.mboxGo mb far = d :=
  if_pos (by rcases h with h | h <;> simp [h])

end

/-- GO on a host mailbox sets FULL and wakes; what follows, an interrupt or the return from STANDBY, leaves the mailbox. -/
theorem Dev.mboxGo_host_mbox {d : Dev} {n m : Nat} (far : Bool) (hf : (d.mbox (.host n m)).full = false)
    (ha : (d.mbox (.host n m)).aborted = false) : (d.mboxGo (.host n m) far).mbox (.host n m) =
      { d.mbox (.host n m) with full := true, wake := (d.mbox (.host n m)).wake || d.asleep far (.host n m) } := by
  have hs : Mbox.sends (.host n m) = true := rfl
  simp only [Dev.mboxGo, hf, ha, hs, Bool.not_true, Bool.or_self, Bool.false_eq_true, if_false]
  split <;> simp

/-! ### Releases (R53, R54) -/

section
variable {d : Dev} {n m k : Nat}

/-- The receiver's read of RXCTL answers the control word as it stood and clears FULL. -/
theorem Dev.mboxRelease_host (h : (d.mbox (.host n m)).full = true) :
    (d.mboxRelease (.host n m)).out.value = (d.mbox (.host n m)).rxctl ∧
      (d.mboxRelease (.host n m)).mbox (.host n m) = { d.mbox (.host n m) with full := false } := by
  simp only [Dev.mboxRelease, h, Bool.not_true, Bool.false_eq_true, if_false]
  split <;> simp

theorem Dev.mboxRelease_shed (h : (d.mbox (.shed k)).full = true) : (d.mboxRelease (.shed k)).shed k =
    { d.shed k with mbox := { (d.shed k).mbox with full := false }, fwSends := !(d.shed k).fwSends } := by
  simp only [Dev.mboxRelease, h, Bool.not_true, Bool.false_eq_true, if_false, Dev.setShed_shed_same, Dev.setMbox_shed_same]
  rfl

/-! ### Messages through a shed's mailbox (R54) -/

/-- The words of a message, before those that the mailbox held at the places the message does not reach. -/
def MboxSt.laid (x : MboxSt) (ws : List Word) : List Word := (ws ++ x.data.drop ws.length).take 12

theorem MboxSt.take_laid (x : MboxSt) {ws : List Word} (h : ws.length ≤ 12) : (x.laid ws).take ws.length = ws := by
  simp [MboxSt.laid, List.take_take, Nat.min_eq_left h]

variable (ws : List Word)

theorem Dev.shedMessage_of_turn (hf : (d.shed k).mbox.full = false) (ha : (d.shed k).mbox.aborted = false) :
    d.shedMessage k (d.shed k).fwSends ws =
      (d.setMbox (.shed k) { (d.shed k).mbox with data := (d.shed k).mbox.laid ws, full := true }).wakeFor false (.shed k) := by
  simp [Dev.shedMessage, hf, ha, MboxSt.laid]

theorem Dev.shedMessage_of_other (d : Dev) (k : Nat) : d.shedMessage k (!(d.shed k).fwSends) ws = d :=
  if_pos (by simp)

theorem Dev.shedMessage_of_full (fw : Bool) (hf : (d.shed k).mbox.full = true) : d.shedMessage k fw ws = d :=
  if_pos (by simp [hf])

end

theorem exec_mboxDataWrite (s : State) (mb : Mbox) (i : Nat) (v : Word) (far : Bool) :
    exec (.mboxDataWrite mb i v far) s = s.gives (s.view.mboxWrite mb i v far) := rfl
theorem exec_mboxGo (s : State) (mb : Mbox) (far : Bool) : exec (.mboxGo mb far) s = s.gives (s.view.mboxGo mb far) := rfl
theorem exec_mboxRelease (s : State) (mb : Mbox) : exec (.mboxRelease mb) s = s.gives (s.view.mboxRelease mb) := rfl
theorem exec_mboxWakeDone (s : State) (mb : Mbox) : exec (.mboxWakeDone mb) s = s.gives (s.view.mboxAwake mb) := rfl
theorem exec_mboxAbortedClear (s : State) (mb : Mbox) (v : Word) : exec (.mboxAbortedClear mb v) s =
    s.gives (if bitOf v.toNat 2 && Mbox.sends mb then s.view.setMbox mb { s.view.mbox mb with aborted := false } else s.view) := rfl
theorem exec_shedMboxMessage (s : State) (k : Nat) (fw : Bool) (ws : List Word) :
    exec (.shedMboxMessage k fw ws) s = s.gives (s.view.shedMessage k fw ws) := rfl

end Sys2Proof.Machine
end

section
/-! PROOFS. Mailboxes. -/
open Sys2Proof Sys2Proof.Machine

/-- Settles O24: a taken write or GO is the mailbox's new record and then the wake, which adds WAKE_PENDING as the receiver sleeps. -/
theorem hostMailboxPassesAMessage : Obligations.HostMailboxPassesAMessage := by
  intro s n m i v far x hx
  subst hx
  refine ⟨fun hr hi hf ha => ?_, fun h => ?_, fun hf => ?_, fun hv => ?_, fun hv => ?_, fun hw hr => ?_⟩
  · have hwrite := (exec_mboxDataWrite s (.host n m) i v far).trans
      (congrArg _ (Dev.mboxWrite_of_open (d := s.view) far v rfl hr hi (by simpa using hf) (by simpa using ha)))
    have hgo := Dev.mboxGo_host_mbox (d := s.view) far (by simpa using hf) (by simpa using ha)
    refine ⟨fun hs => ⟨⟨_, hwrite, ?_, ?_⟩, _, exec_mboxGo _ _ _, ?_⟩,
      fun hs => ⟨⟨_, hwrite, ?_, fun hm => ?_⟩, _, exec_mboxGo _ _ _, ?_⟩⟩
    · simp [hs]
    · rw [Dev.wakeFor_of_awake (by simpa using hs)]
      simp [Out.blank]
    · simpa [hs] using hgo
    · simp [hs]
    · exact Dev.wakeFor_wakePin_of_asleep (by simpa using hs) hm
    · simpa [hs] using hgo
  · have hc : (s.view.mbox (.host n m)).full = true ∨ (s.view.mbox (.host n m)).aborted = true := by simpa using h
    exact ⟨congrArg s.gives (Dev.mboxWrite_of_closed far i v hc), congrArg s.gives (Dev.mboxGo_of_closed far hc)⟩
  · obtain ⟨hval, hm⟩ := Dev.mboxRelease_host (d := s.view) (by simpa using hf)
    exact ⟨_, exec_mboxRelease _ _, hval, hm⟩
  · exact ⟨_, (exec_mboxAbortedClear _ _ _).trans (congrArg _ (if_pos (by rw [hv]; rfl))), Dev.setMbox_mbox_same _ _ _⟩
  · rw [exec_mboxAbortedClear, if_neg (by simp [hv])]
  · exact ⟨_, (exec_mboxWakeDone _ _).trans (congrArg _ (Dev.mboxAwake_host (d := s.view) (by simpa using hw) hr)), Dev.setMbox_mbox_same _ _ _⟩

/-- Settles O25: the message of the end whose turn it is becomes the mailbox's record and wakes a shed that sleeps; any other
message meets the guard, and the release hands the turn over. -/
theorem shedMailboxAlternates : Obligations.ShedMailboxAlternates := by
  intro s k ws hl
  refine ⟨fun hf ha => ⟨fun hp hd => ?_, fun hp hw => ?_⟩, ?_, fun hf => ?_, fun hf => ?_, fun hw hp hs => ?_⟩
  · have hs : s.dev.asleep false (.shed k) = false := by simp [Dev.asleep, hp, hd]
    have he := congrArg s.gives ((Dev.shedMessage_of_turn (d := s.view) ws hf ha).trans (Dev.wakeFor_of_awake (by simpa using hs)))
    rw [State.view_shed] at he
    refine ⟨_, he, ?_⟩
    rw [Dev.setMbox_shed_same]
    exact ⟨rfl, rfl, rfl, MboxSt.take_laid _ hl⟩
  · have hs : s.dev.asleep false (.shed k) = true := by simp [Dev.asleep, hp, hw]
    have he := congrArg s.gives (Dev.shedMessage_of_turn (d := s.view) ws hf ha)
    have hm := Dev.wakeFor_mbox
      (s.view.setMbox (.shed k) { (s.dev.shed k).mbox with data := (s.dev.shed k).mbox.laid ws, full := true }) false (.shed k)
    simp only [Dev.setMbox_mbox_same, Dev.setMbox_asleep, State.view_asleep, hs, Bool.or_true] at hm
    rw [State.view_shed, hw] at he
    exact ⟨_, he, congrArg MboxSt.full hm, congrArg MboxSt.wake hm⟩
  · exact congrArg s.gives (Dev.shedMessage_of_other ws s.view k)
  · exact congrArg s.gives (Dev.shedMessage_of_full (d := s.view) ws _ hf)
  · have hr := Dev.mboxRelease_shed (d := s.view) (k := k) hf
    exact ⟨_, exec_mboxRelease _ _, by rw [hr], by rw [hr]; rfl⟩
  · refine ⟨_, (exec_mboxWakeDone _ _).trans (congrArg _ (Dev.mboxAwake_shed (d := s.view) hw hp hs)), ?_⟩
    rw [Dev.setMbox_shed_same]

end

section
/-! SUPPORT. What runs out with time: slot requests and results, refused packets, remote messages (R55, R160, R262, R272). -/
namespace Sys2Proof.Machine
open Sys2Proof

/-- A row that measures an instant once more time has passed acts when the limit is reached, and before only lets time pass. -/
theorem gives_due {s : State} {c : Instr} {dt since ns : Nat} {d e : Dev}
    (h : exec c s = s.gives (if (s.view.advance dt).elapsed since ns then d else e)) :
    (since + ns ≤ s.dev.now + dt → exec c s = s.gives d) ∧ (s.dev.now + dt < since + ns → exec c s = s.gives e) :=
  ⟨fun hb => h.trans (congrArg _ (if_pos (decide_eq_true hb))),
   fun hb => h.trans (congrArg _ (if_neg (by rw [Dev.elapsed, decide_eq_true_eq]; exact Nat.not_le.2 hb)))⟩

/-! ### Switch slots (R272) -/

theorem exec_slotReplyTimeout {s : State} {f since : Nat} {c : Coll} (dt : Nat) (hc : KV.find s.dev.colls f = some c)
    (ha : c.slotAskedAt = some since) : exec (.slotReplyTimeout f dt) s = s.gives (if (s.view.advance dt).elapsed since 20000 then
      ((s.view.advance dt).collSlotAnswer f 0).collProgress f else s.view.advance dt) := by
  have hv : KV.find (s.view.advance dt).colls f = some c := hc
  show execSlotReplyTimeout f dt s = _
  simp only [execSlotReplyTimeout, onDev_gives, hv, ha]

theorem exec_slotResultGapTimeout {s : State} {f since : Nat} {c : Coll} {g : Group} (dt : Nat) (hc : KV.find s.dev.colls f = some c)
    (hg : KV.find s.dev.groups c.group = some g) (hl : c.slotLast = some since) (ho : c.onSlot = true) (hn : c.complete g = false) :
    exec (.slotResultGapTimeout f dt) s = s.gives (if (s.view.advance dt).elapsed since 100000 then
      ((s.view.advance dt).switchSend g c phSlotAbort 0 []).slotFall f else s.view.advance dt) := by
  have hv : KV.find (s.view.advance dt).colls f = some c := hc
  have hw : KV.find (s.view.advance dt).groups c.group = some g := hg
  show execSlotResultGapTimeout f dt s = _
  simp only [execSlotResultGapTimeout, onDev_gives, Dev.withColl, hv, hw, hl, ho, hn, Bool.not_false, Bool.true_and]

/-! ### Refused packets (R160, R262) -/

/-- The two rows that send a refused packet again are one, but for the kind they look for. -/
theorem exec_resendRow {s : State} {k dst seq dt : Nat} {c : Instr} {x : Sent}
    (h : (k = kPage ∧ c = .pageResend dst seq dt) ∨ (k = kCollective ∧ c = .collResend dst seq dt))
    (hx : s.dev.sent.find? (fun x => x.pkt.kind == k && x.pkt.dst == dst && x.pkt.seq == seq && x.busy) = some x) :
    exec c s = s.gives (if (s.view.advance dt).elapsed x.at' 2000 then (s.view.advance dt).resend x else s.view.advance dt) := by
  have hv : (s.view.advance dt).sent.find? (fun x => x.pkt.kind == k && x.pkt.dst == dst && x.pkt.seq == seq && x.busy) = some x := hx
  have he : exec c s = s.gives ((s.view.advance dt).resendOf k dst seq) := by
    rcases h with ⟨rfl, rfl⟩ | ⟨rfl, rfl⟩ <;> rfl
  simp only [he, Dev.resendOf, hv]

/-! ### Remote messages (R55) -/

section
variable {s : State} {v m : Nat} {t : TxMbox} (dt : Nat) (ht : KV.find s.dev.txMbox (v * 8 + m) = some t) (hf : t.mbox.full = true)
include ht hf

theorem exec_mboxRemoteResend {r : Nat} (hr : t.refusedAt = some r) :
    exec (.mboxRemoteResend v m dt) s = s.gives (if (s.view.advance dt).elapsed r 10000 then
      Dev.sendMbox (Dev.updTx { s.view.advance dt with sent := (s.view.advance dt).sent.filter (fun x => !isMboxPkt v m x.pkt) } (v * 8 + m)
        (fun t => { t with refusedAt := none })) v m
      else s.view.advance dt) := by
  have hv : KV.find (s.view.advance dt).txMbox (v * 8 + m) = some t := ht
  show execMboxRemoteResend v m dt s = _
  simp only [execMboxRemoteResend, onDev_gives, hv, hr, hf, Bool.true_and]

theorem exec_mboxRemoteTimeout (hd : t.delivered = none) :
    exec (.mboxRemoteTimeout v m dt) s = s.gives (if (s.view.advance dt).elapsed t.goAt 1000000 then
      (s.view.advance dt).abortTx (v * 8 + m) else s.view.advance dt) := by
  have hv : KV.find (s.view.advance dt).txMbox (v * 8 + m) = some t := ht
  show execMboxRemoteTimeout v m dt s = _
  simp only [execMboxRemoteTimeout, onDev_gives, hv, hf, hd, Option.isNone_none, Bool.true_and]

end

end Sys2Proof.Machine
end

section
/-! PROOFS. What runs out with time. -/
open Sys2Proof Sys2Proof.Machine

/-- Settles O37: each row compares the time that has passed with its own limit. -/
theorem refusalsAndSilencesRunOut : Obligations.RefusalsAndSilencesRunOut := by
  refine ⟨fun s f dt since c hc => ⟨fun ha => ?_, fun g hg hl ho hn => ?_⟩,
    fun s dst seq dt x k c hk => ⟨fun hx => ?_, fun v m t ht hf => ⟨fun r hr => ?_, fun hd => ?_⟩⟩⟩
  · exact gives_due (exec_slotReplyTimeout dt hc ha)
  · exact gives_due (exec_slotResultGapTimeout dt hc hg hl ho hn)
  · exact gives_due (exec_resendRow hk hx)
  · exact gives_due (exec_mboxRemoteResend dt ht hf hr)
  · exact gives_due (exec_mboxRemoteTimeout dt ht hf hd)

end

section
/-! SUPPORT. Furrow packets that pass the checks: what is noted, what an answer leaves, what each kind takes (R55, R246, R247). -/
namespace Sys2Proof.Machine
open Sys2Proof

/-! ### A packet that passes (R247, R248) -/

/-- Noting a packet's number and ending REST touch the numbers received, the ports and the power state alone. -/
theorem Dev.noted_eq (d : Dev) (p : Nat) (pkt : Pkt) : ∃ pw since ns ps,
    d.noted p pkt = { d with devPower := pw, restSince := since, recvSeq := ns, ports := ps } := by
  unfold Dev.noted Dev.noteSeq
  split <;> exact ⟨_, _, _, _, rfl⟩

@[simp] theorem Dev.noted_hbm (d : Dev) (p : Nat) (pkt : Pkt) : (d.noted p pkt).hbm = d.hbm := by
  obtain ⟨_, _, _, _, h⟩ := d.noted_eq p pkt
  rw [h]

@[simp] theorem Dev.noted_flights (d : Dev) (p : Nat) (pkt : Pkt) : (d.noted p pkt).flights = d.flights := by
  obtain ⟨_, _, _, _, h⟩ := d.noted_eq p pkt
  rw [h]

@[simp] theorem Dev.noted_rxMbox (d : Dev) (p : Nat) (pkt : Pkt) : (d.noted p pkt).rxMbox = d.rxMbox := by
  obtain ⟨_, _, _, _, h⟩ := d.noted_eq p pkt
  rw [h]

/-- A row hands on a packet of its kind that passes the five checks. -/
theorem Dev.onPacket_of_passes {d : Dev} {p : Nat} {pkt : Pkt} {kind : Nat} (h : d.passes p pkt) (hk : pkt.kind = kind) (g : Dev → Dev) :
    d.onPacket p pkt kind g = g (d.noted p pkt) := by
  obtain ⟨⟨hp, hup⟩, hcrc, haddr, hvc, hin, hmap⟩ := h
  have hport : ((d.port p).state == .up || (d.port p).state == .fenced) = true := by simpa using hup
  simp only [Dev.noted] at hvc hin hmap ⊢
  simp [Dev.onPacket, Nat.not_le.2 hp, hport, hk, hcrc, haddr, hvc, hin, hmap]

theorem passes_gives {s : State} {p : Nat} {pkt : Pkt} {kind : Nat} (h : s.view.passes p pkt) (hk : pkt.kind = kind) (g : Dev → Dev) :
    onDev s (fun d => d.onPacket p pkt kind g) = s.gives (g (s.view.noted p pkt)) := by
  rw [onDev_gives, Dev.onPacket_of_passes h hk]

/-! ### Answers -/

theorem Dev.launch_hbm (d : Dev) (port : Nat) (q : Queued) : (d.launch port q).hbm = d.hbm := by
  unfold Dev.launch Dev.noteMailPort
  split
  · split <;> rfl
  · rfl
  · rfl

theorem Dev.dispatch_hbm (d : Dev) (q : Queued) : (d.dispatch q).1.hbm = d.hbm := by
  unfold Dev.dispatch
  split
  · rfl
  · rfl
  · split
    · rfl
    · split
      · rfl
      · exact Dev.launch_hbm _ _ _

/-- An answer, sent or waiting, leaves HBM. -/
@[simp] theorem Dev.respond_hbm (d : Dev) (p : Nat) (pkt : Pkt) (code : Nat) : (d.respond p pkt code).hbm = d.hbm := by
  unfold Dev.respond
  dsimp only
  split
  · split
    · rfl
    · exact Dev.dispatch_hbm _ _
  · split
    · rfl
    · exact Dev.dispatch_hbm _ _

/-! ### What each kind takes -/

/-- The request, among the packets sent and not answered, whose data a READ_DATA packet carries. -/
def requestOf (pkt : Pkt) (z : Sent) : Bool :=
  z.pkt.kind == kReadReq && z.pkt.dst == pkt.src && z.pkt.vc == pkt.vc && z.pkt.tag == pkt.tag && z.pkt.offset == pkt.offset

/-- What `readDataPacket` does with a packet that passes (`exec_readDataPacket`): its request is answered, and the command
that made the request takes the piece. -/
def Dev.takeData (d : Dev) (pkt : Pkt) : Dev :=
  match d.sent.find? (requestOf pkt) with
  | none => d
  | some y =>
    let e := { d with sent := d.sent.filter (fun z => !requestOf pkt z) }
    match y.flight with
    | none => e
    | some id => match KV.find d.flights id with
      | none => e
      | some x => e.copyPiece id x (pkt.offset - x.d 2) pkt.payload

section
variable {d : Dev} {p : Nat} {pkt : Pkt}

theorem Dev.takeData_of_request {y : Sent} {id : Nat} {x : Flight} (hy : d.sent.find? (requestOf pkt) = some y)
    (hf : y.flight = some id) (hx : KV.find d.flights id = some x) : d.takeData pkt = Dev.copyPiece
      { d with sent := d.sent.filter (fun z => !requestOf pkt z) } id x (pkt.offset - x.d 2) pkt.payload := by
  simp only [Dev.takeData, hy, hf, hx]

theorem Dev.takePagePacket_of_none (h : d.pageTaker pkt = none) : d.takePagePacket p pkt = d.respond p pkt 1 := by
  simp [Dev.takePagePacket, h]

theorem Dev.takeMailbox_of_full (h : (KV.getD d.rxMbox (pkt.desc % 8) RxMbox.blank).mbox.full = true) :
    d.takeMailbox p pkt = d.respond p pkt 1 :=
  if_pos h

/-- A remote mailbox that is not FULL holds the message: the wake that follows leaves FULL set. -/
theorem Dev.takeMailbox_of_free (h : (KV.getD d.rxMbox (pkt.desc % 8) RxMbox.blank).mbox.full = false) :
    ∃ t : Dev, d.takeMailbox p pkt = t.respond p pkt 0 ∧ (t.mbox (.remote (pkt.desc % 8))).full = true := by
  refine ⟨_, if_neg (by simp [h]), ?_⟩
  rw [Dev.wakeFor_mbox]
  simp [Dev.mbox, KV.find_put_same]

/-- R246: an accepted packet that no command waits for is only taken off the list of those unanswered. -/
theorem Dev.takeResponse_of_accepted {x : Sent} (hc : fld pkt.offset 0 2 = 0) (hx : d.sent.find? (answersTo pkt) = some x)
    (hf : x.flight = none) : (d.takeResponse p pkt).sent = d.sent.filter (fun y => y != x) := by
  simp only [Dev.takeResponse, hc, hx, Dev.accepted', hf]
  split <;> rfl

end

theorem exec_writePacket {s : State} {p : Nat} {pkt : Pkt} (h : s.view.passes p pkt) (hk : pkt.kind = kWrite) :
    exec (.writePacket p pkt) s = s.gives (((s.view.noted p pkt).hbmWrite pkt.offset pkt.payload).respond p pkt 0) :=
  passes_gives h hk _

theorem exec_readReqPacket {s : State} {p : Nat} {pkt : Pkt} (h : s.view.passes p pkt) (hk : pkt.kind = kReadReq) :
    exec (.readReqPacket p pkt) s = s.gives (if ((s.view.noted p pkt).poisoned pkt.offset pkt.length).isSome then s.view.noted p pkt
      else ((s.view.noted p pkt).sendQuiet none
        { pkt with kind := kReadData, dst := pkt.src, src := 0, payload := s.dev.hbm.reads pkt.offset pkt.length }).1) := by
  refine (passes_gives h hk _).trans ?_
  rw [Dev.noted_hbm, State.view_hbm]

theorem exec_readDataPacket {s : State} {p : Nat} {pkt : Pkt} (h : s.view.passes p pkt) (hk : pkt.kind = kReadData) :
    exec (.readDataPacket p pkt) s = s.gives ((s.view.noted p pkt).takeData pkt) :=
  passes_gives h hk _

end Sys2Proof.Machine
end

section
/-! PROOFS. Furrow packets. -/
open Sys2Proof Sys2Proof.Machine

/-- Settles O39: the row of the packet's kind runs on the device with the packet noted; an answer leaves HBM, and the
rest is read from what the kind takes. -/
theorem packetsAreTaken : Obligations.PacketsAreTaken := by
  intro s p pkt h
  refine ⟨fun hk => ?_, fun hk => ⟨fun hn => ?_, fun a ha => ?_⟩, fun hk y id x hy hf hx => ?_, fun hk => ⟨?_, ?_⟩, fun hk => ?_,
    fun hk => ⟨fun hf => ?_, fun hf => ?_⟩, fun hk => ⟨?_, fun x hc hx hf => ?_⟩⟩
  · have hh : (((s.view.noted p pkt).hbmWrite pkt.offset pkt.payload).respond p pkt 0).hbm = s.dev.hbm.writes pkt.offset pkt.payload := by
      rw [Dev.respond_hbm, Dev.hbmWrite, Dev.noted_hbm, State.view_hbm]
    refine ⟨_, exec_writePacket h hk, ?_, fun a ha => ?_⟩
    · rw [hh, Memory.reads_writes]
    · rw [hh, Memory.read_writes_outside _ _ _ _ ha]
  · rw [exec_readReqPacket h hk, if_neg (by simp [hn])]
  · rw [exec_readReqPacket h hk, if_pos (by simp [ha])]
  · exact ⟨_, (exec_readDataPacket h hk).trans (congrArg s.gives (Dev.takeData_of_request hy hf (by rwa [Dev.noted_flights])))⟩
  · exact passes_gives h hk _
  · exact Dev.takePagePacket_of_none
  · exact passes_gives h hk _
  · exact (passes_gives h hk _).trans (congrArg s.gives (Dev.takeMailbox_of_full (by rwa [Dev.noted_rxMbox])))
  · obtain ⟨t, ht, hfull⟩ := Dev.takeMailbox_of_free (d := s.view.noted p pkt) (p := p) (by rwa [Dev.noted_rxMbox])
    exact ⟨t, (passes_gives h hk _).trans (congrArg s.gives ht), hfull⟩
  · exact passes_gives h hk _
  · exact Dev.takeResponse_of_accepted hc hx hf

end

section
/-! SUPPORT. Tile instructions at the front of a queue: what runs there, the ways it ends, and the accesses of an
instruction (R78, R87, R89, R213). -/
namespace Sys2Proof.Machine
open Sys2Proof

/-- What runs on a queue carries the numbers it was asked for: the run, the plan shed and the core. -/
theorem Dev.env_names {d : Dev} {f k u : Nat} {e : Env} (h : d.env f k u = some e) :
    e.f = f ∧ e.k = k ∧ e.c = if u = fftUnit then 0 else u := by
  unfold Dev.env at h
  split at h
  · split at h
    · split at h
      · split at h
        · cases h; exact ⟨rfl, rfl, rfl⟩
        · cases h
      · cases h
    · cases h
  · cases h

theorem ne_fftUnit {u : Nat} (h : u < 64) : u ≠ fftUnit := Nat.ne_of_lt h

section
variable {d d' : Dev} {f k u cls : Nat} {e : Env} {t : TI} {body : Env → TI → TileOut}
variable (he : d.env f k u = some e) (hf : e.front u cls = some t)
include he hf

theorem Dev.tileRow_of_front : d.tileRow f k u cls body = d.tileEnd e u (if t.idle then .skip else body e t) := by
  simp only [Dev.tileRow, he, hf]

/-- R87, R89: an instruction that does nothing leaves its queue, uncounted. -/
theorem Dev.tileRow_of_skip (h : t.idle = true ∨ body e t = .skip) : d.tileRow f k u cls body = d.retireTile f k u := by
  obtain ⟨rfl, rfl, -⟩ := Dev.env_names he
  rw [Dev.tileRow_of_front he hf]
  rcases h with h | h
  · rw [if_pos h]; rfl
  · rw [h, ite_self]; rfl

variable (hi : t.idle = false)
include hi

theorem Dev.tileRow_of_body {o : TileOut} (h : body e t = o) : d.tileRow f k u cls body = d.tileEnd e u o := by
  rw [Dev.tileRow_of_front he hf, hi, h]; rfl

theorem Dev.tileRow_of_done (hu : u < 64) (h : body e t = .done d') : d.tileRow f k u cls body = d'.tileDone e f k u := by
  obtain ⟨rfl, rfl, -⟩ := Dev.env_names he
  rw [Dev.tileRow_of_body he hf hi h, Dev.tileEnd, if_neg (ne_fftUnit hu), Dev.tileDone]

theorem Dev.tileRow_of_fail {st : Status} (h : body e t = .fail d' st) : d.tileRow f k u cls body = d'.failStep f st := by
  obtain ⟨rfl, -, -⟩ := Dev.env_names he
  exact Dev.tileRow_of_body he hf hi h

theorem Dev.tileRow_of_mem {a : Nat} (h : body e t = .mem d' a) : d.tileRow f k u cls body = d'.finishMem f a := by
  obtain ⟨rfl, -, -⟩ := Dev.env_names he
  exact Dev.tileRow_of_body he hf hi h

end

/-! ### The accesses of an instruction (R213, Table 11.8) -/

section
variable {e : Env} {d d' : Dev} {nv : NonVol} {mf : MemFault}

theorem Env.reads_of_clean {bad : Option Nat} (go : Dev → TileOut) (h : d.memFault nv e.f mf = (d', none)) (hb : bad = none) :
    e.reads d nv mf bad go = go d' := by
  simp only [Env.reads, h, hb, Option.orElse_none]

theorem Env.reads_of_error {a : Nat} (bad : Option Nat) (go : Dev → TileOut) (h : d.memFault nv e.f mf = (d', some a)) :
    e.reads d nv mf bad go = .mem d' a := by
  simp only [Env.reads, h, Option.orElse_some]

variable (h : d.poison = [])
include h

theorem Opnd.poisonedAt_of_clean (o : Opnd) (pm : Nat → Nat) (cells : List (List Nat)) : o.poisonedAt d pm cells = none := by
  unfold Opnd.poisonedAt
  split
  · simp [h]
  · rfl

theorem Opnd.poisoned_of_clean (o : Opnd) (pm : Nat → Nat) : o.poisoned d pm = none := o.poisonedAt_of_clean h pm o.cells

theorem Env.poisonIn_of_clean (e : Env) (x : Opnd) (cells : List (List Nat)) (g : Option Opnd) : e.poisonIn d x cells g = none := by
  rw [Env.poisonIn, Opnd.poisonedAt_of_clean h]
  cases g with
  | none => rfl
  | some g => exact g.poisoned_of_clean h e.pm

end

end Sys2Proof.Machine
end

section
/-! SUPPORT. The accumulator of a core: what an instruction adds to each element and what it leaves, and the sum of an
exact run in any order (R82, R88, R102 to R106, R368). -/
namespace Sys2Proof.Machine
open Sys2Proof

/-! ### Keyed tables built from lists -/

/-- An entry is what the table gives where every entry of its number is that one. -/
theorem KV.find_of_mem {α : Type} {t : KV α} {i : Nat} {a : α} (h : (i, a) ∈ t) (hu : ∀ e ∈ t, e.1 = i → e.2 = a) :
    KV.find t i = some a := by
  induction t with
  | nil => cases h
  | cons e t ih =>
    obtain ⟨k, v⟩ := e
    by_cases hk : k = i
    · have hv : v = a := hu (k, v) (by simp) hk
      rw [KV.find, if_pos hk, hv]
    · simp only [KV.find, if_neg hk]
      exact ih ((List.mem_cons.1 h).resolve_left (fun h => hk (congrArg Prod.fst h).symm)) (fun e he => hu e (List.mem_cons_of_mem _ he))

theorem KV.find_of_not_mem {α : Type} {t : KV α} {i : Nat} (h : ∀ e ∈ t, e.1 ≠ i) : KV.find t i = none := by
  induction t with
  | nil => rfl
  | cons e t ih =>
    obtain ⟨k, v⟩ := e
    rw [KV.find, if_neg (h (k, v) (by simp))]
    exact ih (fun e he => h e (List.mem_cons_of_mem _ he))

/-- Entries kept by their number alone. -/
theorem KV.find_filter_key {α : Type} (t : KV α) (p : Nat → Bool) (i : Nat) :
    KV.find (t.filter (fun e => p e.1)) i = if p i then KV.find t i else none := by
  induction t with
  | nil => simp [KV.find]
  | cons e t ih =>
    obtain ⟨k, v⟩ := e
    by_cases hk : k = i
    · subst hk
      cases hp : p k
      · simpa [hp] using ih
      · simp [hp, KV.find]
    · cases hp : p k <;> simpa [hp, KV.find, hk] using ih

/-- A list of entries put into a table comes before what the table held. -/
theorem KV.find_foldr_put {α : Type} (l t : KV α) (i : Nat) :
    KV.find (l.foldr (fun b t => KV.put t b.1 b.2) t) i = (KV.find l i).or (KV.find t i) := by
  induction l with
  | nil => rfl
  | cons e l ih =>
    obtain ⟨k, v⟩ := e
    by_cases hk : k = i
    · subst hk
      simp [KV.find, KV.find_put_same]
    · simp only [List.foldr_cons, KV.find, if_neg hk, KV.find_put_other _ _ (Ne.symm hk)]
      exact ih

/-! ### An instruction's contributions (R82) -/

/-- What an accumulator holds before an instruction adds to it. -/
def accBase (old : KV AccElem) (clear : Bool) : KV AccElem := if clear then [] else old

/-- What a contribution makes of its element. -/
def Contrib.enter (exact : Bool) (base : KV AccElem) (c : Contrib) : AccElem :=
  { (KV.getD base c.1 AccElem.zero).addAll exact c.2.1 with terms := (KV.getD base c.1 AccElem.zero).terms + c.2.2 }

/-- The instruction reaches the element. -/
def reaches (cs : List Contrib) (i : Nat) : Bool := cs.any (fun c => c.1 == i)

theorem updAcc_eq (exact : Bool) (old : KV AccElem) (clear : Bool) (cs : List Contrib) :
    updAcc exact old clear cs = ((accBase old clear).filter (fun b => !reaches cs b.1)).foldr (fun b t => KV.put t b.1 b.2)
      (cs.map (fun c => (c.1, c.enter exact (accBase old clear)))) := by
  simp only [reaches, updAcc, List.any_map]
  rfl

theorem find_updAcc_of_mem {exact clear : Bool} {old : KV AccElem} {cs : List Contrib} {c : Contrib} (hc : c ∈ cs)
    (hu : ∀ c' ∈ cs, c'.1 = c.1 → c' = c) :
    KV.find (updAcc exact old clear cs) c.1 = some (c.enter exact (accBase old clear)) := by
  have hr : reaches cs c.1 = true := List.any_eq_true.2 ⟨c, hc, by simp⟩
  rw [updAcc_eq, KV.find_foldr_put, KV.find_filter_key _ (fun i => !reaches cs i), if_neg (by simp [hr]), Option.none_or]
  refine KV.find_of_mem (List.mem_map_of_mem hc) (fun e he hk => ?_)
  obtain ⟨c', hc', rfl⟩ := List.mem_map.1 he
  rw [hu c' hc' hk]

theorem find_updAcc_of_not_mem {cs : List Contrib} {i : Nat} (exact clear : Bool) (old : KV AccElem) (h : ∀ c ∈ cs, c.1 ≠ i) :
    KV.find (updAcc exact old clear cs) i = KV.find (accBase old clear) i := by
  have hr : reaches cs i = false := by simpa [reaches] using h
  rw [updAcc_eq, KV.find_foldr_put, KV.find_filter_key _ (fun i => !reaches cs i), if_pos (by simp [hr]),
    KV.find_of_not_mem (t := cs.map _) ?_, Option.or_none]
  intro e he
  obtain ⟨c, hc, rfl⟩ := List.mem_map.1 he
  exact h c hc

theorem AccElem.addNormal_terms (a : AccElem) (q : Q) (ej : Int) : (a.addNormal q ej).terms = a.terms := by
  cases hw : a.w <;> simp [AccElem.addNormal, AccElem.shiftTo, hw, apply_ite AccElem.terms]

/-- Blocks count no positions. -/
theorem AccElem.add_terms (exact : Bool) (a : AccElem) (b : BlockIn) : (a.add exact b).terms = a.terms := by
  unfold AccElem.add
  split
  · rfl
  · rfl
  · rfl
  · rfl
  · split
    · rfl
    · exact AccElem.addNormal_terms _ _ _

theorem AccElem.addAll_terms (exact : Bool) : ∀ (bs : List BlockIn) (a : AccElem), (a.addAll exact bs).terms = a.terms
  | [], _ => rfl
  | b :: bs, a => (AccElem.addAll_terms exact bs (a.add exact b)).trans (AccElem.add_terms exact a b)

/-- A contribution that counts no positions adds its blocks. -/
theorem Contrib.enter_of_blocks (exact : Bool) (base : KV AccElem) (i : Nat) (bs : List BlockIn) :
    Contrib.enter exact base (i, bs, 0) = (KV.getD base i AccElem.zero).addAll exact bs := by
  rw [Contrib.enter, Nat.add_zero, ← AccElem.addAll_terms exact bs]

/-- Rows of 128 elements: the number of an element gives its row and its column. -/
theorem accKey_inj {m n m' n' : Nat} (hn : n < 128) (hn' : n' < 128) (h : accKey m n = accKey m' n') : m = m' ∧ n = n' := by
  unfold accKey at h
  omega

/-! ### TMM (R368) -/

section
variable {e : Env} {d : Dev} {t : TI} {c a b : Opnd} {exact clear : Bool} {old : KV AccElem}

/-- What a TMM of sources that are there adds: an entry per element of the tile's box. -/
theorem Env.mem_mmIn (ha : e.isAbsent d a = false) (hb : e.isAbsent d b = false) {x : Contrib} :
    x ∈ e.mmIn d t c a b ↔ ∃ m n, m < c.size.getD 1 0 ∧ n < c.size.getD 0 0 ∧ x = (accKey m n, e.mmBlocks d t a b (mmK t a b) n m, 0) := by
  simp only [Env.mmIn, ha, hb, Bool.or_self, Bool.false_eq_true, if_false, List.mem_flatMap, List.mem_map, List.mem_range]
  constructor
  · rintro ⟨m, hm, n, hn, rfl⟩; exact ⟨m, n, hm, hn, rfl⟩
  · rintro ⟨m, n, hm, hn, rfl⟩; exact ⟨m, hm, n, hn, rfl⟩

variable (ha : e.isAbsent d a = false) (hb : e.isAbsent d b = false)
include ha hb

/-- R82, R88: an element of the tile's box takes the blocks of its row and column. -/
theorem getD_updAcc_mmIn (hw : c.size.getD 0 0 ≤ 128) {m n : Nat} (hm : m < c.size.getD 1 0) (hn : n < c.size.getD 0 0) :
    KV.getD (updAcc exact old clear (e.mmIn d t c a b)) (accKey m n) AccElem.zero =
      (KV.getD (accBase old clear) (accKey m n) AccElem.zero).addAll exact (e.mmBlocks d t a b (mmK t a b) n m) := by
  have hmem := (Env.mem_mmIn (t := t) (c := c) ha hb).2 ⟨m, n, hm, hn, rfl⟩
  rw [KV.getD, find_updAcc_of_mem hmem, Contrib.enter_of_blocks, Option.getD_some]
  intro x hx hk
  obtain ⟨m', n', -, hn', rfl⟩ := (Env.mem_mmIn ha hb).1 hx
  obtain ⟨rfl, rfl⟩ := accKey_inj (by omega) (by omega) hk
  rfl

/-- The other elements stay as they are in an accumulator that the instruction does not clear. -/
theorem find_updAcc_mmIn_of_outside {i : Nat} (h : ∀ m n, m < c.size.getD 1 0 → n < c.size.getD 0 0 → i ≠ accKey m n) :
    KV.find (updAcc exact old clear (e.mmIn d t c a b)) i = KV.find (accBase old clear) i := by
  refine find_updAcc_of_not_mem _ _ _ (fun x hx hk => ?_)
  obtain ⟨m, n, hm, hn, rfl⟩ := (Env.mem_mmIn ha hb).1 hx
  exact h m n hm hn hk.symm

end

/-! ### What the writing of a tile leaves -/

/-- A packet that leaves touches the row's output, the remote mailboxes' ports, the packets sent and their numbers. -/
theorem Dev.launch_eq (d : Dev) (port : Nat) (q : Queued) : ∃ out mb sn sq,
    d.launch port q = { d with out := out, txMbox := mb, sent := sn, sendSeq := sq } := by
  unfold Dev.launch Dev.noteMailPort
  split
  · split <;> exact ⟨_, _, _, _, rfl⟩
  · exact ⟨_, _, _, _, rfl⟩
  · exact ⟨_, _, _, _, rfl⟩

/-- A packet to be sent leaves, waits among the queued ones, or changes nothing. -/
theorem Dev.dispatch_eq (d : Dev) (q : Queued) : ∃ out mb sn oq sq,
    (d.dispatch q).1 = { d with out := out, txMbox := mb, sent := sn, outq := oq, sendSeq := sq } := by
  unfold Dev.dispatch
  split
  · exact ⟨_, _, _, _, _, rfl⟩
  · exact ⟨_, _, _, _, _, rfl⟩
  · next p _ =>
    split
    · exact ⟨_, _, _, _, _, rfl⟩
    · split
      · exact ⟨_, _, _, _, _, rfl⟩
      · obtain ⟨_, _, _, _, h⟩ := d.launch_eq p q
        exact ⟨_, _, _, _, _, h⟩

theorem Dev.send_acc (d : Dev) (fl : Option Nat) (unit : Nat) (p : Pkt) : (d.send fl unit p).1.acc = d.acc := by
  obtain ⟨_, _, _, _, _, h⟩ := d.dispatch_eq { pkt := p, mode := .asked, flight := fl, unit := unit, held := false }
  rw [Dev.send, h]

theorem Dev.sendAll_acc (fl : Option Nat) (unit : Nat) : ∀ (ps : List Pkt) (d : Dev), (d.sendAll fl unit ps).1.acc = d.acc
  | [], _ => rfl
  | p :: ps, d => by
    have hs := d.send_acc fl unit p
    unfold Dev.sendAll
    split
    · next h => rw [Dev.sendAll_acc fl unit ps, ← hs, h]
    · next h => rw [← hs, h]

theorem Dev.noteWrites_acc (d : Dev) (f : Nat) (l : Loc) (bits : Nat) (ws : Puts) : (d.noteWrites f l bits ws).acc = d.acc := by
  cases l <;> rfl

theorem Dev.putCodes_acc (d : Dev) (e : Env) (o : Opnd) (l : Loc) (bits : Nat) (ws : Puts) : (d.putCodes e o l bits ws).acc = d.acc := by
  have hn := d.noteWrites_acc e.f l bits ws
  unfold Dev.putCodes
  cases l with
  | sram a => exact hn
  | host a => exact hn
  | hbm a => dsimp only; split <;> exact hn
  | peer dev a => exact (Dev.sendAll_acc _ _ _ _).trans hn

theorem Dev.putElts_acc (d : Dev) (e : Env) (o : Opnd) (xs : List EncElt) : (d.putElts e o xs).acc = d.acc := by
  unfold Dev.putElts
  dsimp only
  split
  · exact Dev.putCodes_acc _ _ _ _ _ _
  · exact (Dev.putCodes_acc _ _ _ _ _ _).trans (Dev.putCodes_acc _ _ _ _ _ _)

/-- R89, R90: counting a tile touches the row's output, the command's flags and the run. -/
theorem Dev.account_eq (d : Dev) (e : Env) (o : Opnd) (st : TileStatus) (xs : List EncElt) : ∃ out fl rs,
    d.account e o st xs = { d with out := out, flights := fl, runs := rs } := by
  unfold Dev.account
  dsimp only
  split <;> exact ⟨_, _, _, rfl⟩

theorem Dev.account_acc (d : Dev) (e : Env) (o : Opnd) (st : TileStatus) (xs : List EncElt) : (d.account e o st xs).acc = d.acc := by
  obtain ⟨_, _, _, h⟩ := d.account_eq e o st xs
  rw [h]

theorem Dev.storeTile_acc (d : Dev) (e : Env) (o : Opnd) (fl : TFlags) (xs : List Elt) : (d.storeTile e o fl xs).acc = d.acc :=
  (Dev.account_acc _ _ _ _ _).trans (Dev.putElts_acc _ _ _ _)

/-- The accumulator that a TMM leaves. -/
theorem Env.accumulator_tmm (e : Env) (d : Dev) (t : TI) (c a b : Opnd) (later : Nat → List Int) :
    e.accumulator (d.tmm e t c a b later) = updAcc (e.r.mode mExact) (e.accumulator d) t.clears (e.mmIn d t c a b) := by
  have h : (d.tmm e t c a b later).acc =
      (d.setAcc e.core (updAcc (e.r.mode mExact) (e.accumulator d) t.clears (e.mmIn d t c a b))).acc := by
    unfold Dev.tmm
    dsimp only
    split
    · exact Dev.account_acc _ _ _ _ _
    · exact Dev.storeTile_acc _ _ _ _ _
  rw [Env.accumulator, h]
  exact KV.getD_put_same _ _ _ _

/-- R88: without OUT a TMM writes no byte. -/
theorem Dev.tmm_memory_of_noOut (d : Dev) (e : Env) {t : TI} (c a b : Opnd) (later : Nat → List Int) (h : t.flag 1 = false) :
    (d.tmm e t c a b later).sram = d.sram ∧ (d.tmm e t c a b later).hbm = d.hbm ∧ (d.tmm e t c a b later).host = d.host := by
  unfold Dev.tmm
  simp only [h, Bool.not_false, if_true]
  obtain ⟨_, _, _, he⟩ := (d.setAcc e.core (updAcc (e.r.mode mExact) (e.accumulator d) t.clears (e.mmIn d t c a b))).account_eq e c
    (statusOf { rowMasked := false, empty := mmK t a b == 0 } []) []
  rw [he]
  exact ⟨rfl, rfl, rfl⟩

theorem Env.mmBody_of_clean {e : Env} {d : Dev} {t : TI} {c a b : Opnd} (nv : NonVol) (hc : e.opnd t 1 = some c) (ha : e.opnd t 2 = some a)
    (hb : e.opnd t 3 = some b) (hin : c.beyond = false) (hp : d.poison = []) :
    e.mmBody d nv .none t = .done (d.tmm e t c a b (e.later d t)) := by
  have hr := e.reads_of_clean (d := d) (nv := nv) (mf := .none) (bad := (a.poisoned d e.pm).orElse (fun _ => b.poisoned d e.pm))
    (fun d => .done (d.tmm e t c a b (e.later d t))) rfl (by simp [Opnd.poisoned_of_clean hp])
  simp only [Env.mmBody, hc, ha, hb, hin, Bool.false_eq_true, if_false]
  rw [hr, ite_self]

/-! ### Exact sums (R104, R106) -/

/-- The block is an infinity of this sign. -/
def BlockIn.isInf (b : BlockIn) (neg : Bool) : Bool := decide (b.val = .inf neg)

/-- What an exact sum keeps of a block. -/
def BlockIn.kept (b : BlockIn) : List Blk :=
  match b.val, b.bexp with
  | .fin q, some ej => [{ m := q.top, e := -Int.ofNat q.den.log2, bexp := some ej }]
  | _, _ => []

theorem AccElem.add_exact (a : AccElem) (b : BlockIn) : a.add true b =
    { a with nan := a.nan || decide (b.val = .nan), posInf := a.posInf || b.isInf false, negInf := a.negInf || b.isInf true,
             blocks := b.kept ++ a.blocks } := by
  obtain ⟨v, ej⟩ := b
  cases v with
  | nan => simp [AccElem.add, BlockIn.isInf, BlockIn.kept]
  | inf neg => cases neg <;> simp [AccElem.add, BlockIn.isInf, BlockIn.kept]
  | fin q => cases ej <;> simp [AccElem.add, BlockIn.isInf, BlockIn.kept]

theorem AccElem.addAll_exact : ∀ (bs : List BlockIn) (a : AccElem), a.addAll true bs =
    { a with nan := a.nan || bs.any (fun b => decide (b.val = .nan)), posInf := a.posInf || bs.any (·.isInf false),
             negInf := a.negInf || bs.any (·.isInf true), blocks := bs.reverse.flatMap BlockIn.kept ++ a.blocks }
  | [], a => by simp [AccElem.addAll]
  | b :: bs, a => by
    have h := AccElem.addAll_exact bs (a.add true b)
    rw [AccElem.add_exact] at h
    simpa [AccElem.addAll, AccElem.add_exact, Bool.or_assoc] using h

/-- The largest number of a list does not depend on its order. -/
theorem max?_eq_of_perm {l l' : List Int} (h : l.Perm l') : l.max? = l'.max? :=
  Option.ext fun a => by simp only [List.max?_eq_some_iff, h.mem_iff]

/-- R104: the sum of the blocks above the window's foot, and the sticky bit of what lies below it. -/
def windowSum (w : Int) (bs : List Blk) : Int × Bool :=
  bs.foldl (fun z b => (z.1 + (Q.ofInt b.m b.e).floorShift w, z.2 || !(Q.ofInt b.m b.e).multiple w)) (0, false)

theorem windowSum_eq_of_perm (w : Int) {bs cs : List Blk} (h : bs.Perm cs) : windowSum w bs = windowSum w cs :=
  h.foldl_eq' (fun _ _ _ _ _ => Prod.ext (Int.add_right_comm _ _ _) (Bool.or_right_comm _ _ _)) _

theorem exactValue_eq (bs : List Blk) (later : List Int) : exactValue bs later =
    match (bs.filterMap (·.bexp) ++ later).max? with
    | none => Q.zero
    | some e => Q.ofInt (2 * (windowSum (e - 101) bs).1 + (if (windowSum (e - 101) bs).2 then 1 else 0)) (e - 101 - 1) := by
  unfold exactValue
  cases bs.filterMap (·.bexp) ++ later with
  | nil => rfl
  | cons e es => rw [List.max?_cons']; rfl

theorem exactValue_eq_of_perm {bs cs : List Blk} (h : bs.Perm cs) (later : List Int) : exactValue bs later = exactValue cs later := by
  simp only [exactValue_eq, max?_eq_of_perm ((h.filterMap _).append_right later), windowSum_eq_of_perm _ h]

/-- R104: an exact sum does not depend on the order in which its blocks enter. -/
theorem AccElem.result_addAll_exact_of_perm {bs cs : List BlockIn} (h : bs.Perm cs) (a : AccElem) (later : List Int) :
    (a.addAll true bs).result true later = (a.addAll true cs).result true later := by
  have hk : (bs.reverse.flatMap BlockIn.kept ++ a.blocks).Perm (cs.reverse.flatMap BlockIn.kept ++ a.blocks) :=
    ((((bs.reverse_perm).trans h).trans cs.reverse_perm.symm).flatMap_right _).append_right _
  simp only [AccElem.addAll_exact, AccElem.result, h.any_eq, exactValue_eq_of_perm hk]

/-! ### Rounding (R108) -/

theorem roundN_nearest (draw n r dd : Nat) : roundN 0 draw n r dd =
    if r = 0 then n else if 2 * r < dd then n else if dd < 2 * r then n + 1 else n + n % 2 := rfl

/-- Rounding to nearest leaves at most half a unit. -/
theorem roundN_nearest_bounds (draw n : Nat) {r dd : Nat} (h : r < dd) :
    2 * (roundN 0 draw n r dd * dd) ≤ 2 * (n * dd + r) + dd ∧ 2 * (n * dd + r) ≤ 2 * (roundN 0 draw n r dd * dd) + dd := by
  have step (b : Nat) (hlow : 2 * (b * dd) ≤ 2 * r + dd) (hhigh : 2 * r ≤ 2 * (b * dd) + dd) :
      2 * ((n + b) * dd) ≤ 2 * (n * dd + r) + dd ∧ 2 * (n * dd + r) ≤ 2 * ((n + b) * dd) + dd := by
    rw [Nat.add_mul]
    omega
  rw [roundN_nearest]
  split_ifs
  · exact step 0 (by omega) (by omega)
  · exact step 0 (by omega) (by omega)
  · exact step 1 (by omega) (by omega)
  · rcases Nat.mod_two_eq_zero_or_one n with hm | hm
    · rw [hm]; exact step 0 (by omega) (by omega)
    · rw [hm]; exact step 1 (by omega) (by omega)

/-- A tie goes to the even neighbour. -/
theorem roundN_nearest_even_of_tie (draw n : Nat) {r dd : Nat} (h : r < dd) (ht : 2 * r = dd) : roundN 0 draw n r dd % 2 = 0 := by
  have hr : r ≠ 0 := by omega
  rw [roundN_nearest, if_neg hr, if_neg (by omega), if_neg (by omega)]
  omega

theorem roundN_toward_zero (draw n r dd : Nat) : roundN 1 draw n r dd = n := ite_self _

theorem roundN_stochastic (draw n r dd : Nat) :
    roundN 2 draw n r dd = if r ≠ 0 ∧ draw < 65536 * r / dd then n + 1 else n := by
  by_cases hr : r = 0 <;> simp [roundN, hr]

end Sys2Proof.Machine
end

section
/-! PROOFS. Accumulators. -/
open Sys2Proof Sys2Proof.Machine

/-- Settles O56: the row leaves the accumulator that `updAcc` makes of the tile's contributions; an exact sum reads its
blocks through their largest exponent, their sum and their sticky bit; a rounding differs from its value by its case. -/
theorem accumulatorsSumTheirBlocks : Obligations.AccumulatorsSumTheirBlocks := by
  refine ⟨?_, fun bs cs h => funext (AccElem.result_addAll_exact_of_perm h _), fun draw n r dd h => ?_⟩
  · intro s f k u e t c a b hp hu he hf hi hc ha hb hin hw _ haa hab
    have hbase : ∀ i, KV.getD (accBase (e.accumulator s.view) t.clears) i AccElem.zero =
        if t.clears then AccElem.zero else KV.getD (e.accumulator s.view) i AccElem.zero := by
      intro i
      unfold accBase
      split <;> rfl
    refine ⟨s.view.tmm e t c a b (e.later s.view t),
      congrArg s.gives (Dev.tileRow_of_done he hf hi hu (Env.mmBody_of_clean s.nv hc ha hb hin hp)),
      fun m n hm hn => ?_, fun i hout => ?_, Dev.tmm_memory_of_noOut s.view e c a b _⟩
    · rw [Env.accumulator_tmm, getD_updAcc_mmIn haa hab hw hm hn, hbase]
    · rw [Env.accumulator_tmm, find_updAcc_mmIn_of_outside haa hab hout, accBase]
      split <;> rfl
  · obtain ⟨hlow, hhigh⟩ := roundN_nearest_bounds draw n h
    exact ⟨hlow, hhigh, roundN_nearest_even_of_tie draw n h, roundN_toward_zero draw n r dd, roundN_stochastic draw n r dd⟩

end

section
/-! SUPPORT. The rows of tile instructions: when each is skipped, what it accesses and what it does then, and the pages of
a paged source (R87 to R89, R154, R158, R170, R180, R185, R213, R254, R370). -/
namespace Sys2Proof.Machine
open Sys2Proof

/-! ### A row that accesses memory -/

section
variable {d d' : Dev} {f k u cls : Nat} {e : Env} {t : TI} {body : Env → TI → TileOut} {nv : NonVol} {mf : MemFault}
variable {bad : Option Nat} {go : Dev → TileOut}
variable (he : d.env f k u = some e) (hf : e.front u cls = some t) (hi : t.idle = false) (hb : body e t = e.reads d nv mf bad go)
include he hf hi hb

theorem Dev.tileRow_of_clean (hm : d.memFault nv f mf = (d', none)) (hbad : bad = none) :
    d.tileRow f k u cls body = d.tileEnd e u (go d') := by
  obtain ⟨rfl, -, -⟩ := Dev.env_names he
  rw [Dev.tileRow_of_body he hf hi hb, Env.reads_of_clean go hm hbad]

/-- R78, R213: an instruction of a core whose accesses meet no error executes. -/
theorem Dev.tileRow_executes {d'' : Dev} (hm : d.memFault nv f mf = (d', none)) (hbad : bad = none) (hu : u < 64)
    (hgo : go d' = .done d'') : d.tileRow f k u cls body = d''.tileDone e f k u := by
  obtain ⟨rfl, -, -⟩ := Dev.env_names he
  exact Dev.tileRow_of_done he hf hi hu (by rw [hb, Env.reads_of_clean go hm hbad, hgo])

/-- R213: an uncorrectable error of an access ends the run. -/
theorem Dev.tileRow_of_error {ad : Nat} (hm : d.memFault nv f mf = (d', some ad)) :
    d.tileRow f k u cls body = d'.finishMem f ad := by
  obtain ⟨rfl, -, -⟩ := Dev.env_names he
  exact Dev.tileRow_of_mem he hf hi (by rw [hb, Env.reads_of_error bad go hm])

end

/-! ### Skipped tiles (R89) -/

section
variable {e : Env} {t : TI} {o a : Opnd} (d : Dev) (nv : NonVol) (mf : MemFault)
variable (h : e.opnd t 1 = some o ∧ e.opnd t 2 = some a ∧ o.beyond = true)
include h

theorem Env.loadBody_of_beyond : e.loadBody d nv mf t = .skip := by
  obtain ⟨ho, ha, hb⟩ := h
  simp [Env.loadBody, ho, ha, hb]

theorem Env.storeBody_of_beyond : e.storeBody d nv mf t = .skip := by
  obtain ⟨ho, ha, hb⟩ := h
  simp [Env.storeBody, ho, ha, hb]

theorem Env.mmBody_of_beyond : e.mmBody d nv mf t = .skip := by
  obtain ⟨ho, ha, hb⟩ := h
  cases h3 : e.opnd t 3 <;> simp [Env.mmBody, ho, ha, h3, hb]

theorem Env.convBody_of_beyond : e.convBody d nv mf t = .skip := by
  obtain ⟨ho, ha, hb⟩ := h
  cases hc : e.im.convs[t.param]? <;> simp [Env.convBody, ho, ha, hc, hb]

theorem Env.sfBody_of_beyond : e.sfBody d nv mf t = .skip := by
  obtain ⟨ho, ha, hb⟩ := h
  simp [Env.sfBody, ho, ha, hb]

theorem Env.normBody_of_beyond : e.normBody d nv mf t = .skip := by
  obtain ⟨ho, ha, hb⟩ := h
  simp [Env.normBody, ho, ha, hb]

theorem Env.softBody_of_beyond : e.softBody d nv mf t = .skip := by
  obtain ⟨ho, ha, hb⟩ := h
  simp [Env.softBody, ho, ha, hb]

end

/-! ### What a row accesses and does -/

/-- A TLOAD from an operand that is found. -/
def Env.loadFrom (e : Env) (d : Dev) (nv : NonVol) (mf : MemFault) (t : TI) (o a : Opnd) : TileOut :=
  e.reads d nv mf (a.poisoned d e.pm) (fun d => .done (d.moveTile e t o a))

/-- A TSTORE whose source is read. -/
def Env.storeTo (e : Env) (t : TI) (o a : Opnd) (d : Dev) : TileOut :=
  if o.desc.paged then e.pageWrite d o (fun d o m => e.sendMain (d.moveTile e t o a) o.desc m) else .done (d.moveTile e t o a)

section
variable {e : Env} {t : TI} {o a : Opnd} {d : Dev} (nv : NonVol) (mf : MemFault)
variable (ho : e.opnd t 1 = some o) (ha : e.opnd t 2 = some a)
include ho ha

theorem Env.fftBody_of_beyond {c : Conv} (hc : e.im.convs[t.param]? = some c) (hb : e.fftBeyond t c o a = true) :
    e.fftBody d nv mf t = .skip := by
  simp [Env.fftBody, hc, ho, ha, hb]

theorem Env.fftBody_of_within {c : Conv} (hc : e.im.convs[t.param]? = some c) (hb : e.fftBeyond t c o a = false) :
    e.fftBody d nv mf t = e.reads d nv mf (e.poisonIn d a (e.fftReads t c o a) (e.opnd t 3))
      (fun d => .done (d.tfft e t c o a (e.opnd t 3))) := by
  simp [Env.fftBody, hc, ho, ha, hb]

variable (hin : o.beyond = false)
include hin

theorem Env.loadBody_of_sparse (hs : e.sparse d t a = true) : e.loadBody d nv mf t =
    .done ((if e.im.placeOf o.desc = 0 ∧ e.isAbsent d o = false then { d with absent := e.mark o :: d.absent } else d).account e o
      TileStatus.zero []) := by
  simp [Env.loadBody, Env.isAbsent, ho, ha, hin, hs]

theorem Env.loadBody_of_plain (hp : a.desc.paged = false) : e.loadBody d nv mf t = e.loadFrom d nv mf t o a := by
  have hs : e.sparse d t a = false := by simp [Env.sparse, hp]
  simp [Env.loadBody, Env.loadFrom, ho, ha, hin, hs, hp]

theorem Env.loadBody_of_paged (hs : e.sparse d t a = false) (hp : a.desc.paged = true) :
    e.loadBody d nv mf t = e.pageRead d a (e.loadFrom d nv mf t o) := by
  simp only [Env.loadBody, ho, ha, hin, hs, hp, Bool.false_eq_true, if_false, if_true]
  rfl

theorem Env.storeBody_of_peerFails {st : Status} (h : e.peerFails d o = some st) : e.storeBody d nv mf t = .fail d st := by
  simp [Env.storeBody, ho, ha, hin, h]

theorem Env.storeBody_of_open (h : e.peerFails d o = none) :
    e.storeBody d nv mf t = e.reads d nv mf (a.poisoned d e.pm) (e.storeTo t o a) := by
  simp only [Env.storeBody, ho, ha, hin, h, Bool.false_eq_true, if_false]
  rfl

theorem Env.convBody_of_within {c : Conv} (hc : e.im.convs[t.param]? = some c) : e.convBody d nv mf t =
    e.reads d nv mf (e.poisonIn d a (e.convReads c o a (e.opnd t 3)) (e.opnd t 3)) (fun d => .done (d.tconv e t c o a (e.opnd t 3))) := by
  simp [Env.convBody, hc, ho, ha, hin]

theorem Env.sfBody_of_within : e.sfBody d nv mf t = e.reads d nv mf none (fun d => .done (d.tsf e t o a)) := by
  simp [Env.sfBody, ho, ha, hin]

theorem Env.normBody_of_within : e.normBody d nv mf t = e.reads d nv mf none (fun d => .done (d.tnorm e t o a (e.opnd t 3))) := by
  simp [Env.normBody, ho, ha, hin]

theorem Env.softBody_of_within : e.softBody d nv mf t = e.reads d nv mf none (fun d => .done (d.tsoft e t a)) := by
  simp [Env.softBody, ho, ha, hin]

end

section
variable {e e2 : Env} {t : TI} {x : Desc} {own : Opnd} {d : Dev} (nv : NonVol) (mf : MemFault)
variable (hx : e.im.desc? (e.subst (opDesc t.i1)) = some x) (hown : e.opnd t 2 = some own)
variable (h2 : e.other (fld t.i3 21 5) (fld t.i3 26 6) = some e2)
include hx hown h2

theorem Env.xchBody_of_beyond (hb : e.xchBeyond t own = true) : e.xchBody d nv mf t = .skip := by
  simp [Env.xchBody, hx, hown, h2, hb]

theorem Env.xchBody_of_within (hb : e.xchBeyond t own = false) :
    e.xchBody d nv mf t = e.reads d nv mf (own.poisoned d e.pm) (fun d => .done (d.txch e e2 t x own)) := by
  simp [Env.xchBody, hx, hown, h2, hb]

end

/-! ### Paged sources (R154) -/

/-- The tokens of a page that its block holds: a page of another sequence's block is whole (R155). -/
def pageRows (h : List Byte) (q : Seq) (branch : Nat) (kb : Int) : Nat :=
  if 0 ≤ kb - Int.ofNat (hFirst h) ∧ kb - Int.ofNat (hFirst h) < Int.ofNat q.maxBlocks then
    rowsOfBlock (hTokens h) branch (kb - Int.ofNat (hFirst h)).toNat else 256

section
variable {e : Env} {d : Dev} {a : Opnd} {b : Nat} {q : Seq} {kb : Int} (go : Opnd → TileOut)
variable (hq : e.pageSeq d a = some (b, q, kb))
include hq

theorem Env.pageRead_of_page {ad : Nat} (h : d.walk q kb a.desc.layer a.desc.branch a.desc.pageIdx e.r.stepNo = .page ad) :
    e.pageRead d a go = go (a.onPage (d.hdr q) ad (pageRows (d.hdr q) q a.desc.branch kb)) := by
  simp only [Env.pageRead, hq, h, pageRows]

theorem Env.pageRead_of_wait (h : d.walk q kb a.desc.layer a.desc.branch a.desc.pageIdx e.r.stepNo = .wait) :
    e.pageRead d a go = .wait ((List.range (hPeers (d.hdr q))).map (fun i => (hPeer (d.hdr q) i).2.1)) := by
  simp only [Env.pageRead, hq, h]

theorem Env.pageRead_of_stale (h : d.walk q kb a.desc.layer a.desc.branch a.desc.pageIdx e.r.stepNo = .stale) :
    e.pageRead d a go = .fail (d.markStale b) .staleTable := by
  simp only [Env.pageRead, hq, h]

end

/-- R158: an instruction that waits for pages notes the peers that have yet to send them. -/
theorem Dev.tileEnd_of_wait {d : Dev} {f k u : Nat} {e : Env} (he : d.env f k u = some e) {ps : List Nat} (h : ps ≠ []) :
    d.tileEnd e u (.wait ps) = d.updRun f (fun r => { r with pageWait := KV.put r.pageWait (waitKey k u) ps }) := by
  obtain ⟨rfl, rfl, -⟩ := Dev.env_names he
  exact if_neg (by simpa using h)

/-- The FFT unit is no core: its instruction takes none from a Fallow check. -/
theorem Dev.tileEnd_of_fft {d d' : Dev} {f k : Nat} {e : Env} (he : d.env f k fftUnit = some e) :
    d.tileEnd e fftUnit (.done d') = (d'.countTile e).retireTile f k fftUnit := by
  obtain ⟨rfl, rfl, -⟩ := Dev.env_names he
  rfl

end Sys2Proof.Machine
end

section
/-! PROOFS. Tile instructions. -/
open Sys2Proof Sys2Proof.Machine

/-- Settles O55: each row is its body at the front of a queue, and each body a skip or its accesses and then its effect. -/
theorem tilesExecuteAtTheFront : Obligations.TilesExecuteAtTheFront := by
  intro s f k u e t o a mf d hp hu
  refine ⟨fun he => ⟨fun h => ?_, fun hi ho ha hin => ?_, fun hi hf x own e2 hx hown h2 => ?_⟩,
    fun he hf hi ho ha c hc => ⟨fun hb => ?_, fun hb hm => ?_⟩⟩
  · refine ⟨fun hf => ?_, fun hf => ?_, fun hf => ?_, fun hf => ?_, fun hf => ?_, fun hf => ?_, fun hf => ?_⟩
    · exact congrArg s.gives (Dev.tileRow_of_skip he hf (h.imp_right (Env.loadBody_of_beyond s.view s.nv mf)))
    · exact congrArg s.gives (Dev.tileRow_of_skip he hf (h.imp_right (Env.storeBody_of_beyond s.view s.nv mf)))
    · exact congrArg s.gives (Dev.tileRow_of_skip he hf (h.imp_right (Env.mmBody_of_beyond s.view s.nv mf)))
    · exact congrArg s.gives (Dev.tileRow_of_skip he hf (h.imp_right (Env.convBody_of_beyond s.view s.nv mf)))
    · exact congrArg s.gives (Dev.tileRow_of_skip he hf (h.imp_right (Env.sfBody_of_beyond s.view s.nv mf)))
    · exact congrArg s.gives (Dev.tileRow_of_skip he hf (h.imp_right (Env.normBody_of_beyond s.view s.nv mf)))
    · exact congrArg s.gives (Dev.tileRow_of_skip he hf (h.imp_right (Env.softBody_of_beyond s.view s.nv mf)))
  · have hclean : ∀ x : Opnd, x.poisoned s.view e.pm = none := fun x => x.poisoned_of_clean hp e.pm
    refine ⟨fun hf hs => ?_, fun hf hs hpg b q kb hq => ⟨fun ad n hw hm hn => ?_, fun hw hpeers => ?_, fun hw => ?_⟩, fun hf st hst => ?_,
      fun hm => ⟨fun hf hpg => ?_, fun hf hpg ho' => ?_, fun hf hpg ho' => ?_, fun hf c hc => ?_, fun hf => ?_, fun hf => ?_, fun hf => ?_⟩,
      fun ad hm => ⟨fun hf hpg => ?_, fun hf ho' => ?_, fun hf => ?_, fun hf => ?_, fun hf => ?_⟩⟩
    · exact congrArg s.gives (Dev.tileRow_of_done he hf hi hu (Env.loadBody_of_sparse s.nv mf ho ha hin hs))
    · have hb := (Env.loadBody_of_paged s.nv mf ho ha hin hs hpg).trans (Env.pageRead_of_page _ hq hw)
      rw [show n = pageRows (s.view.hdr q) q a.desc.branch kb from hn]
      exact congrArg s.gives (Dev.tileRow_executes he hf hi hb hm (hclean _) hu rfl)
    · have hb := (Env.loadBody_of_paged s.nv mf ho ha hin hs hpg).trans (Env.pageRead_of_wait _ hq hw)
      exact congrArg s.gives ((Dev.tileRow_of_body he hf hi hb).trans (Dev.tileEnd_of_wait he (by simpa using hpeers)))
    · have hb := (Env.loadBody_of_paged s.nv mf ho ha hin hs hpg).trans (Env.pageRead_of_stale _ hq hw)
      exact congrArg s.gives (Dev.tileRow_of_fail he hf hi hb)
    · exact congrArg s.gives (Dev.tileRow_of_fail he hf hi (Env.storeBody_of_peerFails s.nv mf ho ha hin hst))
    · exact congrArg s.gives (Dev.tileRow_executes he hf hi (Env.loadBody_of_plain s.nv mf ho ha hin hpg) hm (hclean a) hu rfl)
    · have hgo : e.storeTo t o a d = .done (d.moveTile e t o a) := if_neg (by simp [hpg])
      exact congrArg s.gives (Dev.tileRow_executes he hf hi (Env.storeBody_of_open s.nv mf ho ha hin ho') hm (hclean a) hu hgo)
    · have hgo : e.storeTo t o a d = e.pageWrite d o (fun d o m => e.sendMain (d.moveTile e t o a) o.desc m) := if_pos hpg
      rw [← hgo]
      exact congrArg s.gives (Dev.tileRow_of_clean he hf hi (Env.storeBody_of_open s.nv mf ho ha hin ho') hm (hclean a))
    · exact congrArg s.gives (Dev.tileRow_executes he hf hi (Env.convBody_of_within s.nv mf ho ha hin hc) hm
        (e.poisonIn_of_clean (d := s.view) hp a _ _) hu rfl)
    · exact congrArg s.gives (Dev.tileRow_executes he hf hi (Env.sfBody_of_within s.nv mf ho ha hin) hm rfl hu rfl)
    · exact congrArg s.gives (Dev.tileRow_executes he hf hi (Env.normBody_of_within s.nv mf ho ha hin) hm rfl hu rfl)
    · exact congrArg s.gives (Dev.tileRow_executes he hf hi (Env.softBody_of_within s.nv mf ho ha hin) hm rfl hu rfl)
    · exact congrArg s.gives (Dev.tileRow_of_error he hf hi (Env.loadBody_of_plain s.nv mf ho ha hin hpg) hm)
    · exact congrArg s.gives (Dev.tileRow_of_error he hf hi (Env.storeBody_of_open s.nv mf ho ha hin ho') hm)
    · exact congrArg s.gives (Dev.tileRow_of_error he hf hi (Env.sfBody_of_within s.nv mf ho ha hin) hm)
    · exact congrArg s.gives (Dev.tileRow_of_error he hf hi (Env.normBody_of_within s.nv mf ho ha hin) hm)
    · exact congrArg s.gives (Dev.tileRow_of_error he hf hi (Env.softBody_of_within s.nv mf ho ha hin) hm)
  · refine ⟨fun hb => ?_, fun hb hm => ?_⟩
    · exact congrArg s.gives (Dev.tileRow_of_skip he hf (.inr (Env.xchBody_of_beyond s.nv mf hx hown h2 hb)))
    · exact congrArg s.gives (Dev.tileRow_executes he hf hi (Env.xchBody_of_within s.nv mf hx hown h2 hb) hm (own.poisoned_of_clean hp e.pm) hu rfl)
  · exact congrArg s.gives (Dev.tileRow_of_skip he hf (.inr (Env.fftBody_of_beyond s.nv mf ho ha hc hb)))
  · exact congrArg s.gives ((Dev.tileRow_of_clean he hf hi (Env.fftBody_of_within s.nv mf ho ha hc hb) hm
      (e.poisonIn_of_clean (d := s.view) hp a _ _)).trans (Dev.tileEnd_of_fft he))

end

section
/-! SUPPORT. Control instructions: where the controller stands, signals, and the list of a TBATCH (R80, R84, R86, R91). -/
namespace Sys2Proof.Machine
open Sys2Proof

theorem Dev.ctrlRow_of_stands {d : Dev} {f k cls : Nat} {e : Env} {t : TI} (he : d.env f k 0 = some e) (h : e.standsAt k cls t)
    (body : Env → TI → Dev) : d.ctrlRow f k cls body = body e t := by
  obtain ⟨rfl, hm, hpc, hb, hc, hh⟩ := h
  simp only [Dev.ctrlRow, he]
  exact if_pos ⟨hm, hpc, Option.isNone_iff_eq_none.2 hb, hc, hh⟩

/-! ### TWAIT -/

section
variable {e : Env} {t : TI}

theorem Env.reachedCtr_of_le (h : t.i2 ≤ KV.getD e.x.counters (fld t.i1 8 8) 0) : e.reachedCtr t = true := decide_eq_true h
theorem Env.reachedCtr_of_lt (h : KV.getD e.x.counters (fld t.i1 8 8) 0 < t.i2) : e.reachedCtr t = false :=
  decide_eq_false (Nat.not_le.2 h)

variable {s : State} {f k : Nat} (he : s.view.env f k 0 = some e) (h : e.standsAt k cWait t)
include he h

theorem exec_twait : exec (.twait f k) s = s.gives (if e.x.waiting then s.view else if e.reachedCtr t then s.view.ctrlNext e id
    else s.view.updShedRun f k (fun x => { x with waiting := true })) :=
  congrArg s.gives (Dev.ctrlRow_of_stands he h _)

theorem exec_twaitRelease : exec (.twaitRelease f k) s = s.gives (if e.x.waiting && e.reachedCtr t then
    s.view.ctrlNext e (fun x => { x with waiting := false }) else s.view) :=
  congrArg s.gives (Dev.ctrlRow_of_stands he h _)

end

/-! ### TBATCH (R84, R86) -/

section
variable {d d' : Dev} {nv : NonVol} {f : Nat} {mf : MemFault} (rs : List (Nat × Nat)) (go : Dev → Dev)

theorem Dev.withReads_of_clean (h : d.memFault nv f mf = (d', none)) (hp : d'.poison = []) : d.withReads nv f mf rs go = go d' := by
  have hr : rs.findSome? (fun r => d'.poisoned r.1 r.2) = none :=
    List.findSome?_eq_none_iff.2 (fun r _ => Dev.poisoned_of_nil hp r.1 r.2)
  simp only [Dev.withReads, Dev.withFault, h, hr]

theorem Dev.withReads_of_error {a : Nat} (h : d.memFault nv f mf = (d', some a)) : d.withReads nv f mf rs go = d'.finishMem f a := by
  simp only [Dev.withReads, Dev.withFault, h]

end

/-- What a TBATCH does with the bytes of its list. -/
def Env.runList (e : Env) (f k : Nat) (t : TI) (bs : List Byte) (d : Dev) : Dev :=
  if KV.find e.r.lists (listKey k t (batchCount t e.pv)) ≠ some (crc32c bs) then d.failStep f .staleTable
  else (d.updShedRun f k (fun x => { x with batch := some (0, batchEntries bs) })).pumpRun f

theorem exec_tbatch {s : State} {f k : Nat} {e : Env} {t : TI} (he : s.view.env f k 0 = some e) (h : e.standsAt k cBatch t) (mf : MemFault) :
    exec (.tbatch f k mf) s = s.gives (s.view.withReads s.nv f mf ((e.listBytes s.view t).1.hbmRange (32 * batchCount t e.pv))
      (e.runList f k t (e.listBytes s.view t).2)) :=
  congrArg s.gives (Dev.ctrlRow_of_stands he h _)

/-! ### TSIG (R80) -/

section
variable {e : Env} {d d' : Dev} {t : TI}

theorem Env.signal_of_open (h : e.writesOpen d (t.flag 0) = true) : e.signal d t = .wait [] := if_pos h

variable (h : e.writesOpen d (t.flag 0) = false)
include h

theorem Env.signal_of_local (hl : t.flag 2 = false) :
    e.signal d t = .done (d.updRun e.f (fun r => r.signal (fld t.i1 16 5) (fld t.i1 8 8) t.i2)) := by
  simp [Env.signal, h, hl]

theorem Env.signal_of_sent (hr : t.flag 2 = true) (hs : d.send (some e.f) 0 (signalPkt e t) = (d', none)) : e.signal d t = .done d' := by
  simp [Env.signal, h, hr, hs]

theorem Env.signal_of_unsent {st : Status} (hr : t.flag 2 = true) (hs : d.send (some e.f) 0 (signalPkt e t) = (d', some st)) :
    e.signal d t = .fail d' st := by
  simp [Env.signal, h, hr, hs]

end

section
variable {d d' : Dev} {f k c : Nat} {e : Env} {t : TI} (he : d.env f k c = some e) (hf : e.front c cSig = some t)
include he hf

theorem Dev.coreSig_of_wait {ps : List Nat} (h : e.signal d t = .wait ps) : d.coreSig f k c = d := by
  simp only [Dev.coreSig, he, hf, h]

theorem Dev.coreSig_of_done (h : e.signal d t = .done d') : d.coreSig f k c = d'.retireTile f k c := by
  simp only [Dev.coreSig, he, hf, h]

theorem Dev.coreSig_of_fail {st : Status} (h : e.signal d t = .fail d' st) : d.coreSig f k c = d'.failFlight f st := by
  simp only [Dev.coreSig, he, hf, h]

end

section
variable {d d' : Dev} {f k : Nat} {e : Env} {t : TI} (he : d.env f k 0 = some e) (h : e.standsAt k cSig t)
include he h

theorem Dev.ctrlSig_of_step (hs : t.flag 1 = true) : d.ctrlSig f k = d.ctrlNext e (fun x => { x with markers := x.markers + 1 }) := by
  rw [Dev.ctrlSig, Dev.ctrlRow_of_stands he h, if_pos hs]

variable (hs : t.flag 1 = false)
include hs

theorem Dev.ctrlSig_of_undrained (hd : e.x.drained = false) : d.ctrlSig f k = d := by
  rw [Dev.ctrlSig, Dev.ctrlRow_of_stands he h, if_neg (by simp [hs]), if_pos (by simp [hd])]

theorem Dev.ctrlSig_of_wait {ps : List Nat} (hg : e.signal d t = .wait ps) : d.ctrlSig f k = d := by
  rw [Dev.ctrlSig, Dev.ctrlRow_of_stands he h, if_neg (by simp [hs]), hg]
  exact ite_self _

theorem Dev.ctrlSig_of_done (hd : e.x.drained = true) (hg : e.signal d t = .done d') : d.ctrlSig f k = d'.ctrlNext e id := by
  rw [Dev.ctrlSig, Dev.ctrlRow_of_stands he h, if_neg (by simp [hs]), if_neg (by simp [hd]), hg]

end

/-! ### TCHAIN (R91) -/

theorem exec_tchain {s : State} {f k c : Nat} {e : Env} {t : TI} (he : s.view.env f k c = some e) (hf : e.front c cChain = some t) :
    exec (.tchain f k c) s = s.gives ((s.view.updShedRun f k (fun x =>
      { x.dequeue c with chain := KV.put (x.dequeue c).chain c t.param })).pumpRun f) := by
  show execTchain f k c s = _
  simp only [execTchain, onDev_gives, he, hf]

end Sys2Proof.Machine
end

section
/-! PROOFS. Control instructions. -/
open Sys2Proof Sys2Proof.Machine

/-- Settles O57: the controller's rows act on the instruction it stands at, a core's signal and chain on the front of its
queue; a signal waits, goes out or fails. -/
theorem controlInstructionsSteer : Obligations.ControlInstructionsSteer := by
  intro s f k e t
  refine ⟨fun he h => ⟨fun hc => ⟨fun hw => ?_, fun hw => ?_⟩, fun hc => ⟨fun hw => ?_, ?_⟩⟩,
    fun he h z mf d hz => ⟨fun hm hp => ⟨fun hl => ?_, fun hl => ?_⟩, fun ad hm => ?_⟩,
    fun he h => ⟨fun hs => ?_, fun hs hopen => ?_, fun hs hd hw hl => ?_, fun hs hd hw hr d hsend => ?_⟩,
    fun c _ he => ⟨fun hf hw => ?_, fun hf hw => ⟨fun hl => ?_, fun hr d hsend => ?_, fun hr d st hsend => ?_⟩, exec_tchain he⟩⟩
  · rw [exec_twait he h, hw, Env.reachedCtr_of_le hc]; rfl
  · rw [exec_twaitRelease he h, hw, Env.reachedCtr_of_le hc]; rfl
  · rw [exec_twait he h, hw, Env.reachedCtr_of_lt hc]; rfl
  · rw [exec_twaitRelease he h, Env.reachedCtr_of_lt hc, Bool.and_false]; rfl
  · rw [exec_tbatch he h, Dev.withReads_of_clean _ _ hm hp, ← hz, Env.runList, if_neg (not_not_intro hl)]
  · rw [exec_tbatch he h, Dev.withReads_of_clean _ _ hm hp, ← hz, Env.runList, if_pos hl]
  · rw [exec_tbatch he h, Dev.withReads_of_error _ _ hm]
  · exact congrArg s.gives (Dev.ctrlSig_of_step he h hs)
  · rcases hopen with hd | hw
    · exact congrArg s.gives (Dev.ctrlSig_of_undrained he h hs hd)
    · exact congrArg s.gives (Dev.ctrlSig_of_wait he h hs (Env.signal_of_open hw))
  · obtain ⟨rfl, -, -⟩ := Dev.env_names he
    exact congrArg s.gives (Dev.ctrlSig_of_done he h hs hd (Env.signal_of_local hw hl))
  · obtain ⟨rfl, -, -⟩ := Dev.env_names he
    exact congrArg s.gives (Dev.ctrlSig_of_done he h hs hd (Env.signal_of_sent hw hr hsend))
  · exact congrArg s.gives (Dev.coreSig_of_wait he hf (Env.signal_of_open hw))
  · obtain ⟨rfl, -, -⟩ := Dev.env_names he
    exact congrArg s.gives (Dev.coreSig_of_done he hf (Env.signal_of_local hw hl))
  · obtain ⟨rfl, -, -⟩ := Dev.env_names he
    exact congrArg s.gives (Dev.coreSig_of_done he hf (Env.signal_of_sent hw hr hsend))
  · obtain ⟨rfl, -, -⟩ := Dev.env_names he
    exact congrArg s.gives (Dev.coreSig_of_fail he hf (Env.signal_of_unsent hw hr hsend))

end

section
/-! SUPPORT. Runs: how a PLAN_RUN starts and how the step of a run ends (R65 to R68, R80, R119, R162, R166). -/
namespace Sys2Proof.Machine
open Sys2Proof

/-! ### PLAN_RUN -/

section
variable {s : State} {f : Nat} {x : Flight} {r : Run}
variable (h : Runs s f 0x11 x) (hr : KV.find s.dev.runs f = some r) (hs : r.started = false)
include h hr hs

/-- R67: a binding with a zero axis leaves nothing to run. -/
theorem exec_planRun_of_zero (hz : r.zeroBound = true) : exec (.planRun f) s = s.gives
    ((s.view.updFlight f (fun x => { x with gtcStart := s.dev.gtc.val, startNow := s.dev.now })).finish f .empty 0 0) := by
  have hv : KV.find s.view.runs f = some r := hr
  show execPlanRun f s = _
  rw [execPlanRun, h.onDevR]
  simp only [hv, hs, hz, Bool.false_eq_true, if_false, if_true]
  rfl

theorem exec_planRun_of_bound {p : Paddock} {q : Plan} (hz : r.zeroBound = false) (hp : s.dev.pad x.paddock = some p)
    (hq : s.view.runPlan r = some q) :
    exec (.planRun f) s = s.gives (if s.view.mayRun p r then s.view.runStart s.nv p f r q else s.view) := by
  have hv : KV.find s.view.runs f = some r := hr
  show execPlanRun f s = _
  rw [execPlanRun, h.onDevR]
  simp only [hv, hs, hz, Bool.false_eq_true, if_false, State.view_pad, hp, hq]

end

/-- R65, R66: the sheds of a run at its first instruction, on the plan's first sheds that serve. -/
def NonVol.startSheds (nv : NonVol) (p : Paddock) (im : PlanImg) : KV ShedRun :=
  ((p.serving nv).take im.sheds).zipIdx.map (fun e => (e.2, ShedRun.start (im.shedSegs e.2) e.1 (nv.logical e.1)))

section
variable {d d' : Dev} {nv : NonVol} {p : Paddock} {q : Plan} (f : Nat) {r : Run}

theorem Dev.runStart_of_few (h : (p.serving nv).length < (d.planImg q).sheds) : d.runStart nv p f r q = d.finish f .badParam 0 0 :=
  if_pos (by rw [List.length_take]; omega)

variable (h : (d.planImg q).sheds ≤ (p.serving nv).length)
include h

/-- R166: a run whose sequences find no pages ends. -/
theorem Dev.runStart_of_exhausted (hk : d.swapInAll f r.seqKeys = (d', false)) :
    d.runStart nv p f r q = d'.finish f .pageExhausted 0 0 := by
  rw [Dev.runStart, if_neg (by rw [List.length_take]; omega), hk]

theorem Dev.runStart_of_swapped (hk : d.swapInAll f r.seqKeys = (d', true)) : d.runStart nv p f r q =
    (((d'.freshSheds ((p.serving nv).take (d.planImg q).sheds)).updPlan r.plan (fun q => { q with pinned := q.pinnedNext, running := 0 })).updRun f
      (fun r => { r with started := true, step := 0, sheds := nv.startSheds p (d.planImg q) })).stepBegin f := by
  rw [Dev.runStart, if_neg (by rw [List.length_take]; omega), hk]
  rfl

end

/-- R80, R82: what a shed's cores held is not there at the start of a run. -/
theorem Dev.freshSheds_clears (d : Dev) {ss : List Nat} {k c : Nat} (hk : k ∈ ss) (hc : c < 72) :
    KV.find (d.freshSheds ss).acc (k * 72 + c) = none ∧ KV.find (d.freshSheds ss).soft (k * 72 + c) = none ∧
      ∀ a ∈ (d.freshSheds ss).absent, a.1 ≠ k * 72 + c := by
  have hshed : (k * 72 + c) / 72 = k := by omega
  have hin : (!ss.contains ((k * 72 + c) / 72)) = false := by simpa [hshed] using hk
  refine ⟨?_, ?_, fun a ha hak => ?_⟩
  · exact (KV.find_filter_key d.acc (fun i => !ss.contains (i / 72)) _).trans (by rw [hin]; rfl)
  · exact (KV.find_filter_key d.soft (fun i => !ss.contains (i / 72)) _).trans (by rw [hin]; rfl)
  · have := (List.mem_filter.1 ha).2
    rw [hak, hin] at this
    cases this

/-! ### PLAN_STEP_END -/

section
variable {s : State} {f : Nat} {x : Flight} {r : Run} {p : Plan}
variable (h : Runs s f 0x11 x) (hr : KV.find s.dev.runs f = some r) (hp : s.view.runPlan r = some p)
include h hr hp

theorem exec_planStepEnd : exec (.planStepEnd f) s =
    s.gives (if r.started && r.stepOn && !r.suspended && !r.gathering && s.view.stepDone f r then s.view.stepEnd f r p else s.view) := by
  have hv : KV.find s.view.runs f = some r := hr
  show execPlanStepEnd f s = _
  rw [execPlanStepEnd, h.onDev]
  simp only [hv, hp]

end

/-- What the end of a step notes for its layer. -/
def Dev.endLayer (d : Dev) (f : Nat) (r : Run) (p : Plan) : Dev :=
  match p.layerAt r.step with
  | some (i, l) => d.layerStep f r p i l
  | none => d

section
variable {d : Dev} (f : Nat) {r : Run} {p : Plan}

theorem Dev.stepEnd_of_busy {k n : Nat} (hl : r.step + 1 = r.steps) (hg : r.gather p = some (k, n)) (hk : KV.has d.groups k = true)
    (hf : d.groupFree k = false) : d.stepEnd f r p = d := by
  simp [Dev.stepEnd, hl, hg, hk, hf]

/-- R162: a list that is not what the E9 keeps fails the step. -/
theorem Dev.stepEnd_of_badSeq {k : Nat} (hk : d.badSeq r = some k) (hg : r.mode mGuard = false) :
    d.stepEnd f r p = (d.markStale k).failStep f .staleTable := by
  have hn : r.gather p = none := by simp [Run.gather, hg]
  simp [Dev.stepEnd, hk, hn]

variable (hb : d.badSeq r = none)
include hb

theorem Dev.stepEnd_of_more (hl : r.step + 1 ≠ r.steps) : d.stepEnd f r p = (d.endLayer f r p).stepNext f := by
  simp only [Dev.stepEnd, hb, beq_eq_false_iff_ne.2 hl]
  rfl

theorem Dev.stepEnd_of_alone (hl : r.step + 1 = r.steps) (hg : r.gather p = none) :
    d.stepEnd f r p = (d.endLayer f r p).endPassAlone f := by
  simp only [Dev.stepEnd, hb, beq_iff_eq.2 hl, hg]
  rfl

theorem Dev.stepEnd_of_gather {k n : Nat} (hl : r.step + 1 = r.steps) (hg : r.gather p = some (k, n)) (hf : d.groupFree k = true) :
    d.stepEnd f r p = ((d.endLayer f r p).gatherStart f k n r.stepNo).getD (d.endLayer f r p) := by
  simp only [Dev.stepEnd, hb, beq_iff_eq.2 hl, hg, if_true, Option.elim_some, hf, Bool.not_true, Bool.and_false]
  rfl

end

end Sys2Proof.Machine
end

section
/-! PROOFS. Runs. -/
open Sys2Proof Sys2Proof.Machine

/-- Settles O29: the row is `runStart` of the paddock and the plan where the run may start. -/
theorem planRunStartsItsFirstStep : Obligations.PlanRunStartsItsFirstStep := by
  intro s f x r h hr hs
  refine ⟨exec_planRun_of_zero h hr hs,
    fun p q hz hp hq => ⟨fun hm => ?_, fun hm hfew hsl => ⟨s.view.finish f .badParam 0 0, ?_, h.completed hsl⟩⟩,
    fun p q d hz hp hq hm henough => ⟨fun hk => ?_, fun hk => ?_, fun hk => by rw [hk]; rfl⟩,
    fun ss k c hk hc => s.view.freshSheds_clears hk hc⟩
  · rw [exec_planRun_of_bound h hr hs hz hp hq, hm]; rfl
  · rw [exec_planRun_of_bound h hr hs hz hp hq, if_pos hm, Dev.runStart_of_few f hfew]
  · rw [exec_planRun_of_bound h hr hs hz hp hq, if_pos hm, Dev.runStart_of_exhausted f henough hk]
  · rw [exec_planRun_of_bound h hr hs hz hp hq, if_pos hm, Dev.runStart_of_swapped f henough hk]; rfl

/-- Settles O30: the row is `stepEnd` once the step is done, by what the step is followed by. -/
theorem planStepEndsWhenEveryShedIsDone : Obligations.PlanStepEndsWhenEveryShedIsDone := by
  intro s f x r p h hr hp
  refine ⟨fun hd => ?_, fun hst hon hsu hga hd => ?_⟩
  · rw [exec_planStepEnd h hr hp, hd, Bool.and_false]; rfl
  · have he : exec (.planStepEnd f) s = s.gives (s.view.stepEnd f r p) := by
      rw [exec_planStepEnd h hr hp, hst, hon, hsu, hga, hd]; rfl
    refine ⟨fun k hk hg => ?_, fun d hb hdl => ?_⟩
    · rw [he, Dev.stepEnd_of_badSeq f hk hg]
    · change d = s.view.endLayer f r p at hdl
      subst hdl
      refine ⟨fun hl => ?_, fun hl hg => ?_, fun k n hl hg => ⟨fun hk hf => ?_, fun hf => ?_⟩⟩
      · rw [he, Dev.stepEnd_of_more f hb hl]
      · rw [he, Dev.stepEnd_of_alone f hb hl hg]
      · rw [he, Dev.stepEnd_of_busy (d := s.view) f hl hg hk hf]
      · rw [he, Dev.stepEnd_of_gather f hb hl hg hf]

end

section
/-! SUPPORT. Settings of a plan: the rows that write one plan's window depth, pinned entries, carry-over, guard thresholds
and fallback budget (R120, R124, R221, R222, R225). -/
namespace Sys2Proof.Machine
open Sys2Proof

/-! ### WINDOW_SET (R221) -/

/-- R221: the window depth in force after WINDOW_SET; a field of 0 asks for the default of 3. -/
def Flight.windowDepth (x : Flight) : Nat := if fld (x.w 3) 0 4 = 0 then 3 else fld (x.w 3) 0 4

theorem exec_windowSet {s : State} {f : Nat} {x : Flight} {p : Plan} {t : LayerTable} (h : Runs s f 0x22 x)
    (hp : s.view.plan? x = some p) (ht : p.table = some t) :
    exec (.windowSet f) s =
      s.gives ((s.view.updPlan x.planKey (fun p => { p with depth := x.windowDepth })).finish f .ok x.windowDepth t.windowMib) := by
  show execWindowSet f s = _
  rw [execWindowSet, h.onDev, hp, Option.bind_some, ht]
  rfl

/-! ### PREFETCH_SCHEDULE (R222) -/

theorem exec_prefetchSchedule {s : State} {f : Nat} {x : Flight} {pad : Paddock} (h : Runs s f 0x23 x)
    (hp : s.dev.pad x.paddock = some pad) (hc : s.dev.poison = []) :
    exec (.prefetchSchedule f) s = s.gives (s.view.prefetch pad f x) := by
  have hv : s.view.pad x.paddock = some pad := hp
  show execPrefetchSchedule f s = _
  rw [execPrefetchSchedule, h.onDev, hv]
  simp only [Dev.poisoned_of_nil (d := s.view) hc]

section
variable {d : Dev} {pad : Paddock} {x : Flight} {p : Plan} (f : Nat) (hp : d.plan? x = some p)
include hp

/-- A count of 0 takes the entries of its kind away. -/
theorem Dev.prefetch_of_empty (h0 : fld (x.w 6) 0 16 = 0) :
    d.prefetch pad f x = (d.updPlan x.planKey (fun q => { q with pinnedNext := KV.del q.pinnedNext (fld (x.w 2) 16 2) })).finish f .ok 0 0 := by
  simp [Dev.prefetch, hp, h0, risingSteps]

/-- Entries that obey Table 11.5, in the order of their issue steps, take the place of those of their kind. -/
theorem Dev.prefetch_of_entries {n : Nat} {bs : List Byte} {os : List Nat} (hn : n = fld (x.w 6) 0 16) (h0 : n ≠ 0)
    (hb : bs = d.hbm.reads (x.d 4) (32 * n)) (ho : os = (List.range n).map (· * 32))
    (hok : os.any (fun o => !d.pinOk pad x.paddock bs o) = false) (hr : risingSteps (os.map (fun o => (readPin bs o).issueStep)) = true) :
    d.prefetch pad f x = (d.updPlan x.planKey (fun q => { q with
      pinnedNext := KV.put q.pinnedNext (fld (x.w 2) 16 2) (os.map (readPin bs)) })).finish f .ok n 0 := by
  rw [Dev.prefetch]
  simp only [← hn, ← hb, ← ho, hok, hr, hp, if_neg h0]
  rfl

end

/-! ### CARRYOVER_SET (R225) -/

/-- R225: the layers of the plan with carry-over on after CARRYOVER_SET. -/
def Flight.carryLayers (x : Flight) (p : Plan) : List Nat :=
  setCarry p.carryOn (fld (x.w 3) 0 16) (fld (x.w 3) 16 16) (bitOf (x.w 4) 0)

theorem exec_carryoverSet {s : State} {f : Nat} {x : Flight} {p : Plan} {t : LayerTable} {pad : Paddock} (h : Runs s f 0x24 x)
    (hp : s.view.plan? x = some p) (ht : p.table = some t) (hpad : s.dev.pad x.paddock = some pad)
    (hg : s.view.carryBad pad x p t = false) :
    exec (.carryoverSet f) s = s.gives ((s.view.updPlan x.planKey (fun q => { q with
      carryOn := x.carryLayers p, carryAddr := some (x.d 5),
      carry := if q.carryAddr = some (x.d 5) then q.carry else [] })).finish f .ok (x.carryLayers p).length 0) := by
  have hv : s.view.pad x.paddock = some pad := hpad
  show execCarryoverSet f s = _
  rw [execCarryoverSet, h.onDev, hv, hp]
  simp only [ht, hg]
  rfl

/-! ### GUARD_POLICY and FALLBACK_BUDGET (R120, R124) -/

/-- R120: the plan with the thresholds of a GUARD_POLICY, each field of 0 standing for its default (Table 6.3). -/
def Flight.guardedPlan (x : Flight) (p : Plan) : Plan :=
  { p with nSat := orDefault (fld (x.w 3) 0 8) 10, nZero := orDefault (fld (x.w 3) 8 8) 6,
           cleanLimit := orDefault (fld (x.w 3) 16 8) 4, rho := orDefault (x.w 4) 0x3FC00000 }

theorem exec_guardPolicy {s : State} {f : Nat} {x : Flight} {p : Plan} (h : Runs s f 0xA0 x) (hp : s.view.plan? x = some p) :
    exec (.guardPolicy f) s = s.gives ((s.view.updPlan x.planKey x.guardedPlan).finish f .ok 0 0) := by
  show execGuardPolicy f s = _
  rw [execGuardPolicy, h.onDev, hp]
  rfl

theorem exec_fallbackBudget {s : State} {f : Nat} {x : Flight} {p : Plan} {t : LayerTable} (h : Runs s f 0xA1 x)
    (hp : s.view.plan? x = some p) (ht : p.table = some t) :
    exec (.fallbackBudget f) s = s.gives ((s.view.updPlan x.planKey (fun p => { p with budgetW3 := fld (x.w 3) 0 16 })).finish f .ok
      (budgetOf (fld (x.w 3) 0 16) t.layers.length) 0) := by
  show execFallbackBudget f s = _
  rw [execFallbackBudget, h.onDev, hp]
  simp only [ht]

end Sys2Proof.Machine
end

section
/-! PROOFS. Settings of a plan. -/
open Sys2Proof Sys2Proof.Machine

/-- Settles O28: each row finds its plan and writes one setting of it; PREFETCH_SCHEDULE first reads its entries, if it
has any. -/
theorem planSettingsReachTheirPlan : Obligations.PlanSettingsReachTheirPlan := by
  intro s f x p t hp ht
  refine ⟨fun h => exec_windowSet h hp ht, fun h h0 hc hpad => ?_, fun pad n bs os h hpad hc hn h0 hb ho hok hr => ?_,
    fun pad h hpad hg => exec_carryoverSet h hp ht hpad hg, fun h => exec_guardPolicy h hp, fun h => exec_fallbackBudget h hp ht⟩
  · obtain ⟨pad, hpad⟩ := Option.isSome_iff_exists.1 hpad
    rw [exec_prefetchSchedule h hpad hc, Dev.prefetch_of_empty f hp h0]
  · rw [exec_prefetchSchedule h hpad hc, Dev.prefetch_of_entries (d := s.view) f hp hn h0 hb ho hok hr]

end

section
/-! SUPPORT. The page list as the E9 writes it: its header fields, its CRC and its two words (R146, R153, R162). -/
namespace Sys2Proof.Machine
open Sys2Proof

/-! ### Byte memories beside a written number -/

theorem Memory.read_writeLE_outside (m : Memory) {a n c : Nat} (v : Nat) (h : c < a ∨ a + n ≤ c) :
    (m.writeLE a n v).read c = m.read c :=
  Memory.read_writes_outside _ _ _ _ (by rwa [length_bytesLE])

theorem Memory.reads_congr {m m' : Memory} : ∀ (n a : Nat), (∀ c, a ≤ c → c < a + n → m.read c = m'.read c) → m.reads a n = m'.reads a n
  | 0, _, _ => rfl
  | n + 1, a, h => congrArg₂ List.cons (h a (Nat.le_refl a) (by omega))
      (Memory.reads_congr n (a + 1) (fun c h1 h2 => h c (by omega) (by omega)))

theorem Memory.reads_writeLE_apart (m : Memory) {a n b k : Nat} (v : Nat) (h : b + k ≤ a ∨ a + n ≤ b) :
    (m.writeLE a n v).reads b k = m.reads b k :=
  Memory.reads_congr k b (fun _ _ _ => Memory.read_writeLE_outside m v (by omega))

theorem Memory.readLE_writeLE_apart (m : Memory) {a n b k : Nat} (v : Nat) (h : b + k ≤ a ∨ a + n ≤ b) :
    (m.writeLE a n v).readLE b k = m.readLE b k :=
  congrArg natLE (Memory.reads_writeLE_apart m v h)

/-- A field of bytes read from memory is read at its own address. -/
theorem leAt_reads (m : Memory) (a : Nat) {off n len : Nat} (h : off + n ≤ len) : leAt (m.reads a len) off n = m.readLE (a + off) n := by
  obtain ⟨k, rfl⟩ := Nat.exists_eq_add_of_le h
  have hoff := Memory.length_reads m off a
  have hn := Memory.length_reads m n (a + off)
  have hs : ((m.reads a (off + n + k)).drop off).take n = m.reads (a + off) n := by
    rw [Nat.add_assoc, Memory.reads_add, Memory.reads_add, List.drop_left' hoff, List.take_left' hn]
  simp [leAt, sliceB, hs, hn, Memory.readLE]

/-! ### CRC-32C -/

theorem crcBit_lt {c : Nat} (h : c < 2 ^ 32) : crcBit c < 2 ^ 32 := by
  have hhalf : c / 2 < 2 ^ 32 := by omega
  unfold crcBit
  split
  · exact Nat.xor_lt_two_pow hhalf (by decide)
  · exact hhalf

theorem crcByte_lt {c : Nat} (b : Byte) (h : c < 2 ^ 32) : crcByte c b < 2 ^ 32 := by
  have hb : b.toNat < 2 ^ 32 := Nat.lt_trans b.isLt (by decide)
  unfold crcByte
  iterate 8 apply crcBit_lt
  exact Nat.xor_lt_two_pow h hb

theorem crc32c_lt (bs : List Byte) : crc32c bs < 2 ^ 32 := by
  have hfold : bs.foldl crcByte 0xFFFFFFFF < 2 ^ 32 :=
    List.foldlRecOn bs crcByte (motive := (· < 2 ^ 32)) (by decide) (fun _ hc b _ => crcByte_lt b hc)
  exact Nat.xor_lt_two_pow hfold (by decide)

/-! ### The list's CRC -/

/-- The device with other bytes in HBM. -/
def Dev.withHbm (d : Dev) (m : Memory) : Dev := { d with hbm := m }

/-- The mask map lies clear of the words that hold GENERATION and CRC. -/
def Dev.maskClear (d : Dev) (q : Seq) : Prop :=
  hMaskAddr (d.hdr q) + maskBytes (d.hdr q) q.maxBlocks ≤ q.list ∨ q.list + 8 ≤ hMaskAddr (d.hdr q)

section
variable (d : Dev) {q : Seq} {a n : Nat} (v : Nat) (hn : a + n ≤ q.list + 8)
include hn

/-- The mask map's fields of the header lie past those two words. -/
theorem Dev.hMaskAddr_writeLE : hMaskAddr ((d.withHbm (d.hbm.writeLE a n v)).hdr q) = hMaskAddr (d.hdr q) := by
  simp only [hMaskAddr, Dev.hdr, Dev.withHbm, leAt_reads _ _ (show 24 + 8 ≤ 256 by decide)]
  exact Memory.readLE_writeLE_apart _ _ (by omega)

theorem Dev.maskBytes_writeLE (k : Nat) : maskBytes ((d.withHbm (d.hbm.writeLE a n v)).hdr q) k = maskBytes (d.hdr q) k := by
  have hw : hMaskWords ((d.withHbm (d.hbm.writeLE a n v)).hdr q) = hMaskWords (d.hdr q) := by
    simp only [hMaskWords, w32, Dev.hdr, Dev.withHbm, leAt_reads _ _ (show 20 + 4 ≤ 256 by decide)]
    rw [Memory.readLE_writeLE_apart _ _ (by omega)]
  rw [maskBytes, hw, maskBytes]

theorem Dev.maskClear_writeLE (hm : d.maskClear q) : (d.withHbm (d.hbm.writeLE a n v)).maskClear q := by
  rwa [Dev.maskClear, Dev.hMaskAddr_writeLE d v hn, Dev.maskBytes_writeLE d v hn]

/-- R153: the CRC covers neither of the two words. -/
theorem Dev.listCrc_writeLE (ha : q.list ≤ a) (hm : d.maskClear q) : (d.withHbm (d.hbm.writeLE a n v)).listCrc q = d.listCrc q := by
  simp only [Dev.listCrc, Dev.hMaskAddr_writeLE d v hn, Dev.maskBytes_writeLE d v hn]
  rw [Dev.withHbm, Memory.reads_writeLE_apart _ _ (by omega), Memory.reads_writeLE_apart _ _ (by unfold Dev.maskClear at hm; omega)]

end

/-! ### A sealed list (R153) -/

/-- The GENERATION that a list is sealed with. -/
def Seq.sealGen (q : Seq) (bump : Bool) : Nat := if bump then (q.gen + 1) % 2 ^ 32 else q.gen
/-- The CRC that a list is sealed with: it is taken once GENERATION is written. -/
def Dev.sealCrc (d : Dev) (q : Seq) (bump : Bool) : Nat := (d.withHbm (d.hbm.writeLE q.list 4 (q.sealGen bump))).listCrc q
/-- The bytes of HBM once a list is sealed. -/
def Dev.sealHbm (d : Dev) (q : Seq) (bump : Bool) : Memory :=
  (d.hbm.writeLE q.list 4 (q.sealGen bump)).writeLE (q.list + 4) 4 (d.sealCrc q bump)

theorem Dev.sealList_of_find {d : Dev} {k : Nat} {q : Seq} (bump : Bool) (h : KV.find d.seqs k = some q) :
    d.sealList k bump = (d.withHbm (d.sealHbm q bump)).updSeq k (fun r => { r with gen := q.sealGen bump, crc := d.sealCrc q bump }) := by
  simp only [Dev.sealList, h]
  rfl

theorem Dev.sealList_hbm {d : Dev} {k : Nat} {q : Seq} (bump : Bool) (h : KV.find d.seqs k = some q) :
    (d.sealList k bump).hbm = d.sealHbm q bump := by
  rw [Dev.sealList_of_find bump h]; rfl

theorem Dev.sealHbm_read_outside (d : Dev) {q : Seq} (bump : Bool) {a : Nat} (h : a < q.list ∨ q.list + 8 ≤ a) :
    (d.sealHbm q bump).read a = d.hbm.read a := by
  rw [Dev.sealHbm, Memory.read_writeLE_outside _ _ (by omega), Memory.read_writeLE_outside _ _ (by omega)]

theorem Dev.sealHbm_readLE_outside (d : Dev) {q : Seq} (bump : Bool) {a n : Nat} (h : a + n ≤ q.list ∨ q.list + 8 ≤ a) :
    (d.sealHbm q bump).readLE a n = d.hbm.readLE a n := by
  rw [Dev.sealHbm, Memory.readLE_writeLE_apart _ _ (by omega), Memory.readLE_writeLE_apart _ _ (by omega)]

theorem Dev.sealHbm_gen (d : Dev) (q : Seq) (bump : Bool) : (d.sealHbm q bump).readLE q.list 4 = q.sealGen bump % 2 ^ 32 := by
  rw [Dev.sealHbm, Memory.readLE_writeLE_apart _ _ (by omega), Memory.readLE_writeLE]
  rfl

theorem Dev.sealHbm_crc (d : Dev) (q : Seq) (bump : Bool) : (d.sealHbm q bump).readLE (q.list + 4) 4 = d.sealCrc q bump := by
  rw [Dev.sealHbm, Memory.readLE_writeLE]
  exact Nat.mod_eq_of_lt (crc32c_lt _)

/-- The CRC of the list stays what it was when CRC is written, with the mask map clear of the two words. -/
theorem Dev.listCrc_sealHbm {d : Dev} {q : Seq} (bump : Bool) (hm : d.maskClear q) :
    (d.withHbm (d.sealHbm q bump)).listCrc q = d.sealCrc q bump :=
  Dev.listCrc_writeLE (d.withHbm (d.hbm.writeLE q.list 4 (q.sealGen bump))) _ (by omega) (by omega)
    (Dev.maskClear_writeLE d _ (by omega) hm)

@[simp] theorem Dev.sealList_flights (d : Dev) (k : Nat) (bump : Bool) : (d.sealList k bump).flights = d.flights := by
  unfold Dev.sealList; split <;> rfl
@[simp] theorem Dev.sealList_queue (d : Dev) (k : Nat) (bump : Bool) (j : Nat) : (d.sealList k bump).queue j = d.queue j := by
  unfold Dev.sealList; split <;> rfl

end Sys2Proof.Machine
end

section
/-! PROOFS. The page list. -/
open Sys2Proof Sys2Proof.Machine

/-- Settles O33: neither word that `sealList` writes is in what its CRC covers, so the record's GENERATION and CRC are the
list's own. -/
theorem writtenListIsInOrder : Obligations.WrittenListIsInOrder := by
  intro d k q hq hmask
  have hm : d.maskClear q := hmask _ rfl
  refine ⟨{ q with gen := q.sealGen true, crc := d.sealCrc q true }, ?_, ?_, rfl, fun a ha => ?_⟩
  · simp [Dev.sealList_of_find true hq, Dev.withHbm, KV.find_upd_same, hq]
  · have hgen : (d.sealHbm q true).readLE q.list 4 = q.sealGen true := (d.sealHbm_gen q true).trans (Nat.mod_mod _ _)
    have hcrc : (d.withHbm (d.sealHbm q true)).listCrc q = d.sealCrc q true := Dev.listCrc_sealHbm true hm
    rw [Dev.sealList_of_find true hq, Dev.listOk, Bool.and_eq_true, Bool.and_eq_true, beq_iff_eq, beq_iff_eq, beq_iff_eq]
    exact ⟨⟨hgen, d.sealHbm_crc q true⟩, hcrc⟩
  · rw [Dev.sealList_hbm true hq]
    exact d.sealHbm_read_outside true ha

end

section
/-! SUPPORT. The rows that make, move and end a sequence (R148 to R150, R152, R162). -/
namespace Sys2Proof.Machine
open Sys2Proof

/-! ### The sequence a command names -/

section
variable {s : State} {f op : Nat} {x : Flight} {k : Nat} {q : Seq} (h : Runs s f op x)
variable (hk : k = padKey x.paddock (fld (x.w 2) 0 16)) (hq : KV.find s.dev.seqs k = some q) (g : Flight → Nat → Seq → Dev)
include h hk hq

theorem Runs.onSeq (hs : q.stale = false ∨ op = 0x46) : s.view.onSeq f op g = g x k q := by
  subst hk
  have hgo : (q.stale && op != 0x46) = false := by rcases hs with hs | hs <;> simp [hs]
  rw [Dev.onSeq, h.onFlight]
  simp [hq, hgo]

/-- R162: the commands of a STALE sequence, SEQ_DROP apart, end with ST_STALE_TABLE. -/
theorem Runs.onSeq_of_stale (hs : q.stale = true) (hop : op ≠ 0x46) : s.view.onSeq f op g = s.view.finish f .staleTable 0 0 := by
  subst hk
  rw [Dev.onSeq, h.onFlight]
  simp [hq, hs, hop]

theorem Runs.stale_completed (hf : SlotFree s.dev x) (hs : q.stale = true) (hop : op ≠ 0x46) :
    ∃ t, s.gives (s.view.onSeq f op g) = s.gives t ∧ Completed s.dev t f x .staleTable 0 0 :=
  ⟨_, congrArg s.gives (h.onSeq_of_stale hk hq g hs hop), h.completed hf⟩

end

/-! ### POOL_SET (R148) -/

/-- The pool that a POOL_SET names, with nothing taken from it. -/
def Flight.newPool (x : Flight) : Pool :=
  { base := x.d 4, pages := x.d 6 / pageBytes, swapBase := x.d 8, swapSlots := x.d 10 / pageBytes, policy := fld (x.w 12) 0 4,
    refs := [], swapUsed := [] }

section
variable {s : State} {f : Nat} {x : Flight} {p : Paddock} (h : Runs s f 0x47 x) (hp : s.dev.pad x.paddock = some p)
include h hp

theorem exec_poolSet_of_unused (hu : s.view.seqs.vals.any (fun q => q.paddock == x.paddock) = false) :
    exec (.poolSet f) s = s.gives ((s.view.setPad x.paddock { p with pool := some x.newPool }).finish f .ok
      (x.newPool.pages % 2 ^ 32) (x.newPool.swapSlots % 2 ^ 32)) := by
  show execPoolSet f s = _
  rw [execPoolSet, h.onDev]
  simp only [State.view_pad, hp, hu]
  rfl

theorem exec_poolSet_of_used (hu : s.view.seqs.vals.any (fun q => q.paddock == x.paddock) = true) :
    exec (.poolSet f) s = s.gives (s.view.finish f .badParam 0 0) := by
  show execPoolSet f s = _
  rw [execPoolSet, h.onDev]
  simp only [State.view_pad, hp, hu, if_true]

end

/-! ### SEQ_CREATE (R150) -/

/-- The device with the sequence `q` entered under `k`: the pages of its own copy taken, its entries cleared and TOKENS at 0. -/
def Dev.created (d : Dev) (k : Nat) (q : Seq) : Dev :=
  { (d.takePages q.paddock q.privPages).1 with
    seqs := KV.put (d.takePages q.paddock q.privPages).1.seqs k { q with gen := 0, priv := (d.takePages q.paddock q.privPages).2 },
    hbm := ((d.takePages q.paddock q.privPages).1.hbm.clear (q.list + 256) (4 * q.entries)).writeLE (q.list + 8) 4 0 }

theorem exec_seqCreate {s : State} {f : Nat} {x : Flight} {q : Seq} {pl : Pool} (h : Runs s f 0x40 x) (hq : q = x.newSeq s.dev.gtc.val)
    (hpl : s.view.pool q.paddock = some pl) (hnew : KV.has s.dev.seqs (padKey q.paddock q.handle) = false)
    (hhdr : hdrOk (s.view.hdr q) = true) (hhits : s.view.listHits q.paddock q.list q.listBytes = false)
    (hstage : overlaps q.list q.listBytes (hRemote (s.view.hdr q)) (stagingBytes (s.view.hdr q) q.groups) = false)
    (hmask : overlaps q.list q.listBytes (hMaskAddr (s.view.hdr q)) (maskBytes (s.view.hdr q) q.maxBlocks) = false)
    (hroom : (KV.keep s.dev.seqs (fun _ v => v.paddock == q.paddock)).length < 4096) (hfree : q.privPages ≤ pl.freePages) :
    exec (.seqCreate f) s = s.gives (((s.view.created (padKey q.paddock q.handle) q).sealList (padKey q.paddock q.handle) true).finish
      f .ok (q.entries % 2 ^ 32) 0) := by
  subst hq
  show execSeqCreate f s = _
  rw [execSeqCreate, h.onDev]
  simp only [State.view_gtc, State.view_seqs, hpl, hnew, hhdr, hhits, hstage, hmask, Nat.not_le.2 hroom, Nat.not_lt.2 hfree,
    Bool.or_false, Bool.not_true, decide_false, Bool.false_eq_true, if_false]
  rfl

/-! ### SEQ_SWAP_OUT, SEQ_SWAP_IN (R152) -/

theorem Dev.swapOut_count (d : Dev) (k : Nat) (q : Seq) : (d.swapOut k q).2 = (d.ownEntries q).length := by
  unfold Dev.swapOut
  dsimp only
  split
  next he => rw [List.isEmpty_iff.1 he]; rfl
  next => rfl

theorem Dev.swapIn_of_none_swapped {d : Dev} {q : Seq} (id k : Nat) (bump : Bool) (h : d.swapEntries q = []) :
    d.swapIn id k q bump = some (d, 0) := by
  simp [Dev.swapIn, h]

section
variable {s : State} {f : Nat} {x : Flight} {k : Nat} {q : Seq}
variable (hk : k = padKey x.paddock (fld (x.w 2) 0 16)) (hq : KV.find s.dev.seqs k = some q) (hs : q.stale = false)
include hk hq hs

theorem exec_seqSwapOut_of_full (h : Runs s f 0x44 x) (mf : MemFault)
    (hroom : (s.view.pool q.paddock).elim 0 Pool.freeSlots < (s.view.ownEntries q).length) :
    exec (.seqSwapOut f mf) s = s.gives (s.view.finish f .badParam 0 0) :=
  (congrArg s.gives (h.onSeq hk hq _ (.inl hs))).trans (congrArg s.gives (if_pos hroom))

theorem exec_seqSwapOut_of_room (h : Runs s f 0x44 x) (hp : s.dev.poison = [])
    (hroom : (s.view.ownEntries q).length ≤ (s.view.pool q.paddock).elim 0 Pool.freeSlots) :
    exec (.seqSwapOut f .none) s = s.gives ((s.view.swapOut k q).1.settle f .ok (s.view.swapOut k q).2 0) :=
  (congrArg s.gives (h.onSeq hk hq _ (.inl hs))).trans
    (congrArg s.gives ((if_neg (Nat.not_lt.2 hroom)).trans (Dev.withReads_of_clean _ _ rfl hp)))

/-- What a SEQ_SWAP_IN does with the pages that `swapIn` brought back. -/
def Dev.swappedIn (d : Dev) (f : Nat) : Option (Dev × Nat) → Dev
  | none => d.finish f .pageExhausted 0 0
  | some z => z.1.settle f .ok z.2 0

theorem exec_seqSwapIn (h : Runs s f 0x45 x) :
    exec (.seqSwapIn f .none) s = s.gives (s.view.swappedIn f (s.view.swapIn f k q true)) :=
  congrArg s.gives (h.onSeq hk hq _ (.inl hs))

end

/-! ### SEQ_DROP (R152) -/

theorem Dev.dropRefs_eq (pad : Nat) : ∀ (is : List Nat) (d : Dev), ∃ ps, is.foldl (fun d i => d.dropRef pad i) d = { d with pads := ps }
  | [], d => ⟨d.pads, rfl⟩
  | i :: is, d => Dev.dropRefs_eq pad is (d.dropRef pad i)

/-- A dropped sequence leaves its table; of the rest only its paddock's pool differs. -/
theorem Dev.dropSeq_eq {d : Dev} {k : Nat} {q : Seq} (h : KV.find d.seqs k = some q) :
    ∃ ps, d.dropSeq k = { d with pads := ps, seqs := KV.del d.seqs k } := by
  obtain ⟨ps, hps⟩ := Dev.dropRefs_eq q.paddock (q.held ++ q.priv) d
  simp only [Dev.dropSeq, h, hps]
  exact ⟨_, rfl⟩

/-- The pages that a drop of sequence `k` frees in a paddock's pool. -/
def Dev.freedBy (d : Dev) (pad k : Nat) : Nat :=
  ((d.dropSeq k).pool pad).elim 0 Pool.freePages - (d.pool pad).elim 0 Pool.freePages

theorem exec_seqDrop {s : State} {f : Nat} {x : Flight} {k : Nat} {q : Seq} (h : Runs s f 0x46 x)
    (hk : k = padKey x.paddock (fld (x.w 2) 0 16)) (hq : KV.find s.dev.seqs k = some q) :
    exec (.seqDrop f) s = s.gives ((s.view.dropSeq k).finish f .ok (s.view.freedBy x.paddock k) 0) :=
  congrArg s.gives (h.onSeq hk hq _ (.inr rfl))

/-! ### The use that a command leaves of its sequences (R165) -/

/-- The sequences once command `x` has noted that it used them. -/
def Flight.noteUse (x : Flight) (gtc : DWord) (t : KV Seq) : KV Seq :=
  x.seqKeys.foldl (fun t k => KV.upd t k (fun q => { q with lastUse := gtc, lastQueue := x.queue })) t

theorem Flight.find_noteUse_other (x : Flight) (gtc : DWord) (t : KV Seq) {j : Nat} (h : j ∉ x.seqKeys) :
    KV.find (x.noteUse gtc t) j = KV.find t j :=
  List.foldlRecOn x.seqKeys _ (motive := fun u => KV.find u j = KV.find t j) rfl
    (fun _ hu _ hk => (KV.find_upd_other _ _ (ne_of_mem_of_not_mem hk h).symm).trans hu)

theorem Flight.find_noteUse_none (x : Flight) (gtc : DWord) (t : KV Seq) {j : Nat} (h : KV.find t j = none) :
    KV.find (x.noteUse gtc t) j = none := by
  refine List.foldlRecOn x.seqKeys _ (motive := fun u => KV.find u j = none) h (fun u hu k _ => ?_)
  by_cases hjk : j = k
  · rw [hjk] at hu ⊢
    rw [KV.find_upd_same, hu]; rfl
  · rw [KV.find_upd_other _ _ hjk, hu]

@[simp] theorem Dev.coalesce_seqs (d : Dev) (n v : Nat) : (d.coalesce n v).seqs = d.seqs := by
  have hraise : ∀ e : Dev, (e.raise n v).seqs = e.seqs := fun e => by
    unfold Dev.raise
    split
    · rfl
    · dsimp only; split <;> rfl
  unfold Dev.coalesce
  dsimp only
  split
  · exact hraise _
  · rfl

theorem Dev.leave_seqs (d : Dev) (id : Nat) (x : Flight) : (d.leave id x).seqs = x.noteUse d.gtc.val d.seqs := by
  unfold Dev.leave
  dsimp only
  split <;> rfl

theorem Dev.writeEntry_seqs (d : Dev) (id : Nat) (x : Flight) : (d.writeEntry id x).seqs = x.noteUse d.gtc.val d.seqs := by
  have hx : (d.fallbackFlag x).noteUse = x.noteUse := by
    unfold Dev.fallbackFlag
    split <;> rfl
  unfold Dev.writeEntry
  dsimp only
  split
  · rw [Dev.leave_seqs, hx]; rfl
  · rw [Dev.coalesce_seqs, Dev.leave_seqs, hx]; rfl

/-- A command that ends with its entry written touches of the sequences only what it used. -/
theorem Dev.finish_seqs {d : Dev} {f : Nat} {x : Flight} {st : Status} (a b : Nat) (h : KV.find d.flights f = some x)
    (hp : x.phase ≠ .finished) (hs : SlotFree d x) (hst : st ≠ .internal) :
    (d.finish f st a b).seqs = x.noteUse d.gtc.val d.seqs := by
  obtain ⟨hspace, hwait⟩ := hs
  have ht : (d.queue (d.runFlags f (x.verdict st a b)).queue).takes = true := by simp [Queue.takes, Flight.verdict, hspace, hwait]
  rw [Dev.finish_of_unfinished st a b h hp, Dev.postInternal_of_ne d f x.tag hst, Dev.retire_of_takes f ht, Dev.writeEntry_seqs]
  rfl

/-- R42: a SEQ_DROP names one sequence. -/
theorem Flight.seqKeys_of_drop {x : Flight} (h : x.opcode = 0x46) : x.seqKeys = [padKey x.paddock (fld (x.w 2) 0 16)] := by
  simp [Flight.seqKeys, Flight.seqHandles, h]

end Sys2Proof.Machine
end

section
/-! PROOFS. Sequences come and go. -/
open Sys2Proof Sys2Proof.Machine

/-- Settles O34: each row is its operation on the pool or on the sequence it names; a drop leaves the other sequences as
they are, since its end notes the use of the dropped one alone. -/
theorem sequencesComeAndGo : Obligations.SequencesComeAndGo := by
  intro s f x p hp hf
  refine ⟨fun h hu => ?_, fun h hu => ?_, fun q pl h hq hpl hnew hhdr hhits hstage hmask hroom hfree => ?_,
    fun k q hk hq => ⟨fun hs h => ⟨fun hroom mf => ?_, fun hroom hclean => ⟨?_, s.view.swapOut_count k q⟩⟩,
      fun hs h => ⟨fun hz => ?_, fun z hz => ?_, fun hz => ?_⟩, fun h => ?_⟩⟩
  · exact ⟨_, exec_poolSet_of_unused h hp hu, h.completed hf, ⟨_, Dev.setPad_finish_pad_same _ _ _ _ _ _ _, rfl, rfl, rfl, rfl, rfl, rfl, rfl⟩,
      Dev.finish_hbm _ _ _ _ _⟩
  · exact ⟨_, exec_poolSet_of_used h hp hu, h.completed hf, Dev.view_finish_keeps s _ _ _ _⟩
  · exact exec_seqCreate h hq hpl hnew hhdr hhits hstage hmask hroom hfree
  · exact ⟨_, exec_seqSwapOut_of_full hk hq hs h mf hroom, h.completed hf, Dev.view_finish_keeps s _ _ _ _⟩
  · exact exec_seqSwapOut_of_room hk hq hs h hclean hroom
  · refine ⟨s.view.finish f .pageExhausted 0 0, ?_, h.completed hf, Dev.view_finish_keeps s _ _ _ _⟩
    rw [exec_seqSwapIn hk hq hs h, hz]; rfl
  · rw [exec_seqSwapIn hk hq hs h, hz]; rfl
  · refine ⟨s.view.settle f .ok 0 0, ?_, Dev.settle_moving _ _ _ _ _ _ h.1, rfl⟩
    rw [exec_seqSwapIn hk hq hs h, Dev.swapIn_of_none_swapped f k true hz]; rfl
  · obtain ⟨ps, hd⟩ := Dev.dropSeq_eq (d := s.view) hq
    have hseqs := Dev.finish_seqs (d := s.view.dropSeq k) (s.view.freedBy x.paddock k) 0 (st := .ok) (by rw [hd]; exact h.1)
      h.unfinished (by rw [hd]; exact hf) (by decide)
    have hkeys : x.seqKeys = [k] := hk ▸ Flight.seqKeys_of_drop h.2.2
    refine ⟨_, exec_seqDrop h hk hq, (h.completed hf (by rw [hd]; rfl) (by rw [hd]; rfl)).1, ?_, fun j hj => ?_, ?_⟩
    · rw [hseqs, hd]
      exact Flight.find_noteUse_none _ _ _ (KV.find_del_same _ _)
    · rw [hseqs, hd, Flight.find_noteUse_other _ _ _ (by simpa [hkeys] using hj)]
      exact KV.find_del_other _ hj
    · rw [Dev.finish_hbm, hd]; rfl

end

section
/-! SUPPORT. The rows that grow, verify and edit a sequence (R151, R162, R163, R168). -/
namespace Sys2Proof.Machine
open Sys2Proof

section
variable {s : State} {f : Nat} {x : Flight} {k : Nat} {q : Seq}
variable (hk : k = padKey x.paddock (fld (x.w 2) 0 16)) (hq : KV.find s.dev.seqs k = some q) (hs : q.stale = false)
include hk hq hs

theorem exec_seqAppend (h : Runs s f 0x41 x) (mf : MemFault) :
    exec (.seqAppend f mf) s = s.gives (s.view.seqAppend s.nv f x mf k q) :=
  congrArg s.gives (h.onSeq hk hq _ (.inl hs))

theorem exec_seqVerify {p : Paddock} (h : Runs s f 0x42 x) (hp : s.dev.pad x.paddock = some p) (mf : MemFault) :
    exec (.seqVerify f mf) s = s.gives (s.view.seqVerify s.nv p f x mf k q) := by
  show execSeqVerify f mf s = _
  rw [execSeqVerify, onDevR_gives, h.onSeq hk hq _ (.inl hs)]
  simp only [State.view_pad, hp]

end

/-! ### SEQ_APPEND (R151) -/

section
variable {d : Dev} {x : Flight} {q : Seq} (nv : NonVol) (f k : Nat)

theorem Dev.seqAppend_of_zero (mf : MemFault) (hn : x.w 3 = 0) : d.seqAppend nv f x mf k q = d.finish f .empty 0 0 :=
  if_pos hn

theorem Dev.seqAppend_of_long (mf : MemFault) (hn : x.w 3 ≠ 0) (hl : q.maxBlocks * 256 < hTokens (d.hdr q) + x.w 3) :
    d.seqAppend nv f x mf k q = d.finish f .badParam 0 0 :=
  (if_neg hn).trans (if_pos hl)

theorem Dev.makeRoom_zero (pad prio : Nat) (h : (d.pool pad).isSome = true) : d.makeRoom pad k prio 0 = some (d, 0) := by
  obtain ⟨p, hp⟩ := Option.isSome_iff_exists.1 h
  simp [Dev.makeRoom, hp]

/-- R151: an append without a source, over entries that all hold a page, takes none and only raises TOKENS. -/
theorem Dev.seqAppend_of_filled (hn : x.w 3 ≠ 0) (hl : hTokens (d.hdr q) + x.w 3 ≤ q.maxBlocks * 256) (hsrc : x.d 4 = 0)
    (hp : (d.pool q.paddock).isSome = true)
    (hfull : ∀ a ∈ q.blockAddrs (hTokens (d.hdr q) / 256) (appendBlocks (hTokens (d.hdr q)) (x.w 3)).length, eKind (d.ent a) ≠ 0) :
    d.seqAppend nv f x .none k q =
      ((d.withHbm (d.hbm.writeLE (q.list + 8) 4 (hTokens (d.hdr q) + x.w 3))).sealList k true).finish f .ok 0 0 := by
  have hnone : (q.blockAddrs (hTokens (d.hdr q) / 256) (appendBlocks (hTokens (d.hdr q)) (x.w 3)).length).filter
      (fun a => eKind (d.ent a) == 0) = [] := by simpa using hfull
  have hreads : d.appendReads x q = [] := if_pos hsrc
  rw [Dev.seqAppend, if_neg hn, if_neg (Nat.not_lt.2 hl), hreads]
  simp [Dev.withReads, Dev.makeRoom_zero k _ _ hp, hsrc, hnone, Dev.withHbm]

end

/-! ### SEQ_VERIFY (R167 to R169) -/

/-- The entries of a verification's candidate table. -/
def Dev.candidates (d : Dev) (x : Flight) : List (List Byte) :=
  (List.range (fld (x.w 3) 0 4)).map (fun i => d.hbm.reads (x.d 4 + 32 * i) 32)

section
variable {d : Dev} {p : Paddock} {x : Flight} {q : Seq} (nv : NonVol) (f k : Nat)
variable (hin : (d.candidates x).any (fun e => !d.hbmOk p (leAt e 8 8) (candBytes e) || !d.hbmOk p (leAt e 16 8) (candBytes e)) = false)
variable (hgood : (d.candidates x).any candBad = false)
include hin hgood

/-- R162: a list that is not what the E9 keeps makes the sequence STALE. -/
theorem Dev.seqVerify_of_unordered (mf : MemFault) (hl : d.listOk q = false) :
    d.seqVerify nv p f x mf k q = (d.markStale k).finish f .staleTable 0 0 := by
  unfold Dev.candidates at hin hgood
  simp [Dev.seqVerify, hin, hgood, hl]

/-- What a verification leaves before its pages are sent: the accepted blocks committed and the list sealed. -/
def Dev.verified (d : Dev) (k : Nat) (q : Seq) (best : Nat × Nat) : Dev :=
  (d.commit k q (hTokens (d.hdr q)) best.1 best.2).sealList k (best.1 != 0 || q.branchAddrs.any (fun a => eKind (d.ent a) != 0))

/-- How a verification ends once its pages are sent: with the status of a peer that cannot be reached, or a verdict. -/
def verifyEnd (f : Nat) (best : Nat × Nat) (y : Dev × Option Status) : Dev :=
  match y.2 with
  | some st => y.1.finish f st best.1 (if best.1 = 0 then 0xFFFFFFFF else best.2)
  | none => y.1.settle f .ok best.1 (if best.1 = 0 then 0xFFFFFFFF else best.2)

theorem Dev.seqVerify_of_ordered (hl : d.listOk q = true) (hp : d.poison = []) {best : Nat × Nat}
    (hb : best = bestCand ((d.candidates x).map d.accepted) 0 (0, 0)) (hfit : hTokens (d.hdr q) + best.1 ≤ q.maxBlocks * 256)
    (hnone : d.swapEntries q = []) :
    d.seqVerify nv p f x .none k q =
      verifyEnd f best ((d.verified k q best).sendPages f q (appendBlocks (hTokens (d.hdr q)) best.1) (fld (x.w 6) 0 24)) := by
  have hread (go : Dev → Dev) : d.withReads nv f .none (d.verifyReads x) go = go d := Dev.withReads_of_clean _ _ rfl hp
  unfold Dev.candidates at hin hgood hb
  simp only [Dev.seqVerify, hin, hgood, hl, hread, ← hb, Nat.not_lt.2 hfit, Dev.swapIn_of_none_swapped f k false hnone,
    bne_self_eq_false, Bool.or_false, Bool.not_true, Bool.false_eq_true, if_false]
  rfl

end

/-! ### SEQ_PAGES_EDIT (R163) -/

/-- How a SEQ_PAGES_EDIT ends with what its edits give. -/
def Dev.editEnd (d : Dev) (f k : Nat) (q : Seq) : EditRes → Dev
  | .bad => d.finish f .badParam 0 0
  | .busy => d.finish f .seqBusy 0 0
  | .ok d => (d.sealList k true).finish f .ok ((q.gen + 1) % 2 ^ 32) 0

theorem exec_seqPagesEdit {s : State} {f : Nat} {x : Flight} {p : Paddock} {k : Nat} {q : Seq} (h : Runs s f 0x43 x)
    (hp : s.dev.pad x.paddock = some p) (hk : k = padKey x.paddock (fld (x.w 2) 0 16)) (hq : KV.find s.dev.seqs k = some q)
    (hs : q.stale = false) (hclean : s.dev.poison = []) :
    exec (.seqPagesEdit f .none) s = s.gives (s.view.editEnd f k q
      (s.view.applyEdits p x k q ((List.range (x.w 6)).map (fun i => s.dev.hbm.reads (x.d 4 + 16 * i) 16)))) := by
  have hp' : s.view.pad x.paddock = some p := hp
  show execSeqPagesEdit f .none s = _
  rw [execSeqPagesEdit, onDevR_gives, h.onSeq hk hq _ (.inl hs), hp']
  exact congrArg s.gives (Dev.withReads_of_clean _ _ rfl hclean)

end Sys2Proof.Machine
end

section
/-! PROOFS. Sequences grow and are edited. -/
open Sys2Proof Sys2Proof.Machine

/-- Settles O35: each row is its operation on the sequence it names, unless that is STALE. -/
theorem sequencesGrowAndAreEdited : Obligations.SequencesGrowAndAreEdited := by
  intro s f x p k q hp hf hk hq
  refine ⟨fun hs h => ⟨fun hn mf => ?_, fun hn hl mf => ?_, fun hn hl hsrc hpool hfull => ?_⟩, fun hs h es hes hin hgood => ?_,
    fun hs hclean h r hr => ?_, fun hs mf => ⟨fun h => ?_, fun h => ?_, fun h => ?_, fun h => ?_, fun h => ?_⟩⟩
  · exact ⟨_, (exec_seqAppend hk hq hs h mf).trans (congrArg s.gives (Dev.seqAppend_of_zero _ _ _ _ hn)), h.completed hf,
      Dev.view_finish_keeps s _ _ _ _⟩
  · exact ⟨_, (exec_seqAppend hk hq hs h mf).trans (congrArg s.gives (Dev.seqAppend_of_long _ _ _ _ hn hl)), h.completed hf,
      Dev.view_finish_keeps s _ _ _ _⟩
  · have hfind : KV.find (s.view.withHbm (s.view.hbm.writeLE (q.list + 8) 4 (hTokens (s.view.hdr q) + x.w 3))).seqs k = some q := hq
    refine ⟨_, (exec_seqAppend hk hq hs h .none).trans (congrArg s.gives (Dev.seqAppend_of_filled _ _ _ hn hl hsrc hpool hfull)),
      h.completed hf (Dev.sealList_flights _ _ _) (Dev.sealList_queue _ _ _ _), ?_, fun a ha => ?_⟩
    · rw [Dev.finish_hbm, Dev.sealList_hbm true hfind, Dev.sealHbm_readLE_outside _ _ (.inr (Nat.le_refl _))]
      exact Memory.readLE_writeLE _ _ _ _
    · rw [Dev.finish_hbm, Dev.sealList_hbm true hfind, Dev.sealHbm_read_outside _ _ (by omega)]
      exact Memory.read_writeLE_outside _ _ (by omega)
  · subst hes
    refine ⟨fun hl mf => ?_, fun hl hclean best hbest hfit hnone y hy => ?_⟩
    · rw [exec_seqVerify hk hq hs h hp, Dev.seqVerify_of_unordered (d := s.view) _ _ _ hin hgood mf hl]
    · have he : exec (.seqVerify f .none) s = s.gives (verifyEnd f best y) := by
        rw [exec_seqVerify hk hq hs h hp, Dev.seqVerify_of_ordered (d := s.view) _ _ _ hin hgood hl hclean hbest hfit hnone, hy]; rfl
      refine ⟨fun hy2 => ?_, fun st hy2 => ?_⟩
      · rw [he, verifyEnd, hy2]
      · rw [he, verifyEnd, hy2]
  · subst hr
    have he := exec_seqPagesEdit h hp hk hq hs hclean
    refine ⟨fun d hd => ?_, fun hb => ⟨s.view.finish f .badParam 0 0, ?_, h.completed hf, Dev.view_finish_keeps s _ _ _ _⟩,
      fun hb => ⟨s.view.finish f .seqBusy 0 0, ?_, h.completed hf, Dev.view_finish_keeps s _ _ _ _⟩⟩
    · rw [he, hd]; rfl
    · rw [he, hb]; rfl
    · rw [he, hb]; rfl
  all_goals exact h.stale_completed hk hq _ hf hs (by decide)

end

section
/-! SUPPORT. Media streams: what opens one, what the end of a command leaves of them, and how one closes (R189, R196, R200,
R205, R210). -/
namespace Sys2Proof.Machine
open Sys2Proof

/-! ### Handles (R189) -/

/-- What is picked of several free things is one of them. -/
theorem mem_of_pickOf {seed h : Nat} : ∀ {l : List Nat}, pickOf seed l = some h → h ∈ l
  | [], hp => nomatch hp
  | [a], hp => by
    rw [pickOf, Option.some.injEq] at hp
    exact hp ▸ List.mem_singleton_self a
  | a :: b :: t, hp => by
    have hlt : Config.pick seed % (t.length + 2) < (a :: b :: t).length := Nat.mod_lt _ (Nat.succ_pos _)
    rw [pickOf, Option.some.injEq, List.getD_eq_getElem _ _ hlt] at hp
    exact hp ▸ List.getElem_mem hlt

theorem Dev.newStream_spec {d : Dev} {enc : Bool} {h : Nat} (hn : d.newStream enc = some h) :
    (if enc then 0 else 32) ≤ h ∧ h < (if enc then 0 else 32) + 32 ∧ KV.has d.streams h = false := by
  have hm := mem_of_pickOf hn
  simp only [rangeFrom, List.mem_filter, List.mem_map, List.mem_range, Bool.not_eq_true'] at hm
  obtain ⟨⟨i, hi, rfl⟩, hfree⟩ := hm
  exact ⟨by omega, by omega, hfree⟩

/-! ### What the end of a command leaves of the streams -/

/-- The streams once command `f`, whose entry is `x`, has its verdict: it waits in none, and none waits for it to close. -/
def Dev.streamsWithout (d : Dev) (f : Nat) (x : Flight) : KV Stream :=
  KV.mapV (leaveStreams d.streams d.flights f x) (fun _ q => if q.closing = some f then { q with closing := none } else q)

/-- The flag of R126 is no part of what says which stream the command leaves. -/
theorem Dev.streamsWithout_fallbackFlag (d : Dev) (f : Nat) (x : Flight) : d.streamsWithout f (d.fallbackFlag x) = d.streamsWithout f x := by
  unfold Dev.fallbackFlag
  split <;> rfl

@[simp] theorem Dev.coalesce_streams (d : Dev) (n v : Nat) : (d.coalesce n v).streams = d.streams := by
  have hraise : ∀ e : Dev, (e.raise n v).streams = e.streams := fun e => by
    unfold Dev.raise
    split
    · rfl
    · dsimp only; split <;> rfl
  unfold Dev.coalesce
  dsimp only
  split
  · exact hraise _
  · rfl

theorem Dev.leave_streams (d : Dev) (id : Nat) {x : Flight} (hp : x.phase ≠ .finished) : (d.leave id x).streams = d.streamsWithout id x := by
  unfold Dev.leave
  rw [if_neg hp]
  rfl

theorem Dev.fallbackFlag_phase (d : Dev) (x : Flight) : (d.fallbackFlag x).phase = x.phase := by
  unfold Dev.fallbackFlag
  split <;> rfl

theorem Dev.writeEntry_streams (d : Dev) (id : Nat) {x : Flight} (hp : x.phase ≠ .finished) :
    (d.writeEntry id x).streams = d.streamsWithout id x := by
  have hp' : (d.fallbackFlag x).phase ≠ .finished := by rwa [Dev.fallbackFlag_phase]
  rw [← Dev.streamsWithout_fallbackFlag]
  unfold Dev.writeEntry
  dsimp only
  split
  · rw [Dev.leave_streams _ _ hp']; rfl
  · rw [Dev.coalesce_streams, Dev.leave_streams _ _ hp']; rfl

theorem Dev.retire_streams (d : Dev) (id : Nat) {x : Flight} (hp : x.phase ≠ .finished) :
    (d.retire id x).streams = d.streamsWithout id x := by
  cases ht : (d.queue x.queue).takes with
  | true => rw [Dev.retire_of_takes id ht, Dev.writeEntry_streams (x := d.lateFlag x) _ _ hp]; rfl
  | false => rw [Dev.retire_of_full id ht]; rfl

theorem Dev.finish_streams {d : Dev} {f : Nat} {x : Flight} {st : Status} (a b : Nat) (h : KV.find d.flights f = some x)
    (hp : x.phase ≠ .finished) (hst : st ≠ .internal) : (d.finish f st a b).streams = d.streamsWithout f x := by
  rw [Dev.finish_of_unfinished st a b h hp, Dev.postInternal_of_ne d f x.tag hst, Dev.retire_streams (x := d.runFlags f (x.verdict st a b)) _ _ hp]
  rfl

theorem Runs.opcode_ne {s : State} {f op k : Nat} {x : Flight} (h : Runs s f op x) (hk : op ≠ k) : x.opcode ≠ k := by
  obtain ⟨-, -, rfl⟩ := h
  exact hk

/-- Only pictures and data wait in a stream's list (R195, R206). -/
theorem Dev.find_streamsWithout {d : Dev} {f k : Nat} {x : Flight} {q : Stream} (hp : x.opcode ≠ 0x61) (hd : x.opcode ≠ 0x64)
    (h : KV.find d.streams k = some q) :
    KV.find (d.streamsWithout f x) k = some { q with closing := if q.closing = some f then none else q.closing } := by
  have hl : leaveStreams d.streams d.flights f x = d.streams := if_neg (by simp [hp, hd])
  rw [Dev.streamsWithout, hl, KV.find_mapV, h, Option.map_some]
  split <;> rfl

/-- The end of a command opens no stream. -/
theorem Dev.find_streamsWithout_none {d : Dev} {k : Nat} (f : Nat) (x : Flight) (h : KV.find d.streams k = none) :
    KV.find (d.streamsWithout f x) k = none := by
  have hl : KV.find (leaveStreams d.streams d.flights f x) k = none := by
    unfold leaveStreams
    dsimp only
    split
    · by_cases hk : k = fld (x.w 2) 0 16
      · subst hk
        rw [KV.find_upd_same, h]
        rfl
      · rw [KV.find_upd_other _ _ hk, h]
    · exact h
  rw [Dev.streamsWithout, KV.find_mapV, hl]
  rfl

theorem Dev.finish_stream_none {d : Dev} {k : Nat} (f : Nat) {st : Status} (a b : Nat) (hst : st ≠ .internal)
    (h : KV.find d.streams k = none) : KV.find (d.finish f st a b).streams k = none := by
  cases hx : KV.find d.flights f with
  | none => rwa [Dev.finish_of_none st a b hx]
  | some x =>
    by_cases hp : x.phase = .finished
    · rwa [Dev.finish_of_finished st a b hx hp]
    · rw [Dev.finish_streams a b hx hp hst]
      exact Dev.find_streamsWithout_none f x h

/-! ### Opening (R196, R205) -/

/-- The stream that an open command asks of engine `e`. -/
def Flight.freshStream (x : Flight) (enc : Bool) (e : Nat) : Stream :=
  { Stream.blank with paddock := x.paddock, enc := enc, engine := e, words := x.nats }

/-- The device with a stream under handle `h`. -/
def Dev.withStream (d : Dev) (h : Nat) (q : Stream) : Dev := { d with streams := KV.put d.streams h q, free := d.free + 1 }

theorem Dev.openStream_of_handle {d : Dev} {enc : Bool} {h : Nat} (f : Nat) (x : Flight) (e : Nat) (hn : d.newStream enc = some h) :
    d.openStream f x enc e = (d.withStream h (x.freshStream enc e)).finish f .ok h 0 := by
  rw [Dev.openStream, hn]
  rfl

/-- The stream stands under its handle once the command that opened it has ended. -/
theorem Runs.find_opened {s : State} {f op : Nat} {x : Flight} (h : Runs s f op x) (k e : Nat) (enc : Bool) (hp : op ≠ 0x61)
    (hd : op ≠ 0x64) :
    KV.find ((s.view.withStream k (x.freshStream enc e)).finish f .ok k 0).streams k = some (x.freshStream enc e) := by
  have hk : KV.find (s.view.withStream k (x.freshStream enc e)).streams k = some (x.freshStream enc e) := KV.find_put_same _ _ _
  rw [Dev.finish_streams (d := s.view.withStream k (x.freshStream enc e)) k 0 h.1 h.unfinished (by decide)]
  exact Dev.find_streamsWithout (h.opcode_ne hp) (h.opcode_ne hd) hk

/-- What an ENC_OPEN is refused for when it runs (R189, R196, R341). -/
def Dev.encRefused (d : Dev) (x : Flight) : Bool :=
  d.engineFull (fld (x.w 2) 0 2) ||
    (x.w 9 != 0 && (d.streams.vals.any (fun q => q.enc && overlaps (x.d 7) (x.w 9) q.ring q.ringBytes) || d.host.readLE (x.d 7 + 8) 4 != 0)) ||
    (bitOf (x.w 10) 0 && (d.encQp (fld (x.w 2) 0 2) x.paddock).isNone)

theorem Dev.encRefused_iff (d : Dev) (x : Flight) : d.encRefused x = true ↔
    d.engineFull (fld (x.w 2) 0 2) = true ∨ (x.w 9 ≠ 0 ∧ d.host.readLE (x.d 7 + 8) 4 ≠ 0) ∨
      (x.w 9 ≠ 0 ∧ d.streams.vals.any (fun q => q.enc && overlaps (x.d 7) (x.w 9) q.ring q.ringBytes) = true) ∨
      (bitOf (x.w 10) 0 = true ∧ d.encQp (fld (x.w 2) 0 2) x.paddock = none) := by
  simp only [Dev.encRefused, Bool.or_eq_true, Bool.and_eq_true, bne_iff_ne, ne_eq, Option.isNone_iff_eq_none]
  tauto

theorem Dev.encRefused_eq_false {d : Dev} {x : Flight} (hfull : d.engineFull (fld (x.w 2) 0 2) = false)
    (hring : x.w 9 = 0 ∨ d.streams.vals.any (fun q => q.enc && overlaps (x.d 7) (x.w 9) q.ring q.ringBytes) = false ∧
      d.host.readLE (x.d 7 + 8) 4 = 0)
    (hqp : bitOf (x.w 10) 0 = true → (d.encQp (fld (x.w 2) 0 2) x.paddock).isSome = true) : d.encRefused x = false := by
  have hq : (bitOf (x.w 10) 0 && (d.encQp (fld (x.w 2) 0 2) x.paddock).isNone) = false := by
    cases hb : bitOf (x.w 10) 0 with
    | false => rfl
    | true => exact Option.isNone_eq_false_iff.2 (hqp hb)
  rcases hring with hw | ⟨hclash, hhead⟩
  · simp [Dev.encRefused, hfull, hw, hq]
  · simp only [Dev.encRefused, hfull, hclash, hhead, hq, bne_self_eq_false, Bool.or_self, Bool.and_false]

theorem exec_encOpen {s : State} {f : Nat} {x : Flight} (h : Runs s f 0x60 x) : exec (.encOpen f) s = s.gives
    (if s.view.encRefused x then s.view.finish f .badParam 0 0
      else Dev.openStream (if x.w 9 != 0 then { s.view with host := s.dev.host.writeLE (x.d 7) 4 0 } else s.view) f x true (fld (x.w 2) 0 2)) := by
  show execEncOpen f s = _
  rw [execEncOpen, h.onDev]
  rfl

theorem exec_decOpen {s : State} {f : Nat} {x : Flight} (h : Runs s f 0x63 x) : exec (.decOpen f) s = s.gives
    (if s.view.engineFull (4 + fld (x.w 2) 0 2) then s.view.finish f .badParam 0 0
      else s.view.openStream f x false (4 + fld (x.w 2) 0 2)) := by
  show execDecOpen f s = _
  rw [execDecOpen, h.onDev]

/-! ### The next picture marked, and closing (R200, R210) -/

theorem exec_encKey {s : State} {f : Nat} {x : Flight} {q : Stream} (h : Runs s f 0x62 x) (hq : KV.find s.view.streams x.streamId = some q) :
    exec (.encKey f) s = s.gives ((s.view.updStream x.streamId (fun q => { q with keyNext := true })).finish f .ok q.next 0) := by
  show execEncKey f s = _
  rw [execEncKey, h.onDev]
  simp only [hq]

theorem exec_mediaClose {s : State} {f : Nat} {x : Flight} {q : Stream} (h : Runs s f 0x65 x) (hq : KV.find s.view.streams x.streamId = some q) :
    exec (.mediaClose f) s = s.gives (if s.view.engines.vals.any (fun e => e.stream == x.streamId) then
        s.view.updStream x.streamId (fun q => { q with closing := some (q.closing.getD f) })
      else s.view.closeStream f x.streamId q) := by
  show execMediaClose f s = _
  rw [execMediaClose, h.onDev]
  simp only [hq]

theorem Dev.closeStream_frees (d : Dev) (f h : Nat) (q : Stream) : KV.has (d.closeStream f h q).streams h = false :=
  Option.isSome_eq_false_iff.2 (Option.isNone_iff_eq_none.2 (Dev.finish_stream_none f _ _ (by decide) (KV.find_del_same _ _)))

end Sys2Proof.Machine
end

section
/-! PROOFS. Media streams. -/
open Sys2Proof Sys2Proof.Machine

/-- Settles O41: each row is its operation on the streams, and the verdict of a command that neither codes nor decodes leaves
every stream open. -/
theorem mediaStreamsOpenAndClose : Obligations.MediaStreamsOpenAndClose := by
  intro s f x hf
  refine ⟨fun h hw hfull hqp k hk => ?_, fun h hw hfull hclash hhead hqp => ?_, fun h hbad => ?_, fun h hfull k hk => ?_,
    fun q hq => ⟨fun h => ?_, fun h he => ⟨?_, Dev.closeStream_frees _ _ _ _⟩, fun h he => ?_⟩⟩
  · obtain ⟨-, hlt, hfree⟩ := Dev.newStream_spec hk
    have hr := Dev.encRefused_eq_false (d := s.view) hfull (.inl hw) hqp
    refine ⟨_, (exec_encOpen h).trans (congrArg s.gives ((if_neg (by simp [hr])).trans ?_)), h.completed hf (d := s.view.withStream k _),
      Dev.finish_hbm _ _ _ _ _, hlt, hfree, _, h.find_opened k _ true (by decide) (by decide), rfl, rfl, rfl, rfl, rfl, rfl, rfl⟩
    rw [if_neg (by simp [hw])]
    exact Dev.openStream_of_handle f x _ hk
  · have hr := Dev.encRefused_eq_false (d := s.view) hfull (.inr ⟨hclash, hhead⟩) hqp
    rw [exec_encOpen h, if_neg (by simp [hr]), if_pos (by simpa using hw)]
  · exact ⟨_, (exec_encOpen h).trans (congrArg s.gives (if_pos ((s.view.encRefused_iff x).2 hbad))), h.completed hf,
      Dev.view_finish_keeps s _ _ _ _⟩
  · obtain ⟨hge, -, hfree⟩ := Dev.newStream_spec hk
    exact ⟨_, (exec_decOpen h).trans (congrArg s.gives ((if_neg (by simp [hfull])).trans (Dev.openStream_of_handle f x _ hk))),
      h.completed hf (d := s.view.withStream k _), hge, hfree, _, h.find_opened k _ false (by decide) (by decide), rfl, rfl, rfl⟩
  · have hk : KV.find (s.view.updStream x.streamId (fun q => { q with keyNext := true })).streams x.streamId =
        some { q with keyNext := true } := (KV.find_upd_same _ _ _).trans (by rw [State.view_streams, hq]; rfl)
    refine ⟨_, exec_encKey h hq, h.completed hf, ?_⟩
    rw [Dev.finish_streams (d := s.view.updStream x.streamId _) _ _ h.1 h.unfinished (by decide)]
    exact Dev.find_streamsWithout (h.opcode_ne (by decide)) (h.opcode_ne (by decide)) hk
  · exact (exec_mediaClose h hq).trans (congrArg s.gives (if_neg (by simp [he])))
  · exact (exec_mediaClose h hq).trans (congrArg s.gives (if_pos he))

end

section
/-! SUPPORT. Starting and stopping: the way up from a reset and from STANDBY, what a boot leaves, and DEVICE_RESET (R48, R301,
R311, R321, R343, R344). -/
namespace Sys2Proof.Machine
open Sys2Proof

/-! ### READY again (R22, R301, R328) -/

/-- A held enable of queue 0 takes effect (R22). -/
def Dev.heldStart (d : Dev) : Dev := if d.adm.held then d.admqStart else d

/-- It touches what a completion touches, and the administration queue's registers. -/
theorem Dev.heldStart_keeps (d : Dev) : ∃ a, Dev.Keeps { d with adm := a } d.heldStart := by
  unfold Dev.heldStart
  split
  · exact ⟨_, (Dev.setQueue_keeps _ _ _).trans (Dev.flushCq_keeps _ _ _)⟩
  · exact ⟨d.adm, Dev.Keeps.refl d⟩

theorem Dev.postReset_keeps (d : Dev) (kind bitmap count cause fn : Nat) : Dev.Keeps d (d.postReset kind bitmap count cause fn) :=
  (Dev.postD_keeps _ _ _ _).trans (Dev.postD_keeps _ _ _ _)

theorem Dev.readyUp_spec (d : Dev) (kind bitmap cause : Nat) :
    (d.readyUp kind bitmap cause).boot = { d.boot with ready := true, resetActive := false, reset := none } ∧
      (d.readyUp kind bitmap cause).link = d.link := by
  obtain ⟨a, h⟩ := Dev.heldStart_keeps (Dev.dropPlls { d with
    pll := allPlls, restSince := d.now, boot := { d.boot with ready := true, resetActive := false, reset := none } })
  have hk := h.trans (Dev.postReset_keeps _ kind bitmap 0 cause 0)
  exact ⟨hk.boot, hk.link⟩

/-- The device as it leaves STANDBY, before a held enable. -/
def Dev.awake (d : Dev) : Dev :=
  { d with devPower := .active, pll := allPlls, restSince := d.now, boot := { d.boot with ready := true, standbyAt := none, standbyWake := none } }

theorem Dev.leaveStandby_eq (d : Dev) : d.leaveStandby = d.awake.heldStart.dropPlls.postD evSettingsDefaulted 0x10 [0xF781, 0] := rfl

theorem Dev.leaveStandby_spec (d : Dev) :
    d.leaveStandby.devPower = .active ∧ d.leaveStandby.boot.ready = true ∧ d.leaveStandby.supply = d.supply := by
  obtain ⟨a, h⟩ := d.awake.heldStart_keeps
  rw [Dev.leaveStandby_eq, Dev.postD_devPower, Dev.postD_boot, Dev.postD_supply]
  exact ⟨h.devPower, congrArg Boot.ready h.boot, h.supply⟩

/-! ### What a sweep and a channel's loss leave of the boot (R233, R310 to R312, R315) -/

/-- The boot, the PCIe link and the least security version are the same. -/
structure KeepsBoot (a b : NonVol × Dev) : Prop where
  boot : b.2.boot = a.2.boot
  link : b.2.link = a.2.link
  minSvn : b.1.minSvn = a.1.minSvn

theorem KeepsBoot.refl (a : NonVol × Dev) : KeepsBoot a a := ⟨rfl, rfl, rfl⟩

theorem KeepsBoot.trans {a b c : NonVol × Dev} (h : KeepsBoot a b) (g : KeepsBoot b c) : KeepsBoot a c :=
  ⟨g.boot.trans h.boot, g.link.trans h.link, g.minSvn.trans h.minSvn⟩

theorem Dev.Keeps.keepsBoot {d t : Dev} (h : Dev.Keeps d t) (nv : NonVol) : KeepsBoot (nv, d) (nv, t) := ⟨h.boot, h.link, rfl⟩

theorem KeepsBoot.ite {a b c : NonVol × Dev} {p : Prop} [Decidable p] (h : KeepsBoot a b) (g : KeepsBoot a c) :
    KeepsBoot a (if p then b else c) := by
  split
  · exact h
  · exact g

theorem Dev.setCore_keepsBoot (d : Dev) (nv : NonVol) (k : Nat) (c : CoreRec) : KeepsBoot (nv, d) (nv, d.setCore k c) := ⟨rfl, rfl, rfl⟩

/-- A fold of events keeps the boot. -/
theorem KeepsBoot.foldl_post {α : Type} (nv : NonVol) (g : Dev → α → Dev) (h : ∀ d a, Dev.Keeps d (g d a)) (l : List α) (d : Dev) :
    KeepsBoot (nv, d) (nv, l.foldl g d) :=
  (List.foldlRecOn l g (motive := fun t => Dev.Keeps d t) (Dev.Keeps.refl d) (fun t ht a _ => ht.trans (h t a))).keepsBoot nv

theorem retireCore_keepsBoot (nv : NonVol) (d : Dev) (shed core cause : Nat) : KeepsBoot (nv, d) (retireCore nv d shed core cause) := by
  unfold retireCore
  dsimp only
  split
  · exact KeepsBoot.refl _
  · split <;> exact ⟨Dev.postD_boot _ _ _ _, Dev.postD_link _ _ _ _, rfl⟩

theorem slicePass_keepsBoot (nv : NonVol) (d : Dev) (shed core k cause : Nat) : KeepsBoot (nv, d) (slicePass nv d shed core k cause) :=
  ((d.setCore_keepsBoot nv _ _).trans (retireCore_keepsBoot nv _ shed core cause)).ite (d.setCore_keepsBoot nv _ _)

theorem sliceFail_keepsBoot (nv : NonVol) (d : Dev) (shed core k cause : Nat) : KeepsBoot (nv, d) (sliceFail nv d shed core k cause) :=
  ((d.setCore_keepsBoot nv _ _).trans (retireCore_keepsBoot nv _ shed core cause)).ite (d.setCore_keepsBoot nv _ _)

/-- A slice passes, or fails and its recovery re-execution passes or fails (R310). -/
theorem testSlice_keepsBoot (nv : NonVol) (d : Dev) (shed core k n cause : Nat) : KeepsBoot (nv, d) (testSlice nv d shed core k n cause) :=
  have hf := sliceFail_keepsBoot nv d shed core k cause
  (slicePass_keepsBoot nv d shed core k 5).ite ((hf.trans (slicePass_keepsBoot _ _ shed core k 5)).ite (hf.trans (sliceFail_keepsBoot _ _ shed core k cause)))

theorem runSlices_keepsBoot (slices : List Nat) (fails : List (Nat × Nat × Nat)) (cause : Nat → Nat) :
    ∀ (cores : List (Nat × Nat)) (nv : NonVol) (d : Dev),
      KeepsBoot (nv, d) ((runSlices slices fails cause cores nv d).1, (runSlices slices fails cause cores nv d).2.1)
  | [], _, _ => KeepsBoot.refl _
  | (s, c) :: t, nv, d => by
    refine KeepsBoot.trans ?_ (runSlices_keepsBoot slices fails cause t _ _)
    refine List.foldlRecOn slices _ (motive := fun z : NonVol × Dev × Nat => KeepsBoot (nv, d) (z.1, z.2.1)) (KeepsBoot.refl _) (fun z hz k _ => ?_)
    dsimp only
    split
    · exact hz
    · exact hz.trans (testSlice_keepsBoot _ _ _ _ _ _ _)

theorem leaveService_keepsBoot (nv : NonVol) (d : Dev) (shed : Nat) : KeepsBoot (nv, d) (leaveService nv d shed) := by
  unfold leaveService
  split
  · exact (KeepsBoot.foldl_post nv _ (fun d p => Dev.postP_keeps d _ _ _ _) _ d).trans ⟨rfl, rfl, rfl⟩
  · exact KeepsBoot.refl _

theorem coldSweep_keepsBoot (nv : NonVol) (d : Dev) (fails : List (Nat × Nat × Nat)) : KeepsBoot (nv, d) (coldSweep nv d fails) := by
  unfold coldSweep
  dsimp only
  refine List.foldlRecOn _ _ (motive := KeepsBoot (nv, d)) ?_ (fun z hz s _ => hz.trans (leaveService_keepsBoot z.1 z.2 s))
  exact (runSlices_keepsBoot _ fails _ _ nv d).trans ⟨rfl, rfl, rfl⟩

/-- R233: at a cold start no stack has contents to lose. -/
theorem mapOutFailing_keepsBoot (nv : NonVol) (d : Dev) : KeepsBoot (nv, d) (mapOutFailing nv d false) :=
  KeepsBoot.trans (b := (nv.mapOut (d.failing nv), { d with chanErr := [] })) ⟨rfl, rfl, rfl⟩
    (KeepsBoot.foldl_post _ _ (fun d _ => Dev.postD_keeps d _ _ _) _ _)

/-! ### The boot (R321, R343 to R345) -/

/-- R344: the image's policy holds, and the least version never falls. -/
theorem bootImage_spec (nv : NonVol) (d : Dev) (b : BootSlot) :
    (bootImage nv d b).2.boot.policy = b.policy ∧ (bootImage nv d b).2.link = d.link ∧ nv.minSvn ≤ (bootImage nv d b).1.minSvn := by
  refine ⟨?_, rfl, ?_⟩
  · exact List.foldlRecOn b.parts _ (motive := fun t : Boot => t.policy = b.policy) rfl (fun _ h _ _ => h)
  · show nv.minSvn ≤ if bitOf b.policy 3 then max nv.minSvn b.svn else nv.minSvn
    split
    · exact Nat.le_max_left _ _
    · exact Nat.le_refl _

theorem Dev.flagClocks_spec (d : Dev) : d.flagClocks.boot = d.boot ∧ d.flagClocks.link = d.link := by
  unfold Dev.flagClocks
  dsimp only
  split <;> split <;> exact ⟨rfl, rfl⟩

theorem Dev.yieldAll_spec (d : Dev) (p : Nat → Bool) : (d.yieldAll p).boot = d.boot ∧ (d.yieldAll p).link = d.link := ⟨rfl, rfl⟩

theorem Dev.enterWarning_spec (d : Dev) : d.enterWarning.boot = d.boot ∧ d.enterWarning.link = d.link := by
  unfold Dev.enterWarning
  split
  · exact ⟨rfl, rfl⟩
  · simp only [Dev.flagClocks_spec, Dev.yieldAll_spec, List.foldl_cons, List.foldl_nil, Dev.setDie_boot, Dev.setDie_link, and_self]

theorem coldBoot_of_none {nv : NonVol} (d : Dev) (cause : Nat) (fails : List (Nat × Nat × Nat)) (h : nv.bootSlot = none) :
    coldBoot nv d cause fails = (nv, { d with boot := { d.boot with fault := true, ready := false, reset := none } }) := by
  rw [coldBoot, h]

/-- A slot boots: READY, under the image's policy, over the link as it trained. -/
theorem coldBoot_of_slot {nv : NonVol} {b : BootSlot} (d : Dev) (cause : Nat) (fails : List (Nat × Nat × Nat)) (h : nv.bootSlot = some b) :
    (coldBoot nv d cause fails).2.boot.ready = true ∧ (coldBoot nv d cause fails).2.boot.reset = none ∧
      (coldBoot nv d cause fails).2.link = d.link ∧ (coldBoot nv d cause fails).2.boot.policy = b.policy ∧
      nv.minSvn ≤ (coldBoot nv d cause fails).1.minSvn := by
  have hwarn : ∀ e : Dev, (if e.supply.warnPin then e.enterWarning else e).boot = e.boot ∧
      (if e.supply.warnPin then e.enterWarning else e).link = e.link := fun e => by
    split
    · exact e.enterWarning_spec
    · exact ⟨rfl, rfl⟩
  obtain ⟨hpol, hlink, hsvn⟩ := bootImage_spec nv d b
  rw [coldBoot, h]
  dsimp only
  generalize bootImage nv d b = y at *
  have hz := mapOutFailing_keepsBoot y.1 y.2
  generalize mapOutFailing y.1 y.2 false = z at *
  have hw := hz.trans (coldSweep_keepsBoot z.1 z.2 fails)
  generalize coldSweep z.1 z.2 fails = w at *
  obtain ⟨hb, hl⟩ := w.2.readyUp_spec 1 0xFFFF cause
  rw [(hwarn _).1, (hwarn _).2, hb, hl, hw.boot, hw.link, hw.minSvn]
  exact ⟨rfl, rfl, hlink, hpol, hsvn⟩

/-- The device powered up, its PCIe link trained (R321, R333). -/
def Dev.poweredUp (d : Dev) (dt : Nat) (link : PcieLink) : Dev := { d.powerUp dt with link := some link }

/-- R321's conditions but the supplies: a cold start that finds them low brings them up (log 18). -/
theorem exec_coldStart_of_ready {s : State} {r : ResetRun} (dt : Nat) (link : PcieLink) (fails : List (Nat × Nat × Nat))
    (hr : s.dev.boot.reset = some r) (hk : r.kind = 1) (href : s.dev.supply.ref = true) (hp : s.dev.supply.perst = true)
    (ht : s.dev.supply.trip = false) : exec (.coldStart dt link fails) s =
      .next { s with nv := (coldBoot s.nv (s.view.poweredUp dt link) r.cause fails).1,
                     dev := (coldBoot s.nv (s.view.poweredUp dt link) r.cause fails).2 } := by
  show execColdStart dt link fails s = _
  have hc : r.kind = 1 ∧ s.dev.supply.ref ∧ s.dev.supply.perst ∧ !s.dev.supply.trip := ⟨hk, href, hp, by rw [ht]; rfl⟩
  simp only [execColdStart, onNv, hr, if_pos hc]
  rfl

/-- R356: nothing starts while the board holds PERST#. -/
theorem exec_coldStart_of_perst {s : State} (dt : Nat) (link : PcieLink) (fails : List (Nat × Nat × Nat)) (hp : s.dev.supply.perst = false) :
    exec (.coldStart dt link fails) s = s.gives s.view := by
  show execColdStart dt link fails s = _
  cases hr : s.dev.boot.reset <;> simp [execColdStart, onNv, hr, hp, State.view, State.gives]

/-! ### DEVICE_RESET (R48) -/

theorem exec_deviceReset {s : State} {f : Nat} {x : Flight} (h : Runs s f 0xF0 x) :
    exec (.deviceReset f) s = s.gives (s.view.deviceReset f x) := by
  show execDeviceReset f s = _
  rw [execDeviceReset, h.onDev]

section
variable {d : Dev} (f : Nat) (x : Flight)

theorem Dev.deviceReset_of_held (h : d.anySwitch = true ∨ (d.queue 0).cqFree < d.inflight 0) : d.deviceReset f x = d :=
  if_pos (by simpa using h)

theorem Dev.deviceReset_of_pictures (hs : d.anySwitch = false) (hq : d.inflight 0 ≤ (d.queue 0).cqFree)
    (hp : d.picturesPend (fun _ => true) = true) : d.deviceReset f x = d.markClosing f (fun _ => true) := by
  rw [Dev.deviceReset, if_neg (by simp [hs, hq]), if_pos hp]

theorem Dev.deviceReset_of_idle (hs : d.anySwitch = false) (hq : d.inflight 0 ≤ (d.queue 0).cqFree)
    (hp : d.picturesPend (fun _ => true) = false) {ids : List Nat} (hi : ids = d.flightsWhere (fun k _ => k != f)) :
    d.deviceReset f x = if fld (x.w 2) 0 2 = 0 then ((ids.foldl Dev.abortOne d).finish f .ok ids.length 0).beginWarm 0
      else ((ids.foldl Dev.abortOne d).finish f .ok ids.length 0).beginModule 0 := by
  subst hi
  rw [Dev.deviceReset, if_neg (by simp [hs, hq]), if_neg (by simp [hp])]

end

/-! ### STANDBY (R301) -/

/-- R301: the device in STANDBY has lost what Table 17.3 names. -/
theorem exec_standbyEnter {s : State} (ha : s.dev.boot.standbyAt.isSome = true) (hp : s.dev.devPower ≠ .standby) :
    ∃ d : Dev, exec .standbyEnter s = s.gives (Dev.dropPlls { d.standbyLosses with
      devPower := .standby, boot := { d.standbyLosses.boot with ready := false, standbyAt := some d.now, standbyWake := none } }) :=
  ⟨if s.view.gtc.state = .locked then s.view.postUnlocked s.view.gtc.parent s.view.gtc.theta else s.view,
    congrArg s.gives (if_pos ⟨ha, hp⟩)⟩

theorem exec_standbyWake (s : State) : exec .standbyWake s = s.gives
    (if s.view.devPower = .standby ∧ s.view.boot.standbyWake.isSome ∧ s.view.supply.has48 then s.view.leaveStandby else s.view) := rfl

theorem exec_vinRestore_of_wake {s : State} {mv : Nat} (hp : s.dev.devPower = .standby) (hw : s.dev.boot.standbyWake.isSome = true)
    (hv : 44000 < mv) : exec (.vinRestore mv) s = s.gives (Dev.leaveStandby { s.view with supply := { s.dev.supply with mv48 := mv } }) :=
  congrArg s.gives ((if_pos hp).trans (if_pos ⟨hw, decide_eq_true hv⟩))

end Sys2Proof.Machine
end

section
/-! PROOFS. Devices start and stop. -/
open Sys2Proof Sys2Proof.Machine

/-- Settles O51: the boot's laws give the cold start, the other rows by the conditions that they turn on. -/
theorem devicesStartAndStop : Obligations.DevicesStartAndStop := by
  intro s f sh dt mv x link fails
  refine ⟨fun r hr hk href hp ht => ⟨fun hb => ?_, fun b hb => ?_⟩, exec_coldStart_of_perst dt link fails, fun hr => ?_, fun hr => ?_,
    fun h hs hq hp => ?_, fun h hs hq hp ids hi => ⟨fun hw => ?_, fun hw => ?_⟩, fun h hb => ?_, fun ha hp => ?_, fun ha => ?_,
    fun hp hw => ⟨fun hv => ?_, fun hv => ?_, fun hv => ?_⟩⟩
  · rw [exec_coldStart_of_ready dt link fails hr hk href hp ht, coldBoot_of_none _ _ _ hb]
    exact ⟨_, rfl, rfl, rfl, rfl, rfl⟩
  · exact ⟨_, _, exec_coldStart_of_ready dt link fails hr hk href hp ht, coldBoot_of_slot _ _ _ hb⟩
  · exact congrArg s.gives (if_pos hr)
  · exact congrArg s.gives (if_neg (by simp [hr]))
  · rw [exec_deviceReset h, Dev.deviceReset_of_pictures (d := s.view) f x hs hq hp]
  · rw [exec_deviceReset h, Dev.deviceReset_of_idle (d := s.view) f x hs hq hp hi, if_pos hw]
  · rw [exec_deviceReset h, Dev.deviceReset_of_idle (d := s.view) f x hs hq hp hi, if_neg hw]
  · rw [exec_deviceReset h, Dev.deviceReset_of_held (d := s.view) f x hb]
  · obtain ⟨d, hd⟩ := exec_standbyEnter ha hp
    exact ⟨_, hd, rfl, rfl, rfl, rfl, fun _ => rfl⟩
  · exact congrArg s.gives (if_neg (by simp [ha]))
  · obtain ⟨hact, hrdy, -⟩ := s.view.leaveStandby_spec
    exact ⟨_, (exec_standbyWake s).trans (congrArg s.gives (if_pos ⟨hp, hw, decide_eq_true hv⟩)), hact, hrdy⟩
  · exact (exec_standbyWake s).trans (congrArg s.gives (if_neg (fun ⟨_, _, h48⟩ => Nat.not_lt.2 hv (of_decide_eq_true h48))))
  · obtain ⟨hact, hrdy, hsup⟩ := Dev.leaveStandby_spec { s.view with supply := { s.dev.supply with mv48 := mv } }
    exact ⟨_, exec_vinRestore_of_wake hp hw hv, hact, hrdy, congrArg Supply.mv48 hsup⟩

end

section
/-! SUPPORT. The stores that outlive a reset: which rows may write the non-volatile area and the Hayloft, and what the shared
operations make of each (R227 to R231, R233, R310 to R315, R344, R348). -/
namespace Sys2Proof.Machine
open Sys2Proof

/-! ### What a row may write -/

/-- The row leaves the queue of waiting commands, the non-volatile area unless `nv` allows it, and the Hayloft unless `hay` does. -/
def Res.Leaves (r : Res) (s : State) (nv hay : Bool) : Prop :=
  ∀ t, r = .next t → (nv = false → t.nv = s.nv) ∧ (hay = false → t.hay = s.hay) ∧ t.pending = s.pending

theorem leaves_next {s t : State} {nv hay : Bool} (hn : nv = false → t.nv = s.nv) (hh : hay = false → t.hay = s.hay)
    (hp : t.pending = s.pending) : Res.Leaves (.next t) s nv hay := by
  rintro u ⟨⟩
  exact ⟨hn, hh, hp⟩

theorem gives_leaves (s : State) (d : Dev) (nv hay : Bool) : Res.Leaves (.next { s with dev := d }) s nv hay :=
  leaves_next (fun _ => rfl) (fun _ => rfl) rfl

theorem givesNv_leaves (s : State) (nv' : NonVol) (d : Dev) (hay : Bool) : Res.Leaves (.next { s with nv := nv', dev := d }) s true hay :=
  leaves_next nofun (fun _ => rfl) rfl

theorem givesHay_leaves (s : State) (h : Hay) (d : Dev) (nv : Bool) : Res.Leaves (.next { s with hay := h, dev := d }) s nv true :=
  leaves_next (fun _ => rfl) nofun rfl

/-- A row over everything that hands the non-volatile area back. -/
theorem onAll_leaves (s : State) (g : NonVol → Hay → Dev → NonVol × Hay × Dev) (h : ∀ nv hay d, (g nv hay d).1 = nv) (nv : Bool) :
    Res.Leaves (onAll s g) s nv true :=
  leaves_next (fun _ => h _ _ _) nofun rfl

theorem execFeatureSet_leaves (f : Nat) (s : State) : Res.Leaves (execFeatureSet f s) s false true :=
  onAll_leaves s _ (fun nv hay d => by split <;> [rfl; (split <;> rfl)]) false

theorem execPlanLoad_leaves (f : Nat) (bad : Option Nat) (mf : MemFault) (s : State) : Res.Leaves (execPlanLoad f bad mf s) s false true :=
  onAll_leaves s _ (fun nv hay d => by split <;> [rfl; (split <;> rfl)]) false

theorem execJtagTapInstruction_leaves (ti : TapInstr) (s : State) : Res.Leaves (execJtagTapInstruction ti s) s false false := by
  cases ti
  case debug =>
    unfold execJtagTapInstruction
    dsimp only
    split
    · exact fun _ h => nomatch h
    · exact gives_leaves s _ _ _
  all_goals exact gives_leaves s _ _ _

/-- Every row leaves what its kind has no business with: all but the named ones answer with another device alone. -/
theorem exec_leaves (c : Instr) (s : State) : Res.Leaves (exec c s) s (writesNv c) (writesHay c) := by
  cases c
  case featureSet f => exact execFeatureSet_leaves f s
  case planLoad f bad mf => exact execPlanLoad_leaves f bad mf s
  case jtagTapInstruction ti => exact execJtagTapInstruction_leaves ti s
  case fallowSliceVerdict | shedLeaveService | coreRetire | testRun | kekLoad | warmResetDone | coldStart => exact givesNv_leaves s _ _ _
  case hayloftWrite | hayloftTrim | hayloftRead | hayloftRelocation | weightFetchDone | pinnedFetchDone => exact givesHay_leaves s _ _ _
  all_goals exact gives_leaves s _ _ _

/-! ### What the non-volatile area records (R233, R312, R315, R344) -/

theorem NonVol.grows.refl (a : NonVol) : a.grows a := ⟨fun _ => id, fun _ => id, fun _ => id, Nat.le_refl _⟩

theorem NonVol.grows.trans {a b c : NonVol} (h : a.grows b) (g : b.grows c) : a.grows c := by
  obtain ⟨hr, hs, hc, hm⟩ := h
  obtain ⟨gr, gs, gc, gm⟩ := g
  exact ⟨fun k => gr k ∘ hr k, fun s => gs s ∘ hs s, fun c => gc c ∘ hc c, Nat.le_trans hm gm⟩

theorem NonVol.grows.ite {a : NonVol} {y z : NonVol × Dev} {p : Prop} [Decidable p] (h : a.grows y.1) (g : a.grows z.1) :
    a.grows (if p then y else z).1 := by
  split
  · exact h
  · exact g

/-- R312: a retirement is added. -/
theorem NonVol.grows_retire (nv : NonVol) (k : Nat) (r : Retired) : nv.grows { nv with retired := KV.put nv.retired k r } :=
  ⟨fun j => KV.has_put _ k j r, fun _ => id, fun _ => id, Nat.le_refl _⟩

/-- R315: a shed is added to those out of service. -/
theorem NonVol.grows_shedOut (nv : NonVol) (shed : Nat) : nv.grows { nv with shedsOut := shed :: nv.shedsOut } :=
  ⟨fun _ => id, fun _ => List.mem_cons_of_mem _, fun _ => id, Nat.le_refl _⟩

/-- R233: channels are added to those mapped out. -/
theorem NonVol.grows_mapOut (nv : NonVol) (cs : List Nat) : nv.grows (nv.mapOut cs) :=
  ⟨fun _ => id, fun _ => id, fun _ => List.mem_append_left _, Nat.le_refl _⟩

theorem mapOutFailing_grows (nv : NonVol) (d : Dev) (wipe : Bool) : nv.grows (mapOutFailing nv d wipe).1 := nv.grows_mapOut _

theorem retireCore_grows (nv : NonVol) (d : Dev) (shed core cause : Nat) : nv.grows (retireCore nv d shed core cause).1 :=
  NonVol.grows.ite (NonVol.grows.refl nv) (nv.grows_retire _ _)

theorem slicePass_grows (nv : NonVol) (d : Dev) (shed core k cause : Nat) : nv.grows (slicePass nv d shed core k cause).1 :=
  NonVol.grows.ite (retireCore_grows nv _ shed core cause) (NonVol.grows.refl nv)

theorem sliceFail_grows (nv : NonVol) (d : Dev) (shed core k cause : Nat) : nv.grows (sliceFail nv d shed core k cause).1 :=
  NonVol.grows.ite (retireCore_grows nv _ shed core cause) (NonVol.grows.refl nv)

theorem testSlice_grows (nv : NonVol) (d : Dev) (shed core k n cause : Nat) : nv.grows (testSlice nv d shed core k n cause).1 :=
  have hf := sliceFail_grows nv d shed core k cause
  NonVol.grows.ite (slicePass_grows nv d shed core k 5)
    (NonVol.grows.ite (hf.trans (slicePass_grows _ _ shed core k 5)) (hf.trans (sliceFail_grows _ _ shed core k cause)))

theorem runSlices_grows (slices : List Nat) (fails : List (Nat × Nat × Nat)) (cause : Nat → Nat) :
    ∀ (cores : List (Nat × Nat)) (nv : NonVol) (d : Dev), nv.grows (runSlices slices fails cause cores nv d).1
  | [], nv, _ => NonVol.grows.refl nv
  | (s, c) :: t, nv, d => by
    refine NonVol.grows.trans ?_ (runSlices_grows slices fails cause t _ _)
    refine List.foldlRecOn slices _ (motive := fun z : NonVol × Dev × Nat => nv.grows z.1) (NonVol.grows.refl nv) (fun z hz k _ => ?_)
    dsimp only
    split
    · exact hz
    · exact hz.trans (testSlice_grows _ _ _ _ _ _ _)

theorem leaveService_grows (nv : NonVol) (d : Dev) (shed : Nat) : nv.grows (leaveService nv d shed).1 :=
  NonVol.grows.ite (nv.grows_shedOut shed) (NonVol.grows.refl nv)

theorem coldSweep_grows (nv : NonVol) (d : Dev) (fails : List (Nat × Nat × Nat)) : nv.grows (coldSweep nv d fails).1 := by
  unfold coldSweep
  dsimp only
  exact List.foldlRecOn _ _ (motive := fun z : NonVol × Dev => nv.grows z.1) (runSlices_grows _ fails _ _ nv d)
    (fun z hz s _ => hz.trans (leaveService_grows z.1 z.2 s))

/-- R344: the least version rises or stays. -/
theorem bootImage_grows (nv : NonVol) (d : Dev) (b : BootSlot) : nv.grows (bootImage nv d b).1 :=
  ⟨fun _ => id, fun _ => id, fun _ => id, (bootImage_spec nv d b).2.2⟩

theorem coldBoot_grows (nv : NonVol) (d : Dev) (cause : Nat) (fails : List (Nat × Nat × Nat)) : nv.grows (coldBoot nv d cause fails).1 := by
  cases hs : nv.bootSlot with
  | none => rw [coldBoot_of_none d cause fails hs]; exact NonVol.grows.refl nv
  | some b =>
    rw [coldBoot, hs]
    dsimp only
    have hy := bootImage_grows nv d b
    generalize bootImage nv d b = y at *
    have hz := mapOutFailing_grows y.1 y.2 false
    generalize mapOutFailing y.1 y.2 false = z at *
    exact hy.trans (hz.trans (coldSweep_grows z.1 z.2 fails))

theorem kekLoad_grows (nv : NonVol) (r : List Word) : nv.grows (kekLoad nv r).1 := by
  unfold kekLoad
  dsimp only
  split
  · exact NonVol.grows.refl nv
  · split <;> exact NonVol.grows.refl nv

/-- A row over the non-volatile area takes nothing of it back, if its effect does not. -/
theorem onNv_grows {s t : State} {g : NonVol → Dev → NonVol × Dev} (hg : ∀ (nv : NonVol) d, nv.grows (g nv d).1) (h : onNv s g = .next t) :
    s.nv.grows t.nv := by
  cases h
  exact hg _ _

theorem execFallowSliceVerdict_grows {s t : State} {shed core dt : Nat} {pass : Bool}
    (h : execFallowSliceVerdict shed core pass dt s = .next t) : s.nv.grows t.nv := by
  refine onNv_grows (fun nv d => ?_) h
  dsimp only
  split
  · exact NonVol.grows.refl nv
  · exact NonVol.grows.ite (slicePass_grows nv _ shed core _ 5) (sliceFail_grows nv _ shed core _ _)

theorem execCoreRetire_grows {s t : State} {f : Nat} (h : execCoreRetire f s = .next t) : s.nv.grows t.nv := by
  refine onNv_grows (fun nv d => ?_) h
  split
  · exact NonVol.grows.refl nv
  · exact NonVol.grows.ite (retireCore_grows nv d _ _ 6) (NonVol.grows.refl nv)

theorem execTestRun_grows {s t : State} {f : Nat} {fails : List (Nat × Nat × Nat)} (h : execTestRun f fails s = .next t) :
    s.nv.grows t.nv := by
  refine onNv_grows (fun nv d => ?_) h
  split
  · exact NonVol.grows.refl nv
  · exact NonVol.grows.ite (runSlices_grows _ fails _ _ nv d) (NonVol.grows.refl nv)

theorem execKekLoad_grows {s t : State} {fn m : Nat} (h : execKekLoad fn m s = .next t) : s.nv.grows t.nv := by
  refine onNv_grows (fun nv d => ?_) h
  split
  · exact NonVol.grows.refl nv
  · exact NonVol.grows.ite (kekLoad_grows nv _) (NonVol.grows.refl nv)

theorem execWarmResetDone_grows {s t : State} (h : execWarmResetDone s = .next t) : s.nv.grows t.nv := by
  refine onNv_grows (fun nv d => ?_) h
  split
  · exact NonVol.grows.refl nv
  · exact NonVol.grows.ite (nv.grows_mapOut _) (NonVol.grows.refl nv)

theorem execColdStart_grows {s t : State} {dt : Nat} {link : PcieLink} {fails : List (Nat × Nat × Nat)}
    (h : execColdStart dt link fails s = .next t) : s.nv.grows t.nv := by
  refine onNv_grows (fun nv d => ?_) h
  split
  · exact NonVol.grows.refl nv
  · exact NonVol.grows.ite (coldBoot_grows nv _ _ fails) (NonVol.grows.refl nv)

/-- The rows that may write the non-volatile area only add to what it records; the others leave it as it is. -/
theorem exec_grows {c : Instr} {s t : State} (h : exec c s = .next t) : s.nv.grows t.nv := by
  have hkeep : writesNv c = false → s.nv.grows t.nv := fun hw => (exec_leaves c s t h).1 hw ▸ NonVol.grows.refl s.nv
  cases c
  case fallowSliceVerdict => exact execFallowSliceVerdict_grows h
  case shedLeaveService shed => exact onNv_grows (fun nv d => leaveService_grows nv d shed) h
  case coreRetire => exact execCoreRetire_grows h
  case testRun => exact execTestRun_grows h
  case kekLoad => exact execKekLoad_grows h
  case warmResetDone => exact execWarmResetDone_grows h
  case coldStart => exact execColdStart_grows h
  all_goals exact hkeep rfl

/-! ### The canonical form of the Hayloft (R214, R227 to R231) -/

theorem Hay.canonical.of_same {h k : Hay} (hc : h.canonical) (hm : k.mem = h.mem) (hk : k.keys = h.keys) : k.canonical := by
  rw [Hay.canonical, hm, hk]
  exact hc

theorem Hay.canonical.ite {y z : Hay × Dev} {p : Prop} [Decidable p] (h : y.1.canonical) (g : z.1.canonical) :
    (if p then y else z).1.canonical := by
  split
  · exact h
  · exact g

theorem Hay.markFailed_canonical {h : Hay} (hc : h.canonical) (b : Nat) : (h.markFailed b).canonical := by
  unfold Hay.markFailed
  split
  · exact hc
  · exact hc.of_same rfl rfl

theorem Hay.trim_canonical {h : Hay} (hc : h.canonical) (a n : Nat) : (h.trim a n).canonical :=
  ⟨Memory.wf_clear _ _ _ hc.1, KV.sorted_filter _ _ hc.2⟩

theorem hayStore_canonical {h : Hay} (hc : h.canonical) (d : Dev) (a : Nat) (bs : List Byte) : (hayStore h d a bs).canonical := by
  refine ⟨Memory.wf_writes bs _ _ hc.1, ?_⟩
  refine List.foldlRecOn (blocksOf a bs.length) _ (motive := fun t : KV (BitVec 512) => KV.sorted t = true) hc.2 (fun t ht b _ => ?_)
  split
  · exact KV.sorted_put _ _ _ ht
  · exact ht

theorem hayWrite_canonical {h : Hay} (hc : h.canonical) (nv : NonVol) (d : Dev) (f : Nat) (x : Flight) (mf : MemFault) :
    (hayWrite nv h d f x mf).1.canonical := by
  unfold hayWrite
  dsimp only
  split
  · exact hc
  · exact hayStore_canonical hc _ _ _

theorem hayRead_canonical {h : Hay} (hc : h.canonical) (nv : NonVol) (d : Dev) (f : Nat) (x : Flight) (bad : Option Nat) (mf : MemFault) :
    (hayRead nv h d f x bad mf).1.canonical := by
  unfold hayRead
  dsimp only
  split
  · exact hc
  · split
    · exact hc
    · split
      · exact hc
      · exact Hay.markFailed_canonical hc _

theorem featureSet_canonical {h : Hay} (hc : h.canonical) (nv : NonVol) (d : Dev) (f : Nat) (x : Flight) : (featureSet nv h d f x).1.canonical := by
  unfold featureSet
  dsimp only
  split
  · exact hc
  · split
    · exact Hay.trim_canonical (Hay.trim_canonical hc _ _) _ _
    · exact hc

theorem planLoad_canonical {h : Hay} (hc : h.canonical) (nv : NonVol) (d : Dev) (f : Nat) (x : Flight) (bad : Option Nat) (mf : MemFault) :
    (planLoad nv h d f x bad mf).1.canonical := by
  unfold planLoad
  dsimp only
  generalize (if fld (x.w 3) 0 2 = 2 then h.firstBad (x.d 4) (x.d 6) bad else none) = failing
  cases failing with
  | some b => exact Hay.markFailed_canonical hc b
  | none =>
    dsimp only
    split
    · exact hc
    · refine Hay.canonical.ite hc ?_
      split <;> exact hc

theorem weightDone_canonical {h : Hay} (hc : h.canonical) (d : Dev) (pk layer : Nat) (bad : Option Nat) : (weightDone h d pk layer bad).1.canonical := by
  unfold weightDone
  split
  · exact hc
  · split
    · dsimp only
      split
      · exact Hay.markFailed_canonical hc _
      · exact hc
    · exact hc

theorem pinnedDone_canonical {h : Hay} (hc : h.canonical) (d : Dev) (f stream entry : Nat) (bad : Option Nat) :
    (pinnedDone h d f stream entry bad).1.canonical := by
  unfold pinnedDone
  split
  · exact hc
  · dsimp only
    split
    · exact Hay.markFailed_canonical hc _
    · exact hc

/-- A row over the Hayloft keeps its canonical form, if its effect does. -/
theorem onHay_canonical {s t : State} {g : Hay → Dev → Hay × Dev} (hc : s.hay.canonical) (hg : ∀ h d, h.canonical → (g h d).1.canonical)
    (h : onHay s g = .next t) : t.hay.canonical := by
  cases h
  exact hg _ _ hc

theorem onHayFlight_canonical {s t : State} {f op : Nat} {g : NonVol → Hay → Dev → Flight → Hay × Dev} (hc : s.hay.canonical)
    (hg : ∀ h d x, h.canonical → (g s.nv h d x).1.canonical) (h : onHayFlight f op s g = .next t) : t.hay.canonical := by
  refine onHay_canonical hc (fun h d hc => ?_) h
  split
  · exact hc
  · split
    · exact hg _ _ _ hc
    · exact hc

theorem execFeatureSet_canonical {s t : State} {f : Nat} (hc : s.hay.canonical) (h : execFeatureSet f s = .next t) : t.hay.canonical := by
  cases h
  dsimp only
  split
  · exact hc
  · split
    · exact featureSet_canonical hc _ _ _ _
    · exact hc

theorem execPlanLoad_canonical {s t : State} {f : Nat} {bad : Option Nat} {mf : MemFault} (hc : s.hay.canonical)
    (h : execPlanLoad f bad mf s = .next t) : t.hay.canonical := by
  cases h
  dsimp only
  split
  · exact hc
  · split
    · exact planLoad_canonical hc _ _ _ _ _ _
    · exact hc

/-- The rows that may write the Hayloft keep its canonical form; the others leave it as it is. -/
theorem exec_canonical {c : Instr} {s t : State} (hc : s.hay.canonical) (h : exec c s = .next t) : t.hay.canonical := by
  have hkeep : writesHay c = false → t.hay.canonical := fun hw => (exec_leaves c s t h).2.1 hw ▸ hc
  cases c
  case featureSet => exact execFeatureSet_canonical hc h
  case planLoad => exact execPlanLoad_canonical hc h
  case hayloftWrite f mf => exact onHayFlight_canonical hc (fun _ d x hc => hayWrite_canonical hc s.nv d f x mf) (show execHayloftWrite f mf s = _ from h)
  case hayloftTrim f => exact onHayFlight_canonical hc (fun _ _ _ hc => Hay.trim_canonical hc _ _) (show execHayloftTrim f s = _ from h)
  case hayloftRead f bad mf => exact onHayFlight_canonical hc (fun _ d x hc => hayRead_canonical hc s.nv d f x bad mf) (show execHayloftRead f bad mf s = _ from h)
  case hayloftRelocation k fig => exact onHay_canonical hc (fun _ _ hc => hc.of_same rfl rfl) (show execHayloftRelocation k fig s = _ from h)
  case weightFetchDone pk layer bad => exact onHay_canonical hc (fun _ d hc => weightDone_canonical hc d pk layer bad) h
  case pinnedFetchDone f st n bad => exact onHay_canonical hc (fun _ d hc => pinnedDone_canonical hc d f st n bad) h
  all_goals exact hkeep rfl

/-! ### A step -/

/-- A step runs the front command, or lets time pass over the device alone. -/
theorem step_cases {s t : State} (h : step s = .next t) :
    (s.pending = [] ∧ t.nv = s.nv ∧ t.hay = s.hay) ∨ ∃ c rest, s.pending = c :: rest ∧ exec c { s with pending := rest } = .next t := by
  rw [step] at h
  split at h
  · cases h
    exact .inl ⟨‹_›, rfl, rfl⟩
  · exact .inr ⟨_, _, ‹_›, h⟩

end Sys2Proof.Machine
end

section
/-! PROOFS. The stores that outlive a reset. -/
open Sys2Proof Sys2Proof.Machine

/-- Settles O4: the rows that may write the non-volatile area only add to it. -/
theorem nonVolatileRecordsOnlyGrow : Obligations.NonVolatileRecordsOnlyGrow := by
  intro s t h
  rcases step_cases h with ⟨-, hnv, -⟩ | ⟨c, rest, -, hx⟩
  · exact hnv ▸ NonVol.grows.refl s.nv
  · exact exec_grows (s := { s with pending := rest }) hx

/-- Settles O5: every operation on the Hayloft keeps its memory's and its keys' order. -/
theorem hayloftStaysCanonical : Obligations.HayloftStaysCanonical := by
  intro s t hc h
  rcases step_cases h with ⟨-, -, hhay⟩ | ⟨c, rest, -, hx⟩
  · exact hhay ▸ hc
  · exact exec_canonical (s := { s with pending := rest }) hc hx

/-- Settles O6: the Hayloft is blank at reset. -/
theorem hayloftCanonicalAtReset : Obligations.HayloftCanonicalAtReset := ⟨rfl, rfl⟩

/-- Settles O60, by what each kind of row may write. -/
theorem onlyTheirRowsWriteTheLastingStores : Obligations.OnlyTheirRowsWriteTheLastingStores := fun c s t h => exec_leaves c s t h

end

section
/-! SUPPORT. The BAR2 window and the Ethernet ports (R335, R337 to R341). -/
namespace Sys2Proof.Machine
open Sys2Proof

/-! ### The BAR2 window (R335, Table 18.2) -/

/-- What a write of BAR2_WIN leaves in it (log 23). -/
def Dev.winWritten (d : Dev) (v : Nat) : Bar2 :=
  { enable := if bitOf v 63 then (if bitOf d.boot.policy 0 then true else d.bar2.enable) else false
    baseGib := if fld v 0 10 ≤ 715 then fld v 0 10 else d.bar2.baseGib }

theorem Dev.bar2Win_of_up {d : Dev} (h : d.fullUp = true) (v : Nat) : d.bar2Win 0 v = { d.endRest with bar2 := d.winWritten v } := by
  simp only [Dev.fullUp, Bool.and_eq_true, bne_iff_ne] at h
  obtain ⟨⟨hbar, -⟩, hpower⟩ := h
  exact if_neg (by simp [hbar, hpower])

section
variable {s : State} (h : s.dev.fullUp = true)
include h

theorem fullUp_answers : ¬ (!s.view.fullUp) = true := by
  have hv : s.view.fullUp = true := h
  simp [hv]

theorem exec_bar2WinWrite (v : DWord) :
    exec (.bar2WinWrite 0 v) s = s.gives { s.view.endRest with bar2 := s.view.winWritten v.toNat } :=
  congrArg s.gives (Dev.bar2Win_of_up (d := s.view) h v.toNat)

theorem exec_bar2Read (off len : Nat) : exec (.bar2Read off len false) s =
    s.gives { s.view.endRest with out := { Out.blank with data := (rangeFrom off len).map (s.dev.bar2Byte s.nv) } } :=
  congrArg s.gives (if_neg (fullUp_answers h))

theorem exec_bar2Write (off : Nat) (data : List Byte) :
    exec (.bar2Write off data false) s = s.gives (s.view.endRest.bar2Store s.nv off data) :=
  congrArg s.gives (if_neg (fullUp_answers h))

variable (he : s.dev.bar2.enable = true)
include he

/-- An uncorrectable word behind the open window: all ones, and AER logs the poisoned completion. -/
theorem exec_bar2Read_of_bad (off len : Nat) : exec (.bar2Read off len true) s =
    s.gives { s.view.endRest with out := { Out.blank with data := List.replicate len 0xFF }, aer := s.dev.aer + 1 } :=
  congrArg s.gives ((if_neg (fullUp_answers h)).trans (if_pos he))

theorem exec_bar2Write_of_bad (off : Nat) (data : List Byte) : exec (.bar2Write off data true) s =
    s.gives { s.view.endRest with out := { Out.blank with data := List.replicate data.length 0xFF }, aer := s.dev.aer + 1 } :=
  congrArg s.gives ((if_neg (fullUp_answers h)).trans (if_pos he))

end

section
variable {d : Dev} {nv : NonVol} {off : Nat} (he : d.bar2.enable = true) (ho : off < bar2Size) (hh : nv.hole (d.bar2Addr off) = false)
include he ho hh

theorem Dev.bar2Byte_of_open : d.bar2Byte nv off = d.hbm.read (d.bar2Addr off) :=
  if_pos (by simp [he, ho, hh])

theorem Dev.bar2Store_byte (b : Byte) : d.bar2Store nv off [b] = { d with hbm := d.hbm.write (d.bar2Addr off) b } :=
  if_pos (by simp [he, ho, hh])

end

/-! ### Requests from the Ethernet (R337 to R341) -/

/-- The Ethernet ports serve nothing: the device is not READY, or in STANDBY. -/
def Dev.ethDown (d : Dev) : Prop := d.boot.ready = false ∨ d.devPower = .standby

theorem Dev.ethDown_iff (d : Dev) : d.ethDown ↔ (!d.boot.ready || d.devPower == .standby) = true := by
  simp [Dev.ethDown]

section
variable {d : Dev} {qp : Nat} (g : Dev → Qp → Dev)

theorem Dev.onQp_of_down (h : d.ethDown) : d.onQp qp g = d := if_pos (d.ethDown_iff.1 h)

theorem Dev.onQp_of_none (hq : KV.find d.qps qp = none) : d.onQp qp g = d := by
  unfold Dev.onQp
  split
  · rfl
  · rw [hq]

theorem Dev.onQp_of_pair {q : Qp} (h : ¬ d.ethDown) (hq : KV.find d.qps qp = some q) : d.onQp qp g = g d.endRest q := by
  rw [Dev.onQp, if_neg (mt d.ethDown_iff.2 h), hq]

end

section
variable {s : State} {qp : Nat} {q : Qp} (h : ¬ s.dev.ethDown) (hq : KV.find s.dev.qps qp = some q)
include h hq

theorem onQp_gives (g : Dev → Qp → Dev) : (onDev s fun d => d.onQp qp g) = s.gives (g s.view.endRest q) :=
  congrArg s.gives (Dev.onQp_of_pair (d := s.view) g h hq)

theorem exec_rdmaWriteIn (rkey a : Nat) (data : List Byte) : exec (.rdmaWriteIn qp rkey a data) s = s.gives
    (if q.error then s.view.endRest.sendEth (.nakOperational qp)
      else if s.view.rdmaBad q rkey a data.length then s.view.endRest.sendEth (.nakAccess qp)
      else (s.view.endRest.hbmWrite a data).sendEth (.ack qp)) := onQp_gives h hq _

theorem exec_rdmaReadIn (rkey a n : Nat) : exec (.rdmaReadIn qp rkey a n) s = s.gives
    (if q.error then s.view.endRest.sendEth (.nakOperational qp)
      else if s.view.rdmaBad q rkey a n then s.view.endRest.sendEth (.nakAccess qp)
      else match s.view.poisoned a n with
        | some _ => s.view.endRest.sendEth (.nakOperational qp)
        | none => s.view.endRest.sendEth (.readResp qp (s.dev.hbm.reads a n))) := onQp_gives h hq _

theorem exec_rdmaSendIn : exec (.rdmaSendIn qp) s = s.gives
    (if q.error then s.view.endRest.sendEth (.nakOperational qp) else s.view.endRest.sendEth (.nakInvalid qp)) := onQp_gives h hq _

theorem exec_cnpIn : exec (.cnpIn qp) s =
    s.gives { s.view.endRest with qps := KV.put s.dev.qps qp { q with rate := min q.rate (Config.dcqcnRate q.rate) } } :=
  onQp_gives h hq _

end

/-- R340: a write that is let in lands whole, is acknowledged, and touches nothing else. -/
theorem exec_rdmaWriteIn_of_good {s : State} {qp : Nat} {q : Qp} {rkey a : Nat} {data : List Byte} (h : ¬ s.dev.ethDown)
    (hq : KV.find s.dev.qps qp = some q) (he : q.error = false) (hb : s.view.rdmaBad q rkey a data.length = false) :
    exec (.rdmaWriteIn qp rkey a data) s = s.gives ((s.view.endRest.hbmWrite a data).sendEth (.ack qp)) := by
  rw [exec_rdmaWriteIn h hq, if_neg (by simp [he]), if_neg (by simp [hb])]

/-- What the six rows do while the ports are down: nothing. -/
theorem exec_ethernet_of_down {s : State} (h : s.dev.ethDown) (qp rkey a n p prio : Nat) (data : List Byte) {c : Instr}
    (hc : c ∈ [Instr.rdmaWriteIn qp rkey a data, .rdmaReadIn qp rkey a n, .rdmaSendIn qp, .cnpIn qp, .pfcFrameIn p prio n,
      .ethFrameDiscard p]) : exec c s = s.gives s.view := by
  have hqp (g : Dev → Qp → Dev) : (onDev s fun d => d.onQp qp g) = s.gives s.view := congrArg s.gives (Dev.onQp_of_down (d := s.view) g h)
  have hframe := s.dev.ethDown_iff.1 h
  simp only [List.mem_cons, List.not_mem_nil, or_false] at hc
  rcases hc with rfl | rfl | rfl | rfl | rfl | rfl
  · exact hqp _
  · exact hqp _
  · exact hqp _
  · exact hqp _
  · exact congrArg s.gives (if_pos hframe)
  · exact congrArg s.gives (if_pos hframe)

/-- A request to a queue pair that does not exist changes nothing. -/
theorem exec_request_of_none {s : State} {qp : Nat} (hq : KV.find s.dev.qps qp = none) (rkey a n : Nat) (data : List Byte) {c : Instr}
    (hc : c ∈ [Instr.rdmaWriteIn qp rkey a data, .rdmaReadIn qp rkey a n, .rdmaSendIn qp, .cnpIn qp]) : exec c s = s.gives s.view := by
  have hqp (g : Dev → Qp → Dev) : (onDev s fun d => d.onQp qp g) = s.gives s.view := congrArg s.gives (Dev.onQp_of_none (d := s.view) g hq)
  simp only [List.mem_cons, List.not_mem_nil, or_false] at hc
  rcases hc with rfl | rfl | rfl | rfl <;> exact hqp _

/-- R341: a queue pair in ERROR refuses every request. -/
theorem exec_request_of_error {s : State} {qp : Nat} {q : Qp} (h : ¬ s.dev.ethDown) (hq : KV.find s.dev.qps qp = some q)
    (he : q.error = true) (rkey a n : Nat) (data : List Byte) {c : Instr}
    (hc : c ∈ [Instr.rdmaWriteIn qp rkey a data, .rdmaReadIn qp rkey a n, .rdmaSendIn qp]) :
    exec c s = s.gives (s.view.endRest.sendEth (.nakOperational qp)) := by
  simp only [List.mem_cons, List.not_mem_nil, or_false] at hc
  rcases hc with rfl | rfl | rfl
  · rw [exec_rdmaWriteIn h hq, if_pos he]
  · rw [exec_rdmaReadIn h hq, if_pos he]
  · rw [exec_rdmaSendIn h hq, if_pos he]

end Sys2Proof.Machine
end

section
/-! PROOFS. The BAR2 window and the Ethernet ports. -/
open Sys2Proof Sys2Proof.Machine

/-- Settles O22: each row's equation, and the byte that a window offset names. -/
theorem bar2WindowReachesHbm : Obligations.Bar2WindowReachesHbm := by
  intro s h
  refine ⟨fun v hv => ⟨_, exec_bar2WinWrite h v, if_pos hv, fun hb => ?_, fun hb => ?_, rfl⟩,
    fun off len => ⟨_, exec_bar2Read h off len, rfl, rfl⟩, fun off he ho hh => ⟨_, exec_bar2Read h off 1, ?_⟩,
    fun off len ds he => ⟨⟨_, exec_bar2Read_of_bad h he off len, rfl, rfl, rfl⟩, ⟨_, exec_bar2Write_of_bad h he off ds, rfl, rfl⟩⟩,
    fun off b he ho hh => ⟨_, exec_bar2Write h off [b], ?_⟩⟩
  · exact if_neg (by simp [hb])
  · show (if bitOf v.toNat 63 then (if bitOf s.dev.boot.policy 0 then true else s.dev.bar2.enable) else false) = _
    rw [if_pos hb]
    cases bitOf s.dev.boot.policy 0 <;> rfl
  · exact congrArg (· :: []) (Dev.bar2Byte_of_open he ho hh)
  · rw [Dev.bar2Store_byte (d := s.view.endRest) he ho hh]
    exact ⟨Memory.read_write_same _ _ _, fun a ha => Memory.read_write_other _ _ ha⟩

/-- Settles O58: each request by whether the ports serve, its queue pair, and R340's conditions. -/
theorem ethernetRequestsAreServed : Obligations.EthernetRequestsAreServed := by
  intro s qp rkey a n p prio data q
  refine ⟨fun h c hc => exec_ethernet_of_down h qp rkey a n p prio data hc, fun hr hp => ?_⟩
  have h : ¬ s.dev.ethDown := by simp [Dev.ethDown, hr, hp]
  have hframe := mt s.dev.ethDown_iff.2 h
  refine ⟨fun hq => ⟨fun he c hc => exec_request_of_error h hq he rkey a n data hc, fun he => ?_, fun he hb => ?_, fun he hb => ?_, fun he hb => ?_,
    fun he hb hx => ?_, fun he hb hx => ?_, ⟨_, Nat.min_le_left _ _, exec_cnpIn h hq⟩⟩,
    fun hq c hc => exec_request_of_none hq rkey a n data hc, congrArg s.gives (if_neg hframe), congrArg s.gives (if_neg hframe)⟩
  · rw [exec_rdmaSendIn h hq, if_neg (by simp [he])]
  · rw [exec_rdmaWriteIn h hq, if_neg (by simp [he]), if_pos hb]
  · exact ⟨_, exec_rdmaWriteIn_of_good h hq he hb, rfl, Memory.reads_writes _ _ _, fun b hout => Memory.read_writes_outside _ _ _ _ hout, rfl, rfl, rfl⟩
  · rw [exec_rdmaReadIn h hq, if_neg (by simp [he]), if_pos hb]
  · obtain ⟨w, hw⟩ := Option.ne_none_iff_exists'.1 hx
    rw [exec_rdmaReadIn h hq, if_neg (by simp [he]), if_neg (by simp [hb]), hw]
  · rw [exec_rdmaReadIn h hq, if_neg (by simp [he]), if_neg (by simp [hb]), hx]

end

section
/-! SUPPORT. Clocks: the tolerance, the power ceiling, the temperatures of the HBM stacks, and scrubs (R232 to R234, R295, R299, R302). -/
namespace Sys2Proof.Machine
open Sys2Proof

theorem Dev.elapsed_iff {d : Dev} {since ns : Nat} : d.elapsed since ns = true ↔ since + ns ≤ d.now := decide_eq_true_iff

/-! ### Dies, stacks and channels, read back -/

@[simp] theorem Dev.setDie_die_same (d : Dev) (n : Nat) (x : Die) : (d.setDie n x).die n = x := KV.getD_put_same _ _ _ _

theorem Dev.setDie_die_other (d : Dev) {n j : Nat} (x : Die) (h : j ≠ n) : (d.setDie n x).die j = d.die j := KV.getD_put_other _ _ _ h

theorem Dev.die_congr {d e : Dev} (h : e.dies = d.dies) (n : Nat) : e.die n = d.die n := by rw [Dev.die, Dev.die, h]

/-- R295: a change of clock is reported, and no die moves with the report. -/
theorem Dev.postThrottle_dies (d : Dev) (n before cause : Nat) (held : Bool) : (d.postThrottle n before cause held).dies = d.dies := by
  unfold Dev.postThrottle
  dsimp only
  split
  · rfl
  · exact Dev.postD_dies _ _ _ _

@[simp] theorem Dev.postThrottle_die (d : Dev) (n before cause : Nat) (held : Bool) (j : Nat) :
    (d.postThrottle n before cause held).die j = d.die j := Dev.die_congr (d.postThrottle_dies n before cause held) j

/-- The device with another record of one HBM stack. -/
def Dev.setStack (d : Dev) (k : Nat) (x : Stack) : Dev := { d with stackTab := KV.put d.stackTab k x }

@[simp] theorem Dev.setStack_stack_same (d : Dev) (k : Nat) (x : Stack) : (d.setStack k x).stack k = x := KV.getD_put_same _ _ _ _

theorem Dev.setStack_stack_other (d : Dev) {k j : Nat} (x : Stack) (h : j ≠ k) : (d.setStack k x).stack j = d.stack j :=
  KV.getD_put_other _ _ _ h

@[simp] theorem Dev.setTemp_stack_same (d : Dev) (k temp : Nat) : (d.setTemp k temp).stack k = { d.stack k with temp := temp } :=
  KV.getD_put_same _ _ _ _

theorem Dev.setTemp_stack_other (d : Dev) {k j : Nat} (temp : Nat) (h : j ≠ k) : (d.setTemp k temp).stack j = d.stack j :=
  KV.getD_put_other _ _ _ h

/-- R234: every stack of the die that stack `k` belongs to is below 97 °C once stack `k` has this temperature. -/
def Dev.coolWith (d : Dev) (k temp : Nat) : Bool :=
  (rangeFrom (6 * dieOfStack k) 6).all (fun j => ((d.setTemp k temp).stack j).temp < 970)

theorem Dev.setTemp_die (d : Dev) (k temp : Nat) : (d.setTemp k temp).die (dieOfStack k) =
    { d.die (dieOfStack k) with coolSince := if d.coolWith k temp then some ((d.die (dieOfStack k)).coolSince.getD d.now) else none } :=
  Dev.setDie_die_same _ _ _

theorem Dev.setTemp_point (d : Dev) (k temp : Nat) : ((d.setTemp k temp).die (dieOfStack k)).point = (d.die (dieOfStack k)).point := by
  rw [Dev.setTemp_die]
  rfl

theorem Dev.chan_setChan_same (d : Dev) (c : Nat) (x : ChanErr) : (d.setChan c x).chan c = x.judge d.now := KV.getD_put_same _ _ _ _

theorem Dev.chan_setChan_other (d : Dev) {c j : Nat} (x : ChanErr) (h : j ≠ c) : (d.setChan c x).chan j = d.chan j :=
  KV.getD_put_other _ _ _ h

/-! ### LATENCY_SET and POWER_CAP (R299, R302) -/

theorem exec_latencySet {s : State} {f : Nat} {x : Flight} {p : Paddock} (h : Runs s f 0x80 x) (hp : s.dev.pad x.paddock = some p) {d : Dev}
    (hd : d = { s.view with pads := KV.put s.dev.pads x.paddock { p with tolNs := x.w 2 * 1000 } }) :
    exec (.latencySet f) s = s.gives ((d.finish f .ok (powerOfTol d.hasSaveArea (d.setTol p.shedMask)).depth 0).fitTargets s.nv
      (shedsOf p.shedMask)) := by
  subst hd
  show execLatencySet f s = _
  rw [execLatencySet, h.onDevR, State.view_pad, hp]
  rfl

/-- The device with another ceiling. -/
def Dev.withCap (d : Dev) (c : Nat) : Dev := { d with cap := c, capSince := d.now }

theorem exec_powerCap {s : State} {f : Nat} {x : Flight} (h : Runs s f 0x81 x) {c : Nat} (hc : c = capOf (fld (x.w 2) 0 16)) :
    exec (.powerCap f) s = s.gives (if c = 0 then ((s.view.withCap c).finish f .ok c 0).liftCap else (s.view.withCap c).finish f .ok c 0) := by
  subst hc
  show execPowerCap f s = _
  rw [execPowerCap, h.onDev]
  rfl

/-! ### The ceiling at work (R302) -/

section
variable {s : State} {mean dt : Nat}

/-- The die that gave way to the ceiling, one point lower. -/
def Dev.lowered (d : Dev) (n : Nat) : Dev := { d.setDie n { d.die n with capPt := (d.die n).capPt + 1 } with capLast := d.now }

/-- The die that rises again below the ceiling, one point higher. -/
def Dev.raised (d : Dev) (n : Nat) : Dev := { d.setDie n { d.die n with capPt := (d.die n).capPt - 1 } with capLast := d.now }

/-- Time has passed, and the mean power is as measured. -/
def State.measured (s : State) (mean dt : Nat) : Dev := (s.view.advance dt).setPower mean

theorem exec_powerCapLower_of_above (hc : s.dev.cap ≠ 0) (hm : s.dev.cap < mean) (hl : s.dev.capLast + 1000000 ≤ s.dev.now + dt) {n : Nat}
    (hv : s.view.capVictim = some n) : exec (.powerCapLower mean dt) s = s.gives ((((s.measured mean dt).lowered n).postThrottle n
      (s.dev.die n).point 1 ([0, 1, 2, 3].all (fun k => (((s.measured mean dt).lowered n).die k).capPt == 7))).flagClocks) := by
  have hgo : (s.measured mean dt).cap ≠ 0 ∧ (s.measured mean dt).cap < mean ∧
      (s.measured mean dt).elapsed (s.measured mean dt).capLast 1000000 = true := ⟨hc, hm, decide_eq_true hl⟩
  have hv' : (s.measured mean dt).capVictim = some n := hv
  refine congrArg s.gives ((if_pos hgo).trans ?_)
  show (match (s.measured mean dt).capVictim with | none => _ | some n => _) = _
  rw [hv']
  rfl

theorem exec_powerCapLower_of_below (h : s.dev.cap = 0 ∨ mean ≤ s.dev.cap) :
    exec (.powerCapLower mean dt) s = s.gives (s.measured mean dt) :=
  congrArg s.gives (if_neg fun ⟨hc, hm, _⟩ => h.elim hc (Nat.not_le.2 hm))

theorem State.measured_capSince (h : mean * 100 ≤ s.dev.cap * 95) : (s.measured mean dt).capSince = s.dev.capSince :=
  if_neg (Nat.not_lt.2 h)

theorem exec_powerCapRaise_of_below (hc : s.dev.cap ≠ 0) (hm : mean * 100 ≤ s.dev.cap * 95)
    (hs : s.dev.capSince + 10000000 ≤ s.dev.now + dt) (hl : s.dev.capLast + 10000000 ≤ s.dev.now + dt) {n : Nat}
    (hv : s.view.capRaise = some n) : exec (.powerCapRaise mean dt) s =
      s.gives (((s.measured mean dt).raised n).postThrottle n (s.dev.die n).point 1 false) := by
  have hgo : (s.measured mean dt).cap ≠ 0 ∧ mean * 100 ≤ (s.measured mean dt).cap * 95 ∧
      (s.measured mean dt).elapsed (s.measured mean dt).capSince 10000000 = true ∧
      (s.measured mean dt).elapsed (s.measured mean dt).capLast 10000000 = true :=
    ⟨hc, hm, by rw [State.measured_capSince hm]; exact decide_eq_true hs, decide_eq_true hl⟩
  have hv' : (s.measured mean dt).capRaise = some n := hv
  refine congrArg s.gives ((if_pos hgo).trans ?_)
  show (match (s.measured mean dt).capRaise with | none => _ | some n => _) = _
  rw [hv']
  rfl

theorem exec_powerCapRaise_of_near (h : s.dev.cap * 95 < mean * 100) : exec (.powerCapRaise mean dt) s = s.gives (s.measured mean dt) :=
  congrArg s.gives (if_neg fun ⟨_, hm, _⟩ => Nat.not_le.2 h hm)

end

/-! ### Temperatures (R232, R234) -/

section
variable {s : State} {k temp dt : Nat}

/-- R232: the stack's temperature as reported, and the refresh rate that goes with it. -/
def Stack.refreshed (x : Stack) (temp : Nat) : Stack :=
  { x with temp := temp, double := if 950 < temp then true else if temp < 930 then false else x.double }

/-- The device once the refresh of stack `k` has followed its temperature. -/
def Dev.refreshed (d : Dev) (k temp : Nat) : Dev :=
  if 950 < temp then (d.setTemp k temp).setStack k { (d.setTemp k temp).stack k with double := true }
  else if temp < 930 then (d.setTemp k temp).setStack k { (d.setTemp k temp).stack k with double := false }
  else d.setTemp k temp

theorem Dev.refreshed_stack_same (d : Dev) (k temp : Nat) : (d.refreshed k temp).stack k = (d.stack k).refreshed temp := by
  unfold Dev.refreshed Stack.refreshed
  split
  · rw [Dev.setStack_stack_same, Dev.setTemp_stack_same]
  · split
    · rw [Dev.setStack_stack_same, Dev.setTemp_stack_same]
    · exact Dev.setTemp_stack_same _ _ _

theorem Dev.refreshed_stack_other (d : Dev) {k j : Nat} (temp : Nat) (h : j ≠ k) : (d.refreshed k temp).stack j = d.stack j := by
  unfold Dev.refreshed
  split
  · rw [Dev.setStack_stack_other _ _ h, Dev.setTemp_stack_other _ _ h]
  · split
    · rw [Dev.setStack_stack_other _ _ h, Dev.setTemp_stack_other _ _ h]
    · exact Dev.setTemp_stack_other _ _ h

theorem Dev.refreshed_hbm (d : Dev) (k temp : Nat) : (d.refreshed k temp).hbm = d.hbm := by
  unfold Dev.refreshed
  split
  · rfl
  · split <;> rfl

theorem exec_hbmRefreshChange : exec (.hbmRefreshChange k temp) s = s.gives (s.view.refreshed k temp) := rfl

theorem exec_hbmIssuePause : exec (.hbmIssuePause k temp) s = s.gives
    (if 1050 ≤ temp ∧ 7 ≤ ((s.view.setTemp k temp).die (dieOfStack k)).point then
      (s.view.setTemp k temp).setStack k { (s.view.setTemp k temp).stack k with paused := true } else s.view.setTemp k temp) := rfl

theorem exec_hbmIssueResume : exec (.hbmIssueResume k temp) s = s.gives
    (if temp < 1000 then (s.view.setTemp k temp).setStack k { (s.view.setTemp k temp).stack k with paused := false }
      else s.view.setTemp k temp) := rfl

/-- Time has passed, and the stack's temperature is as reported. -/
def State.warmed (s : State) (k temp dt : Nat) : Dev := (s.view.advance dt).setTemp k temp

theorem State.warmed_now : (s.warmed k temp dt).now = s.dev.now + dt := rfl

theorem State.warmed_die : (s.warmed k temp dt).die (dieOfStack k) = { s.dev.die (dieOfStack k) with
    coolSince := if s.view.coolWith k temp then some ((s.dev.die (dieOfStack k)).coolSince.getD (s.dev.now + dt)) else none } :=
  Dev.setTemp_die _ _ _

/-- R234: a die's temperature point and since when it holds. -/
def Dev.setTempPt (d : Dev) (n pt : Nat) : Dev := d.setDie n { d.die n with tempPt := pt, tempSince := d.now }

theorem exec_hbmThrottleStep_of_hot (ht : 1000 < temp) (h0 : (s.dev.die (dieOfStack k)).tempPt = 0) :
    exec (.hbmThrottleStep k temp dt) s = s.gives ((((s.warmed k temp dt).setTempPt (dieOfStack k) 1).postThrottle (dieOfStack k)
      (s.dev.die (dieOfStack k)).point 0 false).flagClocks) := by
  have hpt : ((s.warmed k temp dt).die (dieOfStack k)).tempPt = 0 := by rw [State.warmed_die]; exact h0
  have hpoint : ((s.warmed k temp dt).die (dieOfStack k)).point = (s.dev.die (dieOfStack k)).point := Dev.setTemp_point _ _ _
  have hgo : 1000 < temp ∧ ((s.warmed k temp dt).die (dieOfStack k)).tempPt < 7 ∧ (((s.warmed k temp dt).die (dieOfStack k)).tempPt = 0 ∨
      (s.warmed k temp dt).elapsed ((s.warmed k temp dt).die (dieOfStack k)).tempSince 1000000 = true) :=
    ⟨ht, hpt ▸ by decide, .inl hpt⟩
  rw [← hpoint, show 1 = ((s.warmed k temp dt).die (dieOfStack k)).tempPt + 1 by rw [hpt]]
  exact congrArg s.gives (if_pos hgo)

theorem exec_hbmThrottleStep_of_cool (ht : temp ≤ 1000) : exec (.hbmThrottleStep k temp dt) s = s.gives (s.warmed k temp dt) :=
  congrArg s.gives (if_neg fun ⟨hh, _⟩ => Nat.not_le.2 hh ht)

/-- The die rises when it has been cool for 10 ms and its last step lies 10 ms back. -/
def Dev.mayCool (d : Dev) (n : Nat) : Prop :=
  (d.die n).coolSince.elim false (fun t => d.elapsed t 10000000) = true ∧ 0 < (d.die n).tempPt ∧
    d.elapsed (d.die n).tempSince 10000000 = true

theorem exec_hbmThrottleRecover_of_cool (h : (s.warmed k temp dt).mayCool (dieOfStack k)) : exec (.hbmThrottleRecover k temp dt) s =
    s.gives (((s.warmed k temp dt).setTempPt (dieOfStack k) (((s.warmed k temp dt).die (dieOfStack k)).tempPt - 1)).postThrottle
      (dieOfStack k) ((s.warmed k temp dt).die (dieOfStack k)).point 0 false) :=
  congrArg s.gives (if_pos h)

theorem exec_hbmThrottleRecover_of_not_cool (h : ¬ (s.warmed k temp dt).mayCool (dieOfStack k)) :
    exec (.hbmThrottleRecover k temp dt) s = s.gives (s.warmed k temp dt) :=
  congrArg s.gives (if_neg h)

theorem Dev.mayCool_of_die {d : Dev} {n c : Nat} {x : Die} (hx : d.die n = x) (hs : x.coolSince = some c)
    (hc : d.elapsed c 10000000 = true) (hp : 0 < x.tempPt) (ht : d.elapsed x.tempSince 10000000 = true) : d.mayCool n := by
  rw [Dev.mayCool, hx, hs, Option.elim_some]
  exact ⟨hc, hp, ht⟩

theorem State.warmed_mayCool {c : Nat} (hall : s.view.coolWith k temp = true) (hp : 0 < (s.dev.die (dieOfStack k)).tempPt)
    (hs : (s.dev.die (dieOfStack k)).coolSince = some c) (hc : c + 10000000 ≤ s.dev.now + dt)
    (ht : (s.dev.die (dieOfStack k)).tempSince + 10000000 ≤ s.dev.now + dt) : (s.warmed k temp dt).mayCool (dieOfStack k) := by
  refine Dev.mayCool_of_die (c := c) State.warmed_die ?_ ?_ hp ?_
  · rw [if_pos hall, hs, Option.getD_some]
  · rw [Dev.elapsed_iff, State.warmed_now]
    exact hc
  · rw [Dev.elapsed_iff, State.warmed_now]
    exact ht

theorem Dev.mayCool.since {d : Dev} {n : Nat} (h : d.mayCool n) : ∃ c, (d.die n).coolSince = some c ∧ c + 10000000 ≤ d.now := by
  obtain ⟨hc, -, -⟩ := h
  cases hs : (d.die n).coolSince with
  | none => rw [hs, Option.elim_none] at hc; exact Bool.noConfusion hc
  | some c => rw [hs, Option.elim_some, Dev.elapsed_iff] at hc; exact ⟨c, rfl, hc⟩

/-- A die that was not cool before is not cool for 10 ms at once. -/
theorem State.warmed_not_mayCool (hs : (s.dev.die (dieOfStack k)).coolSince = none) : ¬ (s.warmed k temp dt).mayCool (dieOfStack k) := by
  intro h
  obtain ⟨c, hc, hnow⟩ := h.since
  rw [State.warmed_now] at hnow
  rw [State.warmed_die, hs, Option.getD_none] at hc
  dsimp only at hc
  split at hc
  · obtain rfl := Option.some.inj hc
    omega
  · cases hc

end

/-! ### Scrubs (R233) -/

section
variable {s : State} {a : Nat}

theorem exec_hbmScrub_of_hole (b : Option Bool) (h : hbmTop ≤ a ∨ s.nv.hole a = true) : exec (.hbmScrub a b) s = s.gives s.view :=
  congrArg s.gives (if_pos h)

theorem exec_hbmScrub_of_good : exec (.hbmScrub a none) s = s.gives s.view := congrArg s.gives (ite_self _)

/-- The error that a scrub found, as its channel's record has it. -/
def Dev.scrubbed (d : Dev) (a : Nat) (corrected : Bool) (c : ChanErr) : ChanErr :=
  if corrected then { c with corrected := d.now :: c.corrected } else { c with words := (d.now, a / 32) :: c.words }

theorem exec_hbmScrub_of_bad (ha : a < hbmTop) (hh : s.nv.hole a = false) (corrected : Bool) :
    exec (.hbmScrub a (some corrected)) s = s.gives (s.view.setChan (s.nv.channelOf a) (s.view.scrubbed a corrected (s.dev.chan (s.nv.channelOf a)))) := by
  have hin : ¬ (hbmTop ≤ a ∨ s.nv.hole a = true) := by simp [hh, Nat.not_le.2 ha]
  cases corrected <;> exact congrArg s.gives (if_neg hin)

/-- A bad word counts against the channel that holds it, and against no other. -/
theorem scrub_counts (ha : a < hbmTop) (hh : s.nv.hole a = false) (corrected : Bool) :
    ∃ t, exec (.hbmScrub a (some corrected)) s = s.gives t ∧ t.hbm = s.dev.hbm ∧
      t.chan (s.nv.channelOf a) = (s.view.scrubbed a corrected (s.dev.chan (s.nv.channelOf a))).judge s.dev.now ∧
      ∀ c, c ≠ s.nv.channelOf a → t.chan c = s.dev.chan c :=
  ⟨_, exec_hbmScrub_of_bad ha hh corrected, rfl, Dev.chan_setChan_same _ _ _, fun _ hc => Dev.chan_setChan_other _ _ hc⟩

end

end Sys2Proof.Machine
end

section
/-! PROOFS. Clocks follow power and temperature. -/
open Sys2Proof Sys2Proof.Machine

/-- Settles O48, each row by the thresholds of R232, R234, R299 and R302. -/
theorem clocksFollowPowerAndTemperature : Obligations.ClocksFollowPowerAndTemperature := by
  intro s k temp mean dt
  refine ⟨fun f x p h hp d hd => exec_latencySet h hp hd, fun f x h hs hc => ?_, fun f x h hc => ?_, fun hc hm hl n hv => ?_,
    exec_powerCapLower_of_below, fun hc hm hs hl n hv => ?_, exec_powerCapRaise_of_near, ?_, fun ht h0 => ?_, exec_hbmThrottleStep_of_cool,
    fun c hall hp hs hc ht => ?_, fun hs => exec_hbmThrottleRecover_of_not_cool (State.warmed_not_mayCool hs), ?_, ?_,
    fun a => exec_hbmScrub_of_good, fun a b h => exec_hbmScrub_of_hole b h, fun a ha hh => ⟨scrub_counts ha hh true, scrub_counts ha hh false⟩⟩
  · exact ⟨_, (exec_powerCap h rfl).trans (congrArg s.gives (if_neg hc)), h.completed hs, Dev.finish_cap _ _ _ _ _, Dev.finish_dies _ _ _ _ _⟩
  · exact (exec_powerCap h hc.symm).trans (congrArg s.gives (if_pos rfl))
  · exact ⟨_, exec_powerCapLower_of_above hc hm hl hv, Dev.setDie_die_same _ _ _, rfl, fun j hj => Dev.setDie_die_other _ _ hj⟩
  · refine ⟨_, exec_powerCapRaise_of_below hc hm hs hl hv, ?_, fun j hj => ?_⟩
    · rw [Dev.postThrottle_die]; exact Dev.setDie_die_same _ _ _
    · rw [Dev.postThrottle_die]; exact Dev.setDie_die_other _ _ hj
  · refine ⟨_, exec_hbmRefreshChange, ?_⟩
    rw [Dev.refreshed_stack_same]
    exact ⟨rfl, fun h => if_pos h, fun h => (if_neg (by omega)).trans (if_pos h), fun h g => (if_neg (Nat.not_lt.2 g)).trans (if_neg (Nat.not_lt.2 h)),
      Dev.refreshed_hbm _ _ _, fun j hj => Dev.refreshed_stack_other _ _ hj⟩
  · refine ⟨_, exec_hbmThrottleStep_of_hot ht h0, ?_, ?_⟩
    · rw [Dev.setTempPt, Dev.setDie_die_same]
    · exact congrArg Stack.temp (Dev.setTemp_stack_same _ _ _)
  · refine ⟨_, exec_hbmThrottleRecover_of_cool (State.warmed_mayCool hall hp hs hc ht), ?_⟩
    rw [Dev.postThrottle_die, Dev.setTempPt, Dev.setDie_die_same, State.warmed_die]
  · refine ⟨_, exec_hbmIssuePause, fun ht hp => ?_, fun ht => ?_⟩
    · rw [if_pos ⟨ht, by rw [Dev.setTemp_point]; exact hp⟩, Dev.setStack_stack_same]
    · rw [if_neg fun ⟨hh, _⟩ => Nat.not_le.2 ht hh, Dev.setTemp_stack_same]
      rfl
  · refine ⟨_, exec_hbmIssueResume, fun ht => ?_, fun ht => ?_⟩
    · rw [if_pos ht, Dev.setStack_stack_same]
    · rw [if_neg (Nat.not_lt.2 ht), Dev.setTemp_stack_same]
      rfl

end

section
/-! SUPPORT. Weight fetches: the streaming window, pinned entries, a copy's bytes and the weight-late limit (R215, R220, R222,
R224, R231). -/
namespace Sys2Proof.Machine
open Sys2Proof

/-! ### A copy's bytes (R215, R227, R228) -/

theorem sourceBytes_of_hayloft {c : Nat × Nat × Nat} (h : Hay) (d : Dev) (pad : Nat) (seen : List Byte) (hc : c.1 = 1) :
    sourceBytes h d pad c seen = (d, hayReads h d c.2.1 c.2.2) := if_pos hc

/-- A block of host memory that the window table covers arrives as the fetch found it or as it is now. -/
theorem Dev.hostBlock_covered {map : List (Nat × Nat)} {a : Nat} (d : Dev) (k : Nat) (old : List Byte) (h : inMap map a 4096 = true) :
    d.hostBlock map a k old = old ∨ d.hostBlock map a k old = d.host.reads a 4096 := by
  rw [Dev.hostBlock, if_neg (by simp [h])]
  split
  · exact .inl rfl
  · exact .inr rfl

/-- R231: the failing block that ends a fetch, where its source is the Hayloft. -/
def Hay.failingIn (h : Hay) (c : Nat × Nat × Nat) (bad : Option Nat) : Option Nat := if c.1 = 1 then h.firstBad c.2.1 c.2.2 bad else none

theorem Hay.failingIn_none {h : Hay} {c : Nat × Nat × Nat} {bad : Option Nat} (hb : c.1 = 1 → h.firstBad c.2.1 c.2.2 bad = none) :
    h.failingIn c bad = none := by
  unfold Hay.failingIn
  split
  · exact hb ‹_›
  · rfl

/-! ### The window (R220) -/

/-- The slot that a fetch of layer `l`, at place `i` of the order, takes at address `a`. -/
def Dev.fetchSlot (d : Dev) (l : Layer) (i a : Nat) : WinSlot :=
  { layer := i, wide := l.promoted, addr := a, size := l.winSize, ready := false, seen := d.seenAt (l.copyAt l.promoted) }

section
variable {h : Hay} {d : Dev} {pk : Nat} {p : Plan} {tb : LayerTable} (hp : KV.find d.plans pk = some p) (ht : p.table = some tb)
include hp ht

/-- With no fetch under way and none failed, the next layer within the depth takes the lowest room that it fits. -/
theorem weightStart_of_room {k i a : Nat} (hf : p.failed = []) (hw : p.window.all (·.ready) = true)
    (hn : d.nextFetch pk p tb = some (k, i)) (hk : k ≤ p.depth)
    (ha : winRoom tb p.window (tb.layers.getD i (readLayer [] 0 0)).winSize = some a) :
    weightStart h d pk = (d.updPlan pk (fun _ => p)).updPlan pk (fun q => { q with
      window := p.window ++ [d.fetchSlot (tb.layers.getD i (readLayer [] 0 0)) i a] }) := by
  have hsame (g : Nat → Bool) : { p with failed := p.failed.filter g } = p := by
    rw [hf, List.filter_nil, ← hf]
  simp only [ht] at hsame
  have hn' : (d.updPlan pk (fun _ => p)).nextFetch pk p tb = some (k, i) := hn
  have hnone : p.window.any (fun w => !w.ready) = false := by simpa using hw
  simp only [weightStart, hp, ht, hsame, hnone, hn', ha, Bool.false_eq_true, if_false, if_neg (Nat.not_lt.2 hk), Option.isNone_some,
    Bool.false_and]
  rfl

variable {i : Nat} {l : Layer} {w : WinSlot} {bad : Option Nat} (hl : tb.layers[i]? = some l)
  (hw : p.window.find? (fun w => w.layer == i && !w.ready) = some w)
include hl hw

theorem weightDone_eq : weightDone h d pk i bad =
    match h.failingIn (l.copyAt w.wide) bad with
    | some b => (h.markFailed b, (d.updPlan pk (fun p => { p with
        window := p.window.filter (fun v => v != w), failed := i :: p.failed })).stepRetry pk)
    | none => (h, (((sourceBytes h d p.paddock (l.copyAt w.wide) w.seen).1.hbmWrite w.addr
        (sourceBytes h d p.paddock (l.copyAt w.wide) w.seen).2).updPlan pk (fun p => { p with
          window := p.window.map (fun v => if v == w then { v with ready := true } else v) })).stepRetry pk) := by
  have hbind : p.table.bind (fun t => t.layers[i]?) = some l := by rw [ht]; exact hl
  simp only [weightDone, hp, hbind, hw]
  rfl

end

/-! ### Pinned entries (R222, R224) -/

theorem pinnedDone_of_good {h : Hay} {d : Dev} {f st n pk : Nat} {q : Plan} {x : PinFetch} {bad : Option Nat}
    (hx : d.pinFetch f st n = some (pk, q, x)) (hb : x.pin.source = 1 → h.firstBad x.pin.src (x.pin.blocks * 4096) bad = none) {e : Dev}
    {z : Dev × List Byte} (he : e = d.updPlan pk (fun p => { p with fetches := p.fetches.filter (· != x) }))
    (hz : z = sourceBytes h e q.paddock (x.pin.source, x.pin.src, x.pin.blocks * 4096) x.seen) :
    pinnedDone h d f st n bad =
      (h, ((z.1.hbmWrite x.pin.dest z.2).updRun f (fun r => { r with pins := r.pins ++ [(st, n)] })).stepRetry pk) := by
  subst he hz
  have hnone : (if x.pin.source = 1 then h.firstBad x.pin.src (x.pin.blocks * 4096) bad else none) = none :=
    Hay.failingIn_none (c := (x.pin.source, x.pin.src, x.pin.blocks * 4096)) hb
  simp only [pinnedDone, hx, hnone]

/-! ### The limit (R224) -/

theorem exec_weightLateLimit {s : State} {f dt since : Nat} {r : Run} {p : Plan} (hr : KV.find s.dev.runs f = some r)
    (hp : KV.find s.dev.plans r.plan = some p) (hs : r.stall = some since) (ho : r.stepOn = false) (hu : r.suspended = false) :
    exec (.weightLateLimit f dt) s = s.gives (if (s.view.advance dt).elapsed since p.lateNs then
      (s.view.advance dt).failFlight f .weightLate else s.view.advance dt) := by
  have hr' : KV.find (s.view.advance dt).runs f = some r := hr
  have hp' : (s.view.advance dt).runPlan r = some p := hp
  show execWeightLateLimit f dt s = _
  simp only [execWeightLateLimit, onDev_gives, hr', hs, hp', ho, hu, Bool.not_false, Bool.true_and]

end Sys2Proof.Machine
end

section
/-! PROOFS. Weights are fetched. -/
open Sys2Proof Sys2Proof.Machine

/-- Settles O32: a fetch by the room in the window and by the blocks of its source, a late step by the limit. -/
theorem weightsAreFetched : Obligations.WeightsAreFetched := by
  intro s pk p tb hp ht
  refine ⟨fun k i a hf hw hn hk ha => ?_, fun i l w bad hl hw hb z hz => ?_, fun i l w b bad hl hw hc hb => ?_,
    fun f st n x q bad hx hb d z hd hz => ?_, fun h d pad k a c seen old map => ⟨sourceBytes_of_hayloft h d pad seen, d.hostBlock_covered k old⟩,
    fun f dt r since hr hpk hs ho hu => gives_due (exec_weightLateLimit hr (hpk ▸ hp) hs ho hu)⟩
  · refine ⟨_, { p with window := p.window ++ [s.view.fetchSlot (tb.layers.getD i (readLayer [] 0 0)) i a] },
      congrArg s.gives (weightStart_of_room (d := s.view) hp ht hf hw hn hk ha), ?_, rfl, rfl, rfl⟩
    rw [Dev.updPlan_plans, KV.find_upd_same, Dev.updPlan_plans, KV.find_upd_same, State.view_plans, hp]
    rfl
  · subst hz
    have hd := weightDone_eq (h := s.hay) (d := s.view) (bad := bad) hp ht hl hw
    rw [Hay.failingIn_none hb] at hd
    exact congrArg (fun r : Hay × Dev => Host.Outcome.next { s with hay := r.1, dev := r.2 }) hd
  · have hd := weightDone_eq (h := s.hay) (d := s.view) (bad := bad) hp ht hl hw
    rw [Hay.failingIn, if_pos hc, hb] at hd
    exact congrArg (fun r : Hay × Dev => Host.Outcome.next { s with hay := r.1, dev := r.2 }) hd
  · exact congrArg (fun r : Hay × Dev => Host.Outcome.next { s with hay := r.1, dev := r.2 }) (pinnedDone_of_good hx hb hd hz)

end

section
/-! SUPPORT. Groups and collectives: the coordinate block that defines a group, and how a collective starts (R262 to R265, R270). -/
namespace Sys2Proof.Machine
open Sys2Proof

/-! ### GROUP_DEFINE and GROUP_RELEASE (R263, R264) -/

/-- The first coordinates of the block that a GROUP_DEFINE names, and its spans. -/
def Dev.blockLo (d : Dev) (x : Flight) : Nat := d.hbm.readLE (x.d 4) 4
def Dev.blockSpan (d : Dev) (x : Flight) : Nat := d.hbm.readLE (x.d 4 + 4) 4
/-- The device identities that the block lists, one for each point. -/
def Dev.blockIds (d : Dev) (x : Flight) : List Nat :=
  (List.range (blockPoints (d.blockSpan x))).map (fun i => d.hbm.readLE (x.d 4 + 16 + 2 * i) 2)
/-- The word of the block that names the group's switch. -/
def Dev.blockSwitch (d : Dev) (x : Flight) : Nat := d.hbm.readLE (x.d 4 + 8) 4
def Dev.blockMembers (d : Dev) (x : Flight) (r : Route) : List Nat :=
  groupMembers (d.blockLo x) (d.blockSpan x) (fld (x.w 3) 0 4) r.coord (d.blockIds x)

/-- R263: the block is one that GROUP_DEFINE takes. -/
structure Dev.GoodBlock (d : Dev) (p : Paddock) (x : Flight) (r : Route) : Prop where
  free : KV.has d.groups x.groupKey = false
  room : (KV.keep d.groups (fun _ g => g.paddock == x.paddock)).length < 256
  points : blockPoints (d.blockSpan x) ≤ 65536
  switch : 0x0800 ≤ fld (d.blockSwitch x) 0 16
  zero2 : fld (d.blockSwitch x) 16 16 = 0
  zero3 : d.hbm.readLE (x.d 4 + 12) 4 = 0
  inPaddock : d.hbmOk p (x.d 4) (16 + 2 * blockPoints (d.blockSpan x)) = true
  ids : (d.blockIds x).any (fun i => 0x07FF < i && i != 0xFFFF) = false
  once : hasRepeat (d.blockMembers x r) = false
  own : ownEntry (d.blockLo x) (d.blockSpan x) r.coord (d.blockIds x) = some r.self

/-- The group that a good block defines. -/
def Dev.newGroup (d : Dev) (x : Flight) (r : Route) : Group :=
  { paddock := x.paddock, handle := fld (x.w 2) 0 16, members := d.blockMembers x r,
    own := (d.blockMembers x r).findIdx (· == r.self), switch := fld (d.blockSwitch x) 0 16,
    digest := groupDigest (d.blockMembers x r) (fld (d.blockSwitch x) 0 16), inst := 0 }

@[simp] theorem Dev.newGroup_members (d : Dev) (x : Flight) (r : Route) : (d.newGroup x r).members = d.blockMembers x r := by
  rw [Dev.newGroup]
@[simp] theorem Dev.newGroup_own (d : Dev) (x : Flight) (r : Route) :
    (d.newGroup x r).own = (d.blockMembers x r).findIdx (· == r.self) := by
  rw [Dev.newGroup]
@[simp] theorem Dev.newGroup_switch (d : Dev) (x : Flight) (r : Route) : (d.newGroup x r).switch = fld (d.blockSwitch x) 0 16 := by
  rw [Dev.newGroup]
@[simp] theorem Dev.newGroup_digest (d : Dev) (x : Flight) (r : Route) :
    (d.newGroup x r).digest = groupDigest (d.blockMembers x r) (fld (d.blockSwitch x) 0 16) := by
  rw [Dev.newGroup]
@[simp] theorem Dev.newGroup_inst (d : Dev) (x : Flight) (r : Route) : (d.newGroup x r).inst = 0 := by
  rw [Dev.newGroup]

/-- The device with another table of groups. -/
def Dev.withGroups (d : Dev) (gs : KV Group) : Dev := { d with groups := gs }

@[simp] theorem Dev.withGroups_groups (d : Dev) (gs : KV Group) : (d.withGroups gs).groups = gs := rfl

theorem Dev.groupDefine_of_good {d : Dev} {p : Paddock} {x : Flight} {r : Route} (f : Nat) (hr : d.route = some r) (hp : d.poison = [])
    (h : d.GoodBlock p x r) : d.groupDefine p f x = (d.withGroups (KV.put d.groups x.groupKey (d.newGroup x r))).finish f .ok
      (d.blockMembers x r).length ((d.blockMembers x r).findIdx (· == r.self)) := by
  obtain ⟨hfree, hroom, hn, hsw, h2, h3, hok, hids, honce, hown⟩ := h
  have htaken : ¬ (KV.has d.groups x.groupKey || 256 ≤ (KV.keep d.groups (fun _ g => g.paddock == x.paddock)).length ||
      65536 < blockPoints (d.blockSpan x) || fld (d.blockSwitch x) 16 16 != 0 || d.hbm.readLE (x.d 4 + 12) 4 != 0 ||
      fld (d.blockSwitch x) 0 16 < 0x0800) = true := by
    simp [hfree, h2, h3, hroom, hn, hsw]
  have hin : ¬ (!d.hbmOk p (x.d 4) (16 + 2 * blockPoints (d.blockSpan x))) = true := by simp [hok]
  have hmem : ¬ (ownEntry (d.blockLo x) (d.blockSpan x) r.coord (d.blockIds x) ≠ some r.self ∨ hasRepeat (d.blockMembers x r) = true ∨
      (d.blockIds x).any (fun i => 0x07FF < i && i != 0xFFFF) = true) := by
    rintro (h | h | h)
    · exact h hown
    · exact Bool.noConfusion (h.symm.trans honce)
    · exact Bool.noConfusion (h.symm.trans hids)
  rw [Dev.groupDefine, hr]
  refine (if_neg htaken).trans ((if_neg hin).trans ?_)
  rw [Dev.poisoned_of_nil hp]
  refine (if_neg hmem).trans ?_
  rw [Dev.withGroups, hr]
  rfl

theorem exec_groupDefine {s : State} {f : Nat} {x : Flight} {p : Paddock} (h : Runs s f 0x50 x) (hp : s.dev.pad x.paddock = some p)
    (hc : s.dev.poison = []) : exec (.groupDefine f) s = s.gives (s.view.groupDefine p f x) := by
  show execGroupDefine f s = _
  rw [execGroupDefine, h.onDev, State.view_pad, hp]
  dsimp only
  rw [Dev.poisoned_of_nil (d := s.view) hc]

theorem exec_groupRelease {s : State} {f : Nat} {x : Flight} (h : Runs s f 0x53 x) (hg : KV.has s.dev.groups x.groupKey = true) :
    exec (.groupRelease f) s = s.gives (if s.view.groupFree x.groupKey then
      (s.view.withGroups (KV.del s.dev.groups x.groupKey)).finish f .ok 0 0 else s.view) := by
  show execGroupRelease f s = _
  rw [execGroupRelease, h.onDev, State.view_groups, hg]
  cases s.view.groupFree x.groupKey <;> rfl

/-! ### The start of a collective (R262, R265, R270) -/

section
variable {d d' : Dev} {nv : NonVol} {f : Nat} {x : Flight} {g : Group} {mf : MemFault} (c : Coll) (reads : List (Nat × Nat))
  (hg : KV.find d.groups x.groupKey = some g)
include hg

/-- R262: the command enters the collective before it ends, so that the group hears of it. -/
theorem Dev.collStart_of_error {a : Nat} (hm : d.memFault nv f mf = (d', some a)) :
    d.collStart nv f x c mf reads = (d'.collEnter f x.groupKey g c).finishMem f a := by
  simp only [Dev.collStart, hg, hm, Option.orElse_some]

theorem Dev.collStart_of_clean (hm : d.memFault nv f mf = (d', none)) (hp : d.poison = []) : d.collStart nv f x c mf reads =
    (d'.updFlight f (fun y => { y with flags := setFlagIf c.det y.flags fDeterministic, countA := c.elems % 2 ^ 32 })).collBegin
      f x.groupKey g c := by
  have hr : reads.findSome? (fun r => d.poisoned r.1 r.2) = none := by simp [Dev.poisoned_of_nil hp]
  simp only [Dev.collStart, hg, hm, Option.orElse_none, hr]

end

/-- What a COLL_RUN reads: nothing in a barrier, nor where another member's data is broadcast. -/
def Flight.collReads (x : Flight) (g : Group) : List (Nat × Nat) :=
  [(x.d 4, if x.collOp = 7 ∨ (x.collOp = 3 ∧ g.own ≠ 0) then 0
    else collBytes x.collFmt (if x.collOp = 6 then g.members.length * x.d 8 else x.d 8))]

section
variable {s : State} {f : Nat} {x : Flight} {g : Group} (hc : KV.has s.dev.colls f = false) (hg : KV.find s.dev.groups x.groupKey = some g)
include hc hg

theorem exec_collRun (h : Runs s f 0x51 x) (mf : MemFault) : exec (.collRun f mf) s = s.gives
    (if x.d 8 = 0 ∧ x.collOp ≠ 7 then s.view.finish f .empty 0 0
      else s.view.collStart s.nv f x (x.coll false []) mf (x.collReads g)) := by
  have hget (e : Group) : KV.getD s.dev.groups x.groupKey e = g := by rw [KV.getD, hg, Option.getD_some]
  show execCollRun f mf s = _
  rw [execCollRun, h.onDevR]
  dsimp only
  rw [if_neg (by simp [hc]), State.view_groups, hget]
  rfl

/-- The counts table of a COLL_RUNV (R270). -/
def Dev.collCounts (d : Dev) (x : Flight) (g : Group) : List Nat :=
  (List.range (countEntries x.collOp g.members.length)).map (fun i => d.hbm.readLE (x.d 11 + 8 * i) 8)

/-- The bytes that a COLL_RUNV sends and receives under its counts. -/
def Flight.sendBytes (x : Flight) (g : Group) (cs : List Nat) : Nat :=
  collBytes x.collFmt (if x.collOp = 4 then cs.getD g.own 0 else (cs.take g.members.length).sum)
def Flight.receiveBytes (x : Flight) (g : Group) (cs : List Nat) : Nat :=
  collBytes x.collFmt (if x.collOp = 6 then (cs.drop g.members.length).sum else (cs.take g.members.length).sum)

theorem exec_collRunv {p : Paddock} (h : Runs s f 0x52 x) (hp : s.dev.pad x.paddock = some p) (hn : s.dev.poison = []) (mf : MemFault)
    {cs : List Nat} (hcs : cs = s.dev.collCounts x g) : exec (.collRunv f mf) s = s.gives
      (if (cs.take g.members.length).sum ≠ x.d 8 ∨
          s.view.collRangesBad p (x.d 4) (x.sendBytes g cs) (x.d 6) (x.receiveBytes g cs) = true then s.view.finish f .badParam 0 0
        else s.view.collStart s.nv f x (x.coll true cs) mf [(x.d 4, x.sendBytes g cs)]) := by
  subst hcs
  show execCollRunv f mf s = _
  rw [execCollRunv, h.onDevR, if_neg (by simp [hc]), State.view_pad, hp]
  dsimp only
  rw [Dev.collRunv, State.view_groups, hg]
  dsimp only
  rw [Dev.poisoned_of_nil (d := s.view) hn]
  rfl

end

end Sys2Proof.Machine
end

section
/-! PROOFS. Groups and collectives begin. -/
open Sys2Proof Sys2Proof.Machine

/-- Settles O36: the coordinate block gives the group; a collective starts by its elements, its counts and what it reads. -/
theorem groupsAndCollectivesBegin : Obligations.GroupsAndCollectivesBegin := by
  intro s f x p hp
  refine ⟨fun r n ids ms sw h hr hc hs hn hn' hsw h800 h2 h3 hfree hroom hok hids hany hms honce hown => ?_,
    fun h hg => ⟨fun hb => ?_, fun hfree hs => ?_⟩, fun g h hc hg hn => ⟨fun h0 h7 hs mf => ?_, fun hgo a => ?_, fun hgo => ?_⟩,
    fun g cs h hc hg hn hcs => ⟨fun hsum hs mf => ?_, fun hsum hbad => ?_⟩⟩
  · subst hn hsw hids
    have hmembers : ms = s.view.blockMembers x r := hms
    rw [hmembers] at honce ⊢
    have hgood : s.view.GoodBlock p x r := ⟨hfree, hroom, hn', h800, h2, h3, hok, hany, honce, hown⟩
    refine ⟨_, (exec_groupDefine h hp hc).trans (congrArg s.gives (Dev.groupDefine_of_good (d := s.view) f hr hc hgood)), h.completed hs, ?_⟩
    rw [Dev.finish_groups, Dev.withGroups_groups]
    exact ⟨⟨s.view.newGroup x r, KV.find_put_same _ _ _, Dev.newGroup_members _ _ _, Dev.newGroup_own _ _ _, Dev.newGroup_switch _ _ _,
      Dev.newGroup_digest _ _ _, Dev.newGroup_inst _ _ _⟩, fun k hk => KV.find_put_other _ _ hk⟩
  · rw [exec_groupRelease h hg, hb]
    rfl
  · refine ⟨_, (exec_groupRelease h hg).trans (congrArg s.gives (if_pos hfree)), h.completed hs, ?_⟩
    rw [Dev.finish_groups, Dev.withGroups_groups]
    exact ⟨KV.find_del_same _ _, fun k hk => KV.find_del_other _ hk⟩
  · exact ⟨_, (exec_collRun hc hg h mf).trans (congrArg s.gives (if_pos ⟨h0, h7⟩)), h.completed hs, Dev.view_finish_keeps _ _ _ _ _⟩
  · rw [exec_collRun hc hg h, if_neg fun ⟨h0, h7⟩ => hgo.elim (· h0) h7]
    exact congrArg s.gives (Dev.collStart_of_error (d := s.view) _ _ hg rfl)
  · rw [exec_collRun hc hg h, if_neg fun ⟨h0, h7⟩ => hgo.elim (· h0) h7]
    exact congrArg s.gives (Dev.collStart_of_clean (d := s.view) _ _ hg rfl hn)
  · exact ⟨_, (exec_collRunv hc hg h hp hn mf hcs).trans (congrArg s.gives (if_pos (.inl hsum))), h.completed hs, Dev.view_finish_keeps _ _ _ _ _⟩
  · rw [exec_collRunv hc hg h hp hn .none hcs, if_neg fun hor => hor.elim (· hsum) fun hb => Bool.noConfusion (hb.symm.trans hbad)]
    exact congrArg s.gives (Dev.collStart_of_clean (d := s.view) _ _ hg rfl hn)

end

section
/-! SUPPORT. Furrow packets that fail a check of R247: the row of each kind, and what it does at the first check that fails. -/
namespace Sys2Proof.Machine
open Sys2Proof

/-- A row whose phases hold the packet's hands a collective packet on (R261). -/
theorem Dev.onColl_of_phase {p : Nat} {pkt : Pkt} {phases : List Nat} (hp : phases.contains (pktPhase pkt) = true) (g : Dev → Nat → Dev) :
    ∃ k : Dev → Dev, ∀ d : Dev, d.onColl p pkt phases g = d.onPacket p pkt kCollective k :=
  ⟨_, fun _ => if_neg fun ⟨_, h⟩ => by rw [hp] at h; exact Bool.noConfusion h⟩

/-- Table 13.1: a phase is four bits, so a phase that has no row of its own is one of COLLECTIVE_PACKET's. -/
theorem pktPhase_of_others {pkt : Pkt} (h : [phFail, phSlotReply, phSlotResult, phSlotAbort].contains (pktPhase pkt) = false) :
    [phUp, phDown, phDirect, phCounts, phSlotReq, phSlotData, 10, 11, 12, 13, 14, 15].contains (pktPhase pkt) = true := by
  have hall : ∀ n < 16, [phFail, phSlotReply, phSlotResult, phSlotAbort].contains n = false →
      [phUp, phDown, phDirect, phCounts, phSlotReq, phSlotData, 10, 11, 12, 13, 14, 15].contains n = true := by decide
  exact hall _ (fld_lt _ _ 4) h

/-- Every packet row makes the checks of R247 on its own kind of packet. -/
theorem exec_packetRow {p : Nat} {pkt : Pkt} {c : Instr} (h : packetRow p pkt c = true) (s : State) :
    ∃ k, ∃ g : Dev → Dev, pkt.kind = k ∧ exec c s = s.gives (s.view.onPacket p pkt k g) := by
  have coll {phases : List Nat} (g : Dev → Nat → Dev) (hk : pkt.kind = kCollective) (hp : phases.contains (pktPhase pkt) = true)
      (he : exec c s = s.gives (s.view.onColl p pkt phases g)) :
      ∃ k, ∃ g : Dev → Dev, pkt.kind = k ∧ exec c s = s.gives (s.view.onPacket p pkt k g) := by
    obtain ⟨k, hg⟩ := Dev.onColl_of_phase (p := p) hp g
    exact ⟨_, k, hk, he.trans (congrArg s.gives (hg _))⟩
  cases c with
  | collectivePacket q k =>
    simp only [packetRow, Bool.and_eq_true, beq_iff_eq, Bool.not_eq_true'] at h
    obtain ⟨⟨⟨rfl, rfl⟩, hk⟩, hp⟩ := h
    exact coll _ hk (pktPhase_of_others hp) rfl
  | collFailPacket q k | slotReply q k | slotResult q k | slotAbort q k =>
    simp only [packetRow, Bool.and_eq_true, beq_iff_eq] at h
    obtain ⟨⟨⟨rfl, rfl⟩, hk⟩, hp⟩ := h
    exact coll _ hk (by simp [hp]) rfl
  | writePacket q k | readReqPacket q k | readDataPacket q k | pagePacket q k | signalPacket q k | mailboxPacket q k | responsePacket q k =>
    simp only [packetRow, Bool.and_eq_true, beq_iff_eq] at h
    obtain ⟨⟨rfl, rfl⟩, hk⟩ := h
    exact ⟨_, _, hk, rfl⟩
  | _ => exact Bool.noConfusion h

/-- R247: the checks of a packet on a port that carries traffic, in their order, and the counter of each. -/
theorem Dev.onPacket_of_carries {d : Dev} {p : Nat} {pkt : Pkt} {kind : Nat} (h : d.carries p) (hk : pkt.kind = kind) (g : Dev → Dev) :
    d.onPacket p pkt kind g =
      if !pktCrcOk pkt then d.endRest.updPort p (fun x => { x with crcDrops := bump x.crcDrops })
      else if !d.addressed p pkt then d.endRest.updPort p (fun x => { x with misaddressed := bump x.misaddressed })
      else if !((d.noted p pkt).port p).vcOk pkt then (d.noted p pkt).updPort p (fun x => { x with fenceVcDrops := bump x.fenceVcDrops })
      else if !(d.noted p pkt).ingressOk p pkt || !(d.noted p pkt).mapOk pkt then
        (d.noted p pkt).updPort p (fun x => { x with fenceDrops := bump x.fenceDrops })
      else g (d.noted p pkt) := by
  obtain ⟨hp, hup⟩ := h
  have hup' : ((d.port p).state == .up || (d.port p).state == .fenced) = true := by simpa using hup
  rw [Dev.onPacket, if_neg (by simp [Nat.not_le.2 hp, hup']), if_neg fun h => h.1 hk]
  rfl

theorem Dev.updPort_hbm (d : Dev) (p : Nat) (g : Port → Port) : (d.updPort p g).hbm = d.hbm := rfl

end Sys2Proof.Machine
end

section
/-! PROOFS. Discarded packets. -/
open Sys2Proof Sys2Proof.Machine

/-- Settles O38: every packet row makes R247's checks in one order, and what a failed check leaves is a port's counter. -/
theorem packetsAreDiscarded : Obligations.PacketsAreDiscarded := by
  intro s p pkt c hc hp
  obtain ⟨k, g, hk, he⟩ := exec_packetRow hc s
  rw [Dev.onPacket_of_carries hp hk] at he
  refine ⟨fun hcrc => ?_, fun hcrc haddr => ?_, fun hcrc haddr hvc => ?_, fun hcrc haddr hvc hin => ?_, fun e => ⟨rfl, ?_⟩⟩
  · rw [he, if_pos (by rw [hcrc]; rfl)]
  · rw [he, if_neg (by simp [hcrc]), if_pos (by rw [haddr]; rfl)]
  · rw [he, if_neg (by simp [hcrc]), if_neg (by simp [haddr]), if_pos (by rw [hvc]; rfl)]
  · rw [he, if_neg (by simp [hcrc]), if_neg (by simp [haddr]), if_neg (by simp [hvc]), if_pos (by rw [← Bool.not_and, hin]; rfl)]
  · rw [Dev.updPort_hbm, Dev.noted_hbm, State.view_hbm]

end

section
/-! SUPPORT. Furrow ports by number, and what events, the end of a command and packets that look for their port again leave of
them (R39, R59, R239, R254, R257). -/
namespace Sys2Proof.Machine
open Sys2Proof

/-! ### Ports by number -/

theorem Dev.port_congr {d e : Dev} (h : e.ports = d.ports) (q : Nat) : e.port q = d.port q := by
  simp [Dev.port, h]

@[simp] theorem State.view_port (s : State) (q : Nat) : s.view.port q = s.dev.port q := rfl
@[simp] theorem Dev.advance_port (d : Dev) (dt q : Nat) : (d.advance dt).port q = d.port q := rfl
@[simp] theorem Dev.updFlight_port (d : Dev) (f : Nat) (g : Flight → Flight) (q : Nat) : (d.updFlight f g).port q = d.port q := rfl
@[simp] theorem Dev.markRecovered_port (d : Dev) (p q : Nat) : (d.markRecovered p).port q = d.port q := rfl

@[simp] theorem Dev.updPort_port_same (d : Dev) (p : Nat) (g : Port → Port) : (d.updPort p g).port p = g (d.port p) :=
  KV.getD_put_same _ _ _ _

theorem Dev.updPort_port_other (d : Dev) {p q : Nat} (g : Port → Port) (h : q ≠ p) : (d.updPort p g).port q = d.port q :=
  KV.getD_put_other _ _ _ h

@[simp] theorem Dev.finish_port (d : Dev) (f : Nat) (st : Status) (a b q : Nat) : (d.finish f st a b).port q = d.port q :=
  Dev.port_congr (Dev.finish_ports _ _ _ _ _) q

@[simp] theorem Dev.postD_port (d : Dev) (code source : Nat) (l : List Nat) (q : Nat) : (d.postD code source l).port q = d.port q :=
  Dev.port_congr (Dev.postD_ports _ _ _ _) q

/-! ### The identities that a row has sent (R239) -/

@[simp] theorem Dev.raise_ids (d : Dev) (n v : Nat) : (d.raise n v).out.ids = d.out.ids := by
  unfold Dev.raise
  split
  · rfl
  · dsimp only; split <;> rfl

theorem Dev.raiseN_ids (n : Nat) : ∀ (k : Nat) (d : Dev), (d.raiseN n k).out.ids = d.out.ids
  | 0, _ => rfl
  | k + 1, d => (Dev.raiseN_ids n k _).trans (d.raise_ids n 1)

@[simp] theorem Dev.postD_ids (d : Dev) (code source : Nat) (l : List Nat) : (d.postD code source l).out.ids = d.out.ids :=
  Dev.raiseN_ids _ _ _

theorem Dev.coalesce_ids (d : Dev) (n v : Nat) : (d.coalesce n v).out.ids = d.out.ids := by
  unfold Dev.coalesce
  dsimp only
  split
  · exact Dev.raise_ids _ n v
  · rfl

theorem Dev.leave_ids (d : Dev) (id : Nat) (x : Flight) : (d.leave id x).out.ids = d.out.ids := by
  unfold Dev.leave
  dsimp only
  split <;> rfl

theorem Dev.writeEntry_ids (d : Dev) (id : Nat) (x : Flight) : (d.writeEntry id x).out.ids = d.out.ids := by
  unfold Dev.writeEntry
  dsimp only
  split
  · exact Dev.leave_ids _ _ _
  · exact (Dev.coalesce_ids _ _ _).trans (Dev.leave_ids _ _ _)

theorem Dev.retire_ids (d : Dev) (id : Nat) (x : Flight) : (d.retire id x).out.ids = d.out.ids := by
  cases ht : (d.queue x.queue).takes with
  | true => rw [Dev.retire_of_takes id ht, Dev.writeEntry_ids]
  | false => rw [Dev.retire_of_full id ht]; rfl

theorem Dev.postInternal_ids (d : Dev) (id : Nat) (st : Status) (tag : Nat) : (d.postInternal id st tag).out.ids = d.out.ids := by
  unfold Dev.postInternal
  split
  · exact Dev.postD_ids _ _ _ _
  · rfl

@[simp] theorem Dev.finish_ids (d : Dev) (f : Nat) (st : Status) (a b : Nat) : (d.finish f st a b).out.ids = d.out.ids := by
  unfold Dev.finish
  split
  · rfl
  · split
    · rfl
    · rw [Dev.retire_ids, Dev.postInternal_ids]

/-! ### Ports and identities together -/

/-- The ports, and the identities that the row has sent, are the same. -/
structure Dev.SameLinks (d t : Dev) : Prop where
  ports : t.ports = d.ports
  ids : t.out.ids = d.out.ids

theorem Dev.SameLinks.refl (d : Dev) : Dev.SameLinks d d := ⟨rfl, rfl⟩

theorem Dev.SameLinks.trans {a b c : Dev} (h : Dev.SameLinks a b) (g : Dev.SameLinks b c) : Dev.SameLinks a c :=
  ⟨g.ports.trans h.ports, g.ids.trans h.ids⟩

theorem Dev.SameLinks.port {d t : Dev} (h : Dev.SameLinks d t) (q : Nat) : t.port q = d.port q := Dev.port_congr h.ports q

/-- A fold of steps that each keep the links keeps them. -/
theorem Dev.SameLinks.foldl {α : Type} {g : Dev → α → Dev} (h : ∀ d a, Dev.SameLinks d (g d a)) (l : List α) (d : Dev) :
    Dev.SameLinks d (l.foldl g d) :=
  List.foldlRecOn l g (motive := Dev.SameLinks d) (Dev.SameLinks.refl d) (fun t ht a _ => ht.trans (h t a))

theorem Dev.finish_sameLinks (d : Dev) (f : Nat) (st : Status) (a b : Nat) : Dev.SameLinks d (d.finish f st a b) :=
  ⟨Dev.finish_ports _ _ _ _ _, Dev.finish_ids _ _ _ _ _⟩

theorem Dev.noteMailPort_sameLinks (d : Dev) (port : Nat) (p : Pkt) : Dev.SameLinks d (d.noteMailPort port p) := by
  unfold Dev.noteMailPort
  split <;> exact ⟨rfl, rfl⟩

theorem Dev.launch_sameLinks (d : Dev) (port : Nat) (q : Queued) : Dev.SameLinks d (d.launch port q) := by
  unfold Dev.launch
  split
  · exact (d.noteMailPort_sameLinks port q.pkt).trans ⟨rfl, rfl⟩
  · exact ⟨rfl, rfl⟩
  · exact ⟨rfl, rfl⟩

theorem Dev.dispatch_sameLinks (d : Dev) (q : Queued) : Dev.SameLinks d (d.dispatch q).1 := by
  unfold Dev.dispatch
  split
  · exact Dev.SameLinks.refl d
  · exact ⟨rfl, rfl⟩
  · split
    · exact ⟨rfl, rfl⟩
    · split
      · exact ⟨rfl, rfl⟩
      · exact Dev.launch_sameLinks _ _ _

theorem Dev.sendFails_sameLinks (d : Dev) (g : Group) (c : Coll) (st : Status) : Dev.SameLinks d (d.sendFails g c st) := by
  refine Dev.SameLinks.foldl (fun d m => ?_) _ _
  dsimp only
  split
  · exact Dev.dispatch_sameLinks _ _
  · exact Dev.SameLinks.refl d

theorem Dev.hbmWrite_sameLinks (d : Dev) (a : Nat) (bs : List Byte) : Dev.SameLinks d (d.hbmWrite a bs) := ⟨rfl, rfl⟩

theorem Dev.leavePartials_sameLinks (d : Dev) (c : Coll) (st : Status) : Dev.SameLinks d (d.leavePartials c st) := by
  unfold Dev.leavePartials
  split
  · exact Dev.SameLinks.refl d
  · exact Dev.SameLinks.foldl (fun d _ => d.hbmWrite_sameLinks _ _) _ _

theorem Dev.failColl_sameLinks (d : Dev) (id : Nat) (st : Status) : Dev.SameLinks d (d.failColl id st) := by
  unfold Dev.failColl
  split
  · exact Dev.SameLinks.refl d
  · split
    · exact Dev.SameLinks.refl d
    · split
      · exact Dev.SameLinks.refl d
      · refine Dev.SameLinks.trans (Dev.SameLinks.trans ?_ (Dev.sendFails_sameLinks _ _ _ _)) (Dev.leavePartials_sameLinks _ _ _)
        exact ⟨rfl, rfl⟩

/-- A command that ends for a lost packet leaves the ports. -/
theorem Dev.failFlight_sameLinks (d : Dev) (id : Nat) (st : Status) : Dev.SameLinks d (d.failFlight id st) := by
  unfold Dev.failFlight
  split
  · exact Dev.SameLinks.refl d
  · split
    · exact (d.failColl_sameLinks id st).trans (Dev.finish_sameLinks _ _ _ _ _)
    · exact Dev.SameLinks.refl d

/-- A message that is given up leaves the ports. -/
theorem Dev.abortTx_sameLinks (d : Dev) (k : Nat) : Dev.SameLinks d (d.abortTx k) := by
  unfold Dev.abortTx
  split
  · exact Dev.SameLinks.refl d
  · split
    · exact Dev.SameLinks.refl d
    · exact ⟨Dev.postD_ports _ _ _ _, Dev.postD_ids _ _ _ _⟩

theorem Dev.dropped_sameLinks (d : Dev) (q : Queued) (st : Status) : Dev.SameLinks d (d.dropped q st) := by
  have hm : Dev.SameLinks d
      (if q.pkt.kind = kMailbox ∧ q.mode = .asked then d.abortTx (q.pkt.dst * 8 + q.pkt.desc % 8) else d) := by
    split
    · exact d.abortTx_sameLinks _
    · exact Dev.SameLinks.refl d
  unfold Dev.dropped
  dsimp only
  split
  · exact hm.trans (Dev.failFlight_sameLinks _ _ _)
  · exact hm

/-- R257: packets that look for their port again change no port. -/
theorem Dev.drainQueue_sameLinks (d : Dev) : Dev.SameLinks d d.drainQueue := by
  refine Dev.SameLinks.trans (b := { d with outq := [] }) ⟨rfl, rfl⟩ (Dev.SameLinks.foldl (fun d q => ?_) _ _)
  have hd := d.dispatch_sameLinks q
  split
  · exact Dev.SameLinks.refl d
  · split
    · next h => rwa [h] at hd
    · next h => rw [h] at hd; exact hd.trans (Dev.dropped_sameLinks _ _ _)

theorem Dev.gtcFollow_sameLinks (d : Dev) : Dev.SameLinks d d.gtcFollow := by
  unfold Dev.gtcFollow
  dsimp only
  split
  · exact ⟨Dev.postD_ports _ _ _ _, Dev.postD_ids _ _ _ _⟩
  · exact ⟨rfl, rfl⟩

end Sys2Proof.Machine
end

section
/-! SUPPORT. Furrow ports in training: how it starts, whom it keeps waiting, and what its end makes of the port (R237 to R240, R245). -/
namespace Sys2Proof.Machine
open Sys2Proof

/-! ### The command that waits for a port (log 37) -/

theorem Dev.portEnds_of_none {d : Dev} {p : Nat} (st : Status) (h : (d.port p).waiter = none) : d.portEnds p st = d := by
  simp [Dev.portEnds, h]

section
variable (d : Dev) (p : Nat) (st : Status)

theorem Dev.portEnds_port_same : (d.portEnds p st).port p = { d.port p with waiter := none } := by
  unfold Dev.portEnds
  split
  · next h => rw [← h]
  · simp [Dev.portDone]

theorem Dev.portEnds_port_other {q : Nat} (h : q ≠ p) : (d.portEnds p st).port q = d.port q := by
  unfold Dev.portEnds
  split
  · rfl
  · rw [Dev.portDone, Dev.finish_port, Dev.updPort_port_other _ _ h]

theorem Dev.portEnds_ids : (d.portEnds p st).out.ids = d.out.ids := by
  unfold Dev.portEnds
  split
  · rfl
  · exact Dev.finish_ids _ _ _ _ _

@[simp] theorem Dev.portEnds_now : (d.portEnds p st).now = d.now := by
  unfold Dev.portEnds
  split
  · rfl
  · exact Dev.finish_now _ _ _ _ _

end

/-! ### The start of a training -/

/-- The port as its training starts (R238, R245). -/
def Port.training (x : Port) (now : Nat) : Port :=
  { x with state := .training, off := false, spare := (none, none), version := 0, released := false, since := now,
           hold := (none, none), replayUntil := 0, replayTimes := ([], []), trainings := bump x.trainings }

theorem Dev.startTraining_eq (d : Dev) (p : Nat) : d.startTraining p = d.updPort p (fun x => x.training d.now) := rfl

/-! ### The end of a training (R239) -/

/-- The lane of the first eight that did not pass; the spare carries it (R245). -/
def badLane (lanes : Nat) : Option Nat := (List.range 8).find? (fun l => !bitOf lanes l)

/-- The device with its identity sent, and the port with the lanes that passed. -/
def Dev.trained (d : Dev) (p lanes : Nat) : Dev :=
  Dev.updPort { d with out := { d.out with ids := d.out.ids ++ [(p, d.identity p)] } } p (fun x => { x with
    goodLanes := popLanes lanes, spare := (badLane lanes, badLane lanes), retries := 0, failPosted := false, since := d.now })

/-- The port once the neighbour is known: UP without a cause to fence it, else FENCED. -/
def Port.judged (x : Port) (nb : Neighbour) (c : Nat) : Port :=
  { x with state := if c = 0 then .up else .fenced, nb := some nb, fenceCause := c, released := false,
           version := (commonVersion nb).getD 0 }

theorem Dev.judgePort_of_accepted {d : Dev} {p : Nat} {nb : Neighbour} (h : d.fenceCauseOf p nb = 0) :
    d.judgePort p nb = (d.updPort p (fun x => x.judged nb 0)).drainQueue.gtcFollow := by
  rw [Dev.judgePort, h]
  rfl

theorem Dev.judgePort_of_fenced {d : Dev} {p : Nat} {nb : Neighbour} (h : d.fenceCauseOf p nb ≠ 0) :
    d.judgePort p nb = (((d.updPort p (fun x => x.judged nb (d.fenceCauseOf p nb))).portFenced p).postFenced p nb).gtcFollow :=
  if_neg h

/-- The comparison of identities reads the route table alone. -/
theorem Dev.trained_fenceCauseOf (d : Dev) (p lanes : Nat) (nb : Neighbour) : (d.trained p lanes).fenceCauseOf p nb = d.fenceCauseOf p nb :=
  rfl

theorem exec_portTrainingDone {s : State} {p lanes : Nat} (nb : Neighbour) (ht : (s.dev.port p).state = .training)
    (hl : 8 ≤ popLanes lanes) :
    exec (.portTrainingDone p nb lanes) s = s.gives (((s.view.trained p lanes).judgePort p nb).portEnds p .ok) :=
  congrArg s.gives (if_neg fun h => h.elim (· ht) (Nat.not_lt.2 hl))

theorem exec_portTrainingDone_of_not {s : State} {p lanes : Nat} (nb : Neighbour)
    (h : (s.dev.port p).state ≠ .training ∨ popLanes lanes < 8) : exec (.portTrainingDone p nb lanes) s = s.gives s.view :=
  congrArg s.gives (if_pos h)

/-! ### Limits and retries (R238, R245) -/

theorem exec_portTrainingTimeout {s : State} {p : Nat} (dt : Nat) (h : (s.dev.port p).state = .training) :
    exec (.portTrainingTimeout p dt) s = s.gives (if (s.view.advance dt).elapsed (s.dev.port p).since (trainLimit (s.dev.port p).cls)
      then (s.view.advance dt).failPort p 3 else s.view.advance dt) := by
  show execPortTrainingTimeout p dt s = _
  simp only [execPortTrainingTimeout, onDev_gives, Dev.advance_port, State.view_port, h, true_and]

/-- How long a FAILED port rests before it trains again (R238). -/
def Port.retryAfter (x : Port) : Nat := if x.retries = 0 then 10000000 else 1000000000

theorem exec_portAutoRetrain {s : State} {p : Nat} (dt : Nat) (h : (s.dev.port p).state = .failed) :
    exec (.portAutoRetrain p dt) s = s.gives (if (s.view.advance dt).elapsed (s.dev.port p).since (s.dev.port p).retryAfter
      then ((s.view.advance dt).startTraining p).updPort p (fun x => { x with retries := x.retries + 1 }) else s.view.advance dt) := by
  show execPortAutoRetrain p dt s = _
  simp only [execPortAutoRetrain, onDev_gives, Dev.advance_port, State.view_port, h, true_and]
  rfl

end Sys2Proof.Machine
end

section
/-! PROOFS. Ports train. -/
open Sys2Proof Sys2Proof.Machine

/-- Settles O44: the end of a training is the judgement of the port, whose drained packets and waiting command leave the ports;
the other rows compare the time that has passed with their limits. -/
theorem portsTrain : Obligations.PortsTrain := by
  intro s p dt nb lanes
  refine ⟨fun hr => ?_, fun hr => ?_, fun ht hl => ⟨fun hc => ?_, fun hc => ?_⟩, exec_portTrainingDone_of_not nb,
    fun ht => gives_due (exec_portTrainingTimeout dt ht), fun hf w hw => ?_⟩
  · exact congrArg s.gives (if_neg (by simp [hr]))
  · exact congrArg s.gives (if_pos (by simp [hr]))
  · refine ⟨_, (exec_portTrainingDone nb ht hl).trans (congrArg (fun d => s.gives (d.portEnds p .ok))
      (Dev.judgePort_of_accepted (d := s.view.trained p lanes) hc)), ?_⟩
    have hd := ((s.view.trained p lanes).updPort p (fun x => x.judged nb 0)).drainQueue_sameLinks.trans (Dev.gtcFollow_sameLinks _)
    rw [Dev.portEnds_port_same, Dev.portEnds_ids, hd.port, hd.ids, Dev.updPort_port_same, Dev.trained, Dev.updPort_port_same]
    exact ⟨rfl, rfl, rfl, rfl, rfl, rfl⟩
  · refine ⟨_, (exec_portTrainingDone nb ht hl).trans (congrArg (fun d => s.gives (d.portEnds p .ok))
      (Dev.judgePort_of_fenced (d := s.view.trained p lanes) hc)), rfl, ?_⟩
    rw [Dev.trained_fenceCauseOf, Dev.updPort_port_same]
    exact ⟨if_neg hc, rfl, rfl, rfl, fun q hq => by
      rw [Dev.updPort_port_other _ _ hq, Dev.trained, Dev.updPort_port_other _ _ hq]; rfl⟩
  · subst hw
    obtain ⟨hdue, hearly⟩ := gives_due (exec_portAutoRetrain dt hf)
    refine ⟨fun hb => ⟨_, hdue hb, ?_⟩, hearly⟩
    rw [Dev.startTraining_eq, Dev.updPort_port_same, Dev.updPort_port_same]
    exact ⟨rfl, rfl, fun q hq => by rw [Dev.updPort_port_other _ _ hq, Dev.updPort_port_other _ _ hq]; rfl⟩

end

section
/-! SUPPORT. Replays and lane swaps of a port that carries traffic (R243 to R245). -/
namespace Sys2Proof.Machine
open Sys2Proof

@[simp] theorem sel_put2 {α : Type} (dir : Bool) (x : α × α) (a : α) : sel dir (put2 dir x a) = a := by
  cases dir <;> rfl

/-- The port after a replay of one direction that ends at `til` at the latest (R243). -/
def Port.replayed (x : Port) (dir : Bool) (now til : Nat) : Port :=
  { x with replays := bump x.replays, uncorrectable := x.uncorrectable + 1, replayUntil := max x.replayUntil til,
           replayTimes := put2 dir x.replayTimes (now :: x.recentReplays dir now) }

/-- The port once the lane held for a swap is on the spare (R244). -/
def Port.swapped (x : Port) (dir : Bool) (lane : Nat) : Port :=
  { x with hold := put2 dir x.hold none, spare := put2 dir x.spare (some lane), laneSwaps := bump x.laneSwaps,
           replayTimes := put2 dir x.replayTimes [] }

/-- A free value within the bound of R243 (log 37). -/
theorem pick_mod_le (k m : Nat) : Config.pick k % (m + 1) ≤ m := Nat.lt_succ_iff.1 (Nat.mod_lt _ (Nat.succ_pos _))

/-- The device after a replay that takes `ns`; what the port's peers have not answered is marked (R258). -/
def Dev.replay (d : Dev) (p : Nat) (dir : Bool) (ns : Nat) : Dev :=
  (Dev.updPort { d with free := d.free + 1 } p (fun x => x.replayed dir d.now (d.now + ns))).markRecovered p

section
variable (d : Dev) (p : Nat) (dir : Bool) (ns : Nat)

theorem Dev.replay_port_same : (d.replay p dir ns).port p = (d.port p).replayed dir d.now (d.now + ns) := by
  rw [Dev.replay, Dev.markRecovered_port, Dev.updPort_port_same]
  rfl

theorem Dev.replay_port_other {q : Nat} (h : q ≠ p) : (d.replay p dir ns).port q = d.port q := by
  rw [Dev.replay, Dev.markRecovered_port, Dev.updPort_port_other _ _ h]
  rfl

theorem Dev.replay_hbm : (d.replay p dir ns).hbm = d.hbm := rfl

end

section
variable {s : State} {p : Nat} (hl : (s.dev.port p).live = true) (dir : Bool)
include hl

theorem exec_linkReplay (dt : Nat) : exec (.linkReplay p dir dt) s = s.gives ((s.view.advance dt).replay p dir
    (Config.pick s.dev.free % (replayMax (s.dev.port p).cls + 1))) := by
  have hgo : ¬ (!(s.dev.port p).live) = true := by simp [hl]
  exact congrArg s.gives (if_neg hgo)

theorem exec_linkSignalLoss : exec (.linkSignalLoss p) s = s.gives (s.view.failPort p 2) :=
  congrArg s.gives (if_pos hl)

variable {dir} (hh : sel dir (s.dev.port p).hold = none)
include hh

theorem exec_laneErrorExcess (lane : Nat) : exec (.laneErrorExcess p dir lane) s = s.gives (s.view.swapLane p dir lane) := by
  have hgo : ¬ (!(s.dev.port p).live || (sel dir (s.dev.port p).hold).isSome) = true := by simp [hl, hh]
  exact congrArg s.gives (if_neg hgo)

variable (hm : 17 ≤ ((s.dev.port p).recentReplays dir s.dev.now).length)
include hm

/-- R244: a 17th replay within 40 µs on a port that carries traffic, with nothing held in that direction. -/
theorem replayStorm_strikes : ¬ (!(s.view.port p).live || ((s.view.port p).recentReplays dir s.view.now).length < 17 ||
    (sel dir (s.view.port p).hold).isSome) = true := by
  rw [State.view_port, State.view_now, hl, hh, decide_eq_false (Nat.not_lt.2 hm)]
  exact Bool.false_ne_true

theorem exec_replayStorm_of_lane (lane : Nat) : exec (.replayStorm p dir (some lane)) s = s.gives (s.view.swapLane p dir lane) := by
  show execReplayStorm p dir (some lane) s = _
  rw [execReplayStorm, onDev_gives]
  dsimp only
  rw [if_neg (replayStorm_strikes hl hh hm)]

theorem exec_replayStorm_of_noLane : exec (.replayStorm p dir none) s = s.gives (s.view.failPort p 0) := by
  show execReplayStorm p dir none s = _
  rw [execReplayStorm, onDev_gives]
  dsimp only
  rw [if_neg (replayStorm_strikes hl hh hm)]

end

theorem exec_replayStorm_of_few {s : State} {p : Nat} {dir : Bool} (lane : Option Nat)
    (h : ((s.dev.port p).recentReplays dir s.dev.now).length < 17) : exec (.replayStorm p dir lane) s = s.gives s.view := by
  have hstop : (!(s.dev.port p).live || ((s.dev.port p).recentReplays dir s.dev.now).length < 17 ||
      (sel dir (s.dev.port p).hold).isSome) = true := by simp [h]
  exact congrArg s.gives (if_pos hstop)

/-- R245: with the spare in use a second failing lane makes the port FAILED. -/
theorem Dev.swapLane_of_spare {d : Dev} {p : Nat} {dir : Bool} (lane : Nat) (h : (sel dir (d.port p).spare).isSome = true) :
    d.swapLane p dir lane = d.failPort p 1 :=
  if_pos h

/-- R244: with the spare free the direction's traffic is held for the swap. -/
theorem Dev.swapLane_of_free {d : Dev} {p : Nat} {dir : Bool} (lane : Nat) (h : (sel dir (d.port p).spare).isSome = false) :
    d.swapLane p dir lane = (d.updPort p (fun x => { x with hold := put2 dir x.hold (some (lane, d.now)) })).markRecovered p :=
  if_neg (by simp [h])

section
variable {s : State} {p l since : Nat} {dir : Bool} (dt : Nat) (h : sel dir (s.dev.port p).hold = some (l, since))
include h

theorem exec_laneSwapDone : exec (.laneSwapDone p dir dt) s = s.gives (if 200000 ≤ s.dev.now + dt - since then s.view.advance dt
    else (((s.view.advance dt).updPort p (fun x => x.swapped dir l)).drainQueue).postD evLaneSwap p
      [l, (s.dev.now + dt - since) / 1000]) := by
  show execLaneSwapDone p dir dt s = _
  simp only [execLaneSwapDone, onDev_gives, Dev.advance_port, State.view_port, h]
  rfl

theorem exec_laneSwapHoldTimeout : exec (.laneSwapHoldTimeout p dir dt) s = s.gives (if 200000 ≤ s.dev.now + dt - since
    then (s.view.advance dt).failPort p 0 else s.view.advance dt) := by
  show execLaneSwapHoldTimeout p dir dt s = _
  simp only [execLaneSwapHoldTimeout, onDev_gives, Dev.advance_port, State.view_port, h]
  rfl

end

end Sys2Proof.Machine
end

section
/-! PROOFS. Lanes fail and swap. -/
open Sys2Proof Sys2Proof.Machine

/-- Settles O45: a replay writes the port's counts; a storm is an excess of the lane it names; a swap compares the time that its
hold has lasted, and the packets that it lets go leave the ports. -/
theorem lanesFailAndSwap : Obligations.LanesFailAndSwap := by
  intro s p dt lane dir
  refine ⟨fun hl => ⟨⟨_, exec_linkReplay hl dir dt, ?_⟩, exec_linkSignalLoss hl,
    fun hh => ⟨fun hsp => ?_, fun hsp => ?_, fun hm => ⟨?_, exec_replayStorm_of_noLane hl hh hm⟩, fun hf l => exec_replayStorm_of_few l hf⟩⟩,
    fun l since hh => ⟨fun hb => ?_, fun hb => ⟨?_, ?_⟩⟩⟩
  · rw [Dev.replay_port_same, Dev.replay_hbm]
    exact ⟨rfl, sel_put2 _ _ _, max_le_max (Nat.le_refl _) (Nat.add_le_add_left (pick_mod_le _ _) _), Nat.le_max_left _ _,
      fun q hq => Dev.replay_port_other _ _ _ _ hq, rfl⟩
  · rw [exec_laneErrorExcess hl hh, Dev.swapLane_of_spare (d := s.view) _ hsp]
  · refine ⟨_, (exec_laneErrorExcess hl hh lane).trans (congrArg s.gives (Dev.swapLane_of_free (d := s.view) lane hsp)), ?_⟩
    rw [Dev.markRecovered_port, Dev.updPort_port_same]
    exact ⟨sel_put2 _ _ _, rfl⟩
  · rw [exec_replayStorm_of_lane hl hh hm, exec_laneErrorExcess hl hh]
  · refine ⟨_, (exec_laneSwapDone dt hh).trans (congrArg s.gives (if_neg (Nat.not_le.2 hb))), ?_⟩
    rw [Dev.postD_port, (Dev.drainQueue_sameLinks _).port, Dev.updPort_port_same, exec_laneSwapHoldTimeout dt hh,
      if_neg (Nat.not_le.2 hb)]
    exact ⟨sel_put2 _ _ _, sel_put2 _ _ _, rfl, rfl⟩
  · rw [exec_laneSwapDone dt hh, if_pos hb]
  · rw [exec_laneSwapHoldTimeout dt hh, if_pos hb]

end

section
/-! SUPPORT. PORT_CONTROL and ROUTE_LOAD: an equation for each action and each answer (R236 to R238, R242, R251, R252). -/
namespace Sys2Proof.Machine
open Sys2Proof

/-- The port that a PORT_CONTROL names, its action, and the reach class it sets. -/
def Flight.port (x : Flight) : Nat := fld (x.w 2) 0 4
def Flight.portAction (x : Flight) : Nat := fld (x.w 2) 8 4
def Flight.reachClass (x : Flight) : Nat := fld (x.w 2) 16 2

theorem Runs.onPort {s : State} {f a : Nat} {x : Flight} (h : Runs s f 0x71 x) (ha : x.portAction = a) (g : Dev → Nat → Flight → Dev) :
    Machine.onDev s (fun d => d.onPort f a (g d)) = s.gives (g s.view x.port x) := by
  rw [onDev_gives, Dev.onPort, h.onFlight]
  exact congrArg s.gives (if_pos ha)

/-- A PORT_CONTROL that changes neither queues nor commands ends with the counters of its port. -/
theorem Dev.portDone_of_disabled {d : Dev} {p : Nat} (f : Nat) (st : Status) (h : (d.port p).state = .disabled) :
    d.portDone f p st = d.finish f st 0 0 := by
  simp [Dev.portDone, PortState.code, Port.lanes, h]

/-! ### Training on demand (log 37) -/

/-- The port as a training starts for command `f`. -/
def Port.trainingFor (x : Port) (now f : Nat) : Port :=
  { (x.training now) with retries := 0, waiter := some f }

theorem Dev.trainFor_port_same (d : Dev) (f p : Nat) : (d.trainFor f p).port p = (d.port p).trainingFor d.now f := by
  rw [Dev.trainFor, Dev.updFlight_port, Dev.updPort_port_same, Dev.startTraining_eq, Dev.updPort_port_same, Dev.portEnds_port_same,
    Dev.portEnds_now]
  rfl

theorem Dev.trainFor_port_other (d : Dev) (f : Nat) {p q : Nat} (h : q ≠ p) : (d.trainFor f p).port q = d.port q := by
  rw [Dev.trainFor, Dev.updFlight_port, Dev.updPort_port_other _ _ h, Dev.startTraining_eq, Dev.updPort_port_other _ _ h,
    Dev.portEnds_port_other _ _ _ h]

/-- With no command waiting for the port before, only command `f` changes: it now waits. -/
theorem Dev.trainFor_work {d : Dev} {f p : Nat} {x : Flight} (hw : (d.port p).waiter = none) (h : KV.find d.flights f = some x) :
    KV.find (d.trainFor f p).flights f = some { x with phase := .moving } ∧ (d.trainFor f p).queues = d.queues := by
  rw [Dev.trainFor, Dev.portEnds_of_none _ hw]
  refine ⟨?_, rfl⟩
  rw [Dev.updFlight_flights, KV.find_upd_same]
  exact congrArg _ h

/-! ### The actions -/

section
variable {s : State} {f : Nat} {x : Flight} (h : Runs s f 0x71 x)
include h

theorem exec_portEnable (ha : x.portAction = 0) : exec (.portEnable f) s = s.gives
    (if (s.dev.port x.port).state = .disabled then (s.view.trainFor f x.port).updPort x.port (fun y => { y with failPosted := false })
      else s.view.portDone f x.port .ok) := by
  show execPortEnable f s = _
  rw [execPortEnable, h.onPort ha]
  rfl

theorem exec_portDisable (ha : x.portAction = 1) : exec (.portDisable f) s = s.gives
    (if (s.dev.port x.port).state = .disabled then (s.view.updPort x.port (fun y => { y with off := true })).portDone f x.port .ok
      else ((((((s.view.updPort x.port (fun y =>
        { y with state := .disabled, off := true, hold := (none, none), replayUntil := 0, released := false })).portLost x.port).postLinkFailed
          x.port 4).portEnds x.port .linkFailed).gtcFollow.dropPlls).portDone f x.port .ok)) := by
  show execPortDisable f s = _
  rw [execPortDisable, h.onPort ha]
  rfl

theorem exec_portRetrain (ha : x.portAction = 2) : exec (.portRetrain f) s = s.gives
    (if (s.dev.port x.port).state = .disabled then s.view.finish f .badParam 0 0
      else ((((s.view.trainFor f x.port).portLost x.port).postLinkFailed x.port 4).gtcFollow)) := by
  show execPortRetrain f s = _
  rw [execPortRetrain, h.onPort ha]
  rfl

theorem exec_portSetReachClass (ha : x.portAction = 3) : exec (.portSetReachClass f) s = s.gives
    (if (s.dev.port x.port).state ≠ .disabled ∨ x.reachClass = 3 then s.view.finish f .badParam 0 0
      else (s.view.updPort x.port (fun y => { y with cls := x.reachClass })).portDone f x.port .ok) := by
  show execPortSetReachClass f s = _
  rw [execPortSetReachClass, h.onPort ha]
  rfl

theorem exec_portReleaseFence (ha : x.portAction = 4) : exec (.portReleaseFence f) s = s.gives
    (if (s.dev.port x.port).state ≠ .fenced then s.view.portDone f x.port .ok
      else if (s.dev.port x.port).fenceCause % 2 = 1 ∨ 8 ≤ (s.dev.port x.port).fenceCause then s.view.finish f .badParam 0 0
      else ((s.view.updPort x.port (fun y => { y with state := .up, released := true })).drainQueue.gtcFollow).portDone f x.port .ok) := by
  show execPortReleaseFence f s = _
  rw [execPortReleaseFence, h.onPort ha]
  rfl

end

/-! ### ROUTE_LOAD (R251, R252) -/

/-- The device under the route table at `a`, each trained port compared with its expectations. -/
def Dev.withRoute (d : Dev) (a n : Nat) : Dev :=
  ((List.range 16).foldl Dev.rejudge
    { d with route := some (readRoute d.hbm a n), routeGen := (d.routeGen + 1) % 2 ^ 32 }).gtcFollow

theorem exec_routeLoad {s : State} {f : Nat} {x : Flight} (h : Runs s f 0x70 x) : exec (.routeLoad f) s = s.gives
    (if routeBad s.nv s.view (x.d 2) (x.w 4) then s.view.finish f .badParam 0 0
      else if !s.dev.outq.isEmpty then s.view
      else (s.view.withRoute (x.d 2) (x.w 4)).finish f .ok ((s.dev.routeGen + 1) % 2 ^ 32) 0) := by
  show execRouteLoad f s = _
  rw [execRouteLoad, h.onDevR]
  rfl

end Sys2Proof.Machine
end

section
/-! PROOFS. Ports are controlled. -/
open Sys2Proof Sys2Proof.Machine

/-- Settles O43: each action decides by the state of the port that the command names; ROUTE_LOAD by the table and the packets
that wait. -/
theorem portsAreControlled : Obligations.PortsAreControlled := by
  intro s f p x hs hp
  obtain rfl : p = x.port := hp
  refine ⟨fun h => ⟨fun ha hd => ?_, fun ha hd => ?_, fun ha hd => ?_, fun ha hd => ?_, fun ha hd => ?_, fun ha hd => ?_,
    fun ha hd hc => ?_, fun ha hb => ?_, fun ha hf h1 h8 => ?_, fun ha hf => ?_, fun ha hf hb => ?_⟩,
    fun h => ⟨fun hb => ?_, fun hb hq => ?_, fun hb hq => ?_⟩⟩
  · refine ⟨_, (exec_portEnable h ha).trans (congrArg s.gives (if_pos hd)), ?_⟩
    rw [Dev.updPort_port_same, Dev.trainFor_port_same]
    exact ⟨rfl, rfl, rfl, rfl, fun q hq => (Dev.updPort_port_other _ _ hq).trans (Dev.trainFor_port_other _ f hq),
      fun hw => Dev.trainFor_work (d := s.view) hw h.1⟩
  · exact (exec_portEnable h ha).trans (congrArg s.gives (if_neg hd))
  · have hd' : ((s.view.updPort x.port (fun y => { y with off := true })).port x.port).state = .disabled := by
      rw [Dev.updPort_port_same]
      exact hd
    refine ⟨_, (exec_portDisable h ha).trans (congrArg s.gives ((if_pos hd).trans (Dev.portDone_of_disabled f .ok hd'))),
      h.completed hs, ?_⟩
    rw [Dev.finish_port]
    exact ⟨hd', congrArg Port.off (Dev.updPort_port_same _ _ _)⟩
  · exact (exec_portDisable h ha).trans (congrArg s.gives (if_neg hd))
  · exact ⟨_, (exec_portRetrain h ha).trans (congrArg s.gives (if_pos hd)), h.completed hs, Dev.view_finish_keeps _ _ _ _ _⟩
  · exact (exec_portRetrain h ha).trans (congrArg s.gives (if_neg hd))
  · have hd' : ((s.view.updPort x.port (fun y => { y with cls := x.reachClass })).port x.port).state = .disabled := by
      rw [Dev.updPort_port_same]
      exact hd
    refine ⟨_, (exec_portSetReachClass h ha).trans (congrArg s.gives
      ((if_neg fun hb => hb.elim (· hd) hc).trans (Dev.portDone_of_disabled f .ok hd'))), h.completed hs, ?_⟩
    rw [Dev.finish_port]
    exact ⟨Dev.updPort_port_same _ _ _, fun q hq => by rw [Dev.finish_port, Dev.updPort_port_other _ _ hq]; rfl⟩
  · exact ⟨_, (exec_portSetReachClass h ha).trans (congrArg s.gives (if_pos hb)), h.completed hs, Dev.view_finish_keeps _ _ _ _ _⟩
  · have hb : ¬ ((s.dev.port x.port).fenceCause % 2 = 1 ∨ 8 ≤ (s.dev.port x.port).fenceCause) := by
      omega
    exact (exec_portReleaseFence h ha).trans (congrArg s.gives ((if_neg (not_not_intro hf)).trans (if_neg hb)))
  · exact (exec_portReleaseFence h ha).trans (congrArg s.gives (if_pos hf))
  · exact ⟨_, (exec_portReleaseFence h ha).trans (congrArg s.gives ((if_neg (not_not_intro hf)).trans (if_pos hb))), h.completed hs,
      Dev.view_finish_keeps _ _ _ _ _⟩
  · exact ⟨_, (exec_routeLoad h).trans (congrArg s.gives (if_pos hb)), h.completed hs, Dev.view_finish_keeps _ _ _ _ _⟩
  · rw [exec_routeLoad h, if_neg (by simp [hb]), if_pos (by simp [hq])]
  · rw [exec_routeLoad h, if_neg (by simp [hb]), if_neg (by simp [hq])]
    rfl

end

section
/-! SUPPORT. Time that passes with no command waiting: the commands in flight and the global tick counter (R258, R274). -/
namespace Sys2Proof.Machine
open Sys2Proof

/-- Log 4: with no command waiting, a step lets one nanosecond pass over the device. -/
theorem step_of_idle {s : State} (h : s.pending = []) : step s = s.gives (s.view.advance 1) := by
  obtain ⟨pending, nv, hay, d⟩ := s
  obtain rfl : pending = [] := h
  rfl

/-- R258: time that passes changes a command in flight by its extension alone. -/
theorem Dev.advance_sameFlights (d : Dev) (dt : Nat) : SameFlights d (d.advance dt) := by
  intro f
  have hadv : (d.advance dt).flights = d.extend dt := rfl
  rw [hadv, Dev.extend, KV.find_mapV, Option.map_map]
  congr 1
  funext x
  dsimp only [Function.comp_apply]
  split <;> rfl

/-- R274: outside STANDBY a counter at its nominal rate gains one tick a nanosecond. -/
theorem Dev.tick_val_of_nominal {d : Dev} (dt : Nat) (hc : d.gtc.counting = true) (hr : d.gtc.ratePpb = 0) (hf : d.gtc.frac < 1000000000)
    (hp : d.devPower ≠ .standby) : (d.tick dt).val = d.gtc.val + BitVec.ofNat 64 dt := by
  have hrate : (1000000000 + (0 : Int)).toNat = 1000000000 := rfl
  have hticks : (d.gtc.frac + dt * 1000000000) / 1000000000 = dt := by
    omega
  simp only [Dev.tick, hc, hr, hp, Bool.not_true, Bool.false_eq_true, if_false, hrate, hticks]

end Sys2Proof.Machine
end

section
/-! PROOFS. Idle steps. -/
open Sys2Proof Sys2Proof.Machine

/-- Settles O2: an idle step is `Dev.advance`, which writes the clock, the counter and the extensions alone. -/
theorem idleStepCountsOneTick : Obligations.IdleStepCountsOneTick := by
  intro s h
  exact ⟨_, step_of_idle h, h, rfl, rfl, rfl, s.view.advance_sameFlights 1, rfl, rfl, rfl,
    fun hc hr hf hp => Dev.tick_val_of_nominal (d := s.view) 1 hc hr hf hp⟩

end

section
/-! SUPPORT. Collective packets that pass the checks: the row that takes a phase, and the instance that a packet names (R261, R272). -/
namespace Sys2Proof.Machine
open Sys2Proof

/-- A collective packet has one row, which takes the packet's phase. -/
theorem exec_collectiveRow {p : Nat} {pkt : Pkt} {c : Instr} (h : packetRow p pkt c = true) (hk : pkt.kind = kCollective) (s : State) :
    ∃ (phases : List Nat) (g : Dev → Nat → Dev), phases.contains (pktPhase pkt) = true ∧
      exec c s = onDev s (fun d => d.onColl p pkt phases g) := by
  cases c with
  | collectivePacket q k =>
    simp only [packetRow, Bool.and_eq_true, beq_iff_eq, Bool.not_eq_true'] at h
    obtain ⟨⟨⟨rfl, rfl⟩, -⟩, hp⟩ := h
    exact ⟨_, _, pktPhase_of_others hp, rfl⟩
  | collFailPacket q k | slotReply q k | slotResult q k | slotAbort q k =>
    simp only [packetRow, Bool.and_eq_true, beq_iff_eq] at h
    obtain ⟨⟨⟨rfl, rfl⟩, -⟩, hp⟩ := h
    exact ⟨[_], _, by rw [hp]; decide, rfl⟩
  | writePacket q k | readReqPacket q k | readDataPacket q k | pagePacket q k | signalPacket q k | mailboxPacket q k | responsePacket q k =>
    simp only [packetRow, Bool.and_eq_true, beq_iff_eq] at h
    exact absurd (h.2.symm.trans hk) (by decide)
  | _ => exact Bool.noConfusion h

section
variable {s : State} {p : Nat} {pkt : Pkt} {phases : List Nat} (h : s.view.passes p pkt) (hk : pkt.kind = kCollective)
  (hp : phases.contains (pktPhase pkt) = true)
include h hk hp

/-- R261: a row of the packet's phase refuses it where no instance that runs here is the one it names, and otherwise accepts it
and hands it on. -/
theorem onColl_gives (g : Dev → Nat → Dev) : onDev s (fun d => d.onColl p pkt phases g) =
    s.gives (((s.view.noted p pkt).collOf pkt).elim ((s.view.noted p pkt).respond p pkt 1) (g ((s.view.noted p pkt).respond p pkt 0))) := by
  rw [onDev_gives, Dev.onColl, if_neg fun ⟨_, hq⟩ => by rw [hp] at hq; exact Bool.noConfusion hq, Dev.onPacket_of_passes h hk]
  cases (s.view.noted p pkt).collOf pkt <;> rfl

theorem onColl_gives_of_some {id : Nat} (hi : (s.view.noted p pkt).collOf pkt = some id) (g : Dev → Nat → Dev) :
    onDev s (fun d => d.onColl p pkt phases g) = s.gives (g ((s.view.noted p pkt).respond p pkt 0) id) := by
  rw [onColl_gives h hk hp, hi]
  rfl

end

/-- R272: a packet of the switch moves the reduction of the instance it names. -/
theorem onSlot_gives {s : State} {p : Nat} {pkt : Pkt} {phase id : Nat} {c : Coll} (h : s.view.passes p pkt) (hk : pkt.kind = kCollective)
    (hi : (s.view.noted p pkt).collOf pkt = some id) (hc : KV.find ((s.view.noted p pkt).respond p pkt 0).colls id = some c)
    (hs : pktFromSwitch pkt = true) (hp : pktPhase pkt = phase) (g : Dev → Nat → Coll → Dev) :
    onDev s (fun d => d.onSlot p pkt phase g) = s.gives (g ((s.view.noted p pkt).respond p pkt 0) id c) := by
  refine (onColl_gives_of_some h hk (by simp [hp]) hi _).trans ?_
  simp only [hc, hs, if_true]

end Sys2Proof.Machine
end

section
/-! PROOFS. Collective packets. -/
open Sys2Proof Sys2Proof.Machine

/-- Settles O40: the row of the packet's phase refuses it or hands it on to its instance, and a switch's row reads that
instance's reduction. -/
theorem collectivePacketsReachTheirInstance : Obligations.CollectivePacketsReachTheirInstance := by
  intro s p pkt h hk
  refine ⟨fun hn c hc => ?_, fun id d hi hd => ?_⟩
  · obtain ⟨phases, g, hp, he⟩ := exec_collectiveRow hc hk s
    rw [he, onColl_gives h hk hp, hn]
    rfl
  subst hd
  refine ⟨fun hp => ?_, fun hp => ?_, fun c hc hs => ⟨fun hp => ?_, fun hp ho => ?_, fun g hp ho hg => ?_⟩⟩
  · exact onColl_gives_of_some h hk (pktPhase_of_others hp) hi _
  · exact onColl_gives_of_some h hk (by simp [hp]) hi _
  · exact onSlot_gives h hk hi hc hs hp _
  · exact (onSlot_gives h hk hi hc hs hp _).trans (congrArg s.gives (if_pos ho))
  · refine (onSlot_gives h hk hi hc hs hp _).trans (congrArg s.gives ?_)
    rw [if_pos ho, hg]

end

section
/-! SUPPORT. Requests to firmware: the row of each, and what firmware answers (R301, R341, R347, R348, Table 18.3). -/
namespace Sys2Proof.Machine
open Sys2Proof

theorem onNv_next (s : State) (g : NonVol → Dev → NonVol × Dev) :
    onNv s g = .next { s with nv := (g s.nv s.view).1, dev := (g s.nv s.view).2 } := rfl

/-! ### STANDBY_REQUEST (R301) -/

section
variable {d : Dev}

theorem Dev.standbyAnswer_of_pads (h : d.pads ≠ []) : d.standbyAnswer = 1 := if_pos (by simpa using h)

theorem Dev.standbyAnswer_of_flights (hp : d.pads = []) (hf : d.flights ≠ []) : d.standbyAnswer = 2 :=
  (if_neg (by simp [hp])).trans (if_pos (by simpa using hf))

theorem Dev.standbyAnswer_of_idle (hp : d.pads = []) (hf : d.flights = []) : d.standbyAnswer = 0 :=
  (if_neg (by simp [hp])).trans (if_neg (by simp [hf]))

end

section
variable {d : Dev} {r : List Word} (h : d.request 0 0 0x0300 = some r)
include h

theorem Dev.standbyReq_of_refused {a : Nat} (ha : d.standbyAnswer = a) (h0 : a ≠ 0) :
    d.standbyReq 0 0 = d.reply 0 0 0x0300 [a] := by
  simp [Dev.standbyReq, h, ha, h0]

theorem Dev.standbyReq_of_accepted (ha : d.standbyAnswer = 0) : (d.standbyReq 0 0).boot.standbyAt.isSome = true := by
  simp [Dev.standbyReq, h, ha]

end

theorem exec_standbyRequest (fn m : Nat) (s : State) : exec (.standbyRequest fn m) s = s.gives (s.view.standbyReq fn m) := rfl

/-! ### The rows that answer with what an operation on the device returns -/

section
variable {s : State} {fn m : Nat} {r : List Word} {d : Dev} {ws : List Nat}

theorem exec_qpCreate (h : s.view.request fn m 0x0400 = some r) (hz : s.view.qpCreate r = (d, ws)) :
    exec (.qpCreate fn m) s = s.gives (d.reply fn m 0x0400 ws) := by
  change execQpCreate fn m s = _
  simp only [execQpCreate, onDev_gives, h, hz]

theorem exec_qpDestroy (h : s.view.request fn m 0x0402 = some r) (hz : s.view.qpDestroy r = (d, ws)) :
    exec (.qpDestroy fn m) s = s.gives (d.reply fn m 0x0402 ws) := by
  change execQpDestroy fn m s = _
  simp only [execQpDestroy, onDev_gives, h, hz]

theorem exec_portAddr (h : s.view.request fn m 0x0404 = some r) (hz : s.view.portAddr r = (d, ws)) :
    exec (.portAddr fn m) s = s.gives (d.reply fn m 0x0404 ws) := by
  change execPortAddr fn m s = _
  simp only [execPortAddr, onDev_gives, h, hz]

theorem exec_keyLoad (h : s.view.request fn m 0x0500 = some r) (hz : s.view.keyLoad s.nv fn m r = (d, ws)) :
    exec (.keyLoad fn m) s = s.gives (d.reply fn m 0x0500 ws) := by
  change execKeyLoad fn m s = _
  simp only [execKeyLoad, onDevR_gives, h, hz]

theorem exec_keyClear (h : s.view.request fn m 0x0502 = some r) (hz : s.view.keyClear r = (d, ws)) :
    exec (.keyClear fn m) s = s.gives (d.reply fn m 0x0502 ws) := by
  change execKeyClear fn m s = _
  simp only [execKeyClear, onDev_gives, h, hz]

end

/-! ### Queue pairs and ports (R339, R341) -/

section
variable {d : Dev} {r : List Word}

theorem Dev.qpCreate_of_noPad (h : KV.has d.pads (fld (reqWord r 1) 16 12) = false) : d.qpCreate r = (d, [1, 0]) :=
  if_pos (.inr (by rw [h]; rfl))

theorem Dev.qpCreate_of_room (hp : KV.has d.pads (fld (reqWord r 1) 16 12) = true) (hm : fld (reqWord r 1) 4 2 ≠ 3) (hn : d.qps.length < 1024) :
    ∃ q, d.qpCreate r = ({ d with qps := KV.put d.qps d.newQp q, free := d.free + 1 }, [0, d.newQp]) ∧
      q.paddock = fld (reqWord r 1) 16 12 ∧ q.remoteQpn = fld (reqWord r 2) 0 24 ∧ q.rkey = reqWord r 11 ∧ q.error = false :=
  ⟨_, (if_neg (by simp [hp, hm])).trans (if_neg (Nat.not_le.2 hn)), rfl, rfl, rfl, rfl⟩

theorem Dev.qpDestroy_of_unknown (h : KV.has d.qps (fld (reqWord r 1) 0 24) = false) : d.qpDestroy r = (d, [1, 0]) :=
  if_pos (by rw [h]; rfl)

theorem Dev.qpDestroy_of_free (h : KV.has d.qps (fld (reqWord r 1) 0 24) = true) (hn : d.qpNamed (fld (reqWord r 1) 0 24) = false) :
    d.qpDestroy r = ({ d with qps := KV.del d.qps (fld (reqWord r 1) 0 24) }, [0, 0]) :=
  (if_neg (by simp [h])).trans (if_neg (by simp [hn]))

end

/-- Table 18.3: the port takes the addresses and the VLAN of the request. -/
theorem Dev.portAddr_port (d : Dev) (r : List Word) :
    ∃ y, d.portAddr r = ({ d with eth := KV.put d.eth (fld (reqWord r 1) 0 1) y }, [0, 0]) ∧
      y.mac = reqWord r 2 + fld (reqWord r 3) 0 16 * 2 ^ 32 ∧ y.vlan = fld (reqWord r 1) 16 12 :=
  ⟨_, rfl, rfl, rfl⟩

/-! ### Keys (R347) -/

/-- No function's records decide whether a region uses a slot. -/
@[simp] theorem Dev.setFn_slotInUse (d : Dev) (n : Nat) (x : Fn) (k : Nat) : (d.setFn n x).slotInUse k = d.slotInUse k := rfl

section
variable {d : Dev} {nv : NonVol} {fn m : Nat} {r : List Word}

theorem Dev.keyLoad_of_first (ha : KV.find (d.fn fn).keyAsm m = none) (hp : fld (reqWord r 1) 8 2 = 0) :
    d.keyLoad nv fn m r = (d.setFn fn { d.fn fn with
      keyAsm := KV.put (d.fn fn).keyAsm m (fld (reqWord r 1) 0 6, reqBytes r 2 6) }, [4]) := by
  simp [Dev.keyLoad, KV.getD, ha, hp]

/-- The last part: two have come, of 24 bytes each, for the slot that it names. -/
structure Dev.KeyEnds (d : Dev) (fn m : Nat) (r : List Word) (b : List Byte) : Prop where
  held : KV.find (d.fn fn).keyAsm m = some (fld (reqWord r 1) 0 6, b)
  length : b.length = 48
  part : fld (reqWord r 1) 8 2 = 2

/-- A mailbox from which no part of a key is held. -/
def Dev.dropParts (d : Dev) (fn m : Nat) : Dev := d.setFn fn { d.fn fn with keyAsm := KV.del (d.fn fn).keyAsm m }

section
variable {b : List Byte} (h : d.KeyEnds fn m r b) {kek : BitVec 256} (hk : nv.kek = some kek)
include h hk

theorem Dev.keyLoad_of_damaged (hu : Config.keyUnwrap kek (b ++ reqBytes r 2 6) = none) :
    d.keyLoad nv fn m r = (d.dropParts fn m, [1]) := by
  simp [Dev.keyLoad, KV.getD, h.held, h.length, h.part, hk, hu, Dev.dropParts]

theorem Dev.keyLoad_of_unwrapped {key : BitVec 512} (hu : Config.keyUnwrap kek (b ++ reqBytes r 2 6) = some key)
    (hf : d.slotInUse (fld (reqWord r 1) 0 6) = false) :
    d.keyLoad nv fn m r = ({ d.dropParts fn m with keys := KV.put d.keys (fld (reqWord r 1) 0 6) key }, [0]) := by
  simp [Dev.keyLoad, KV.getD, h.held, h.length, h.part, hk, hu, hf, Dev.dropParts]

end

theorem Dev.keyClear_of_free (h : d.slotInUse (fld (reqWord r 1) 0 6) = false) :
    d.keyClear r = ({ d with keys := KV.del d.keys (fld (reqWord r 1) 0 6) }, [0]) :=
  if_neg (by simp [h])

theorem Dev.keyClear_of_used (h : d.slotInUse (fld (reqWord r 1) 0 6) = true) : d.keyClear r = (d, [3]) := if_pos h

end

/-! ### The key that wraps them (R348, log 22) -/

section
variable {s : State} {fn m : Nat} {r : List Word} (h : s.view.request fn m 0x0504 = some r)
include h

theorem exec_kekLoad_of_refused (hb : bitOf s.dev.boot.policy 2 = false) :
    exec (.kekLoad fn m) s = s.gives (s.view.reply fn m 0x0504 [3]) := by
  change execKekLoad fn m s = _
  simp only [execKekLoad, onNv_next, h, State.view_boot, hb, Bool.false_eq_true, if_false]
  rfl

theorem exec_kekLoad_of_provisioned (hb : bitOf s.dev.boot.policy 2 = true) {nv : NonVol} {ws : List Nat}
    (hz : kekLoad s.nv r = (nv, ws)) :
    exec (.kekLoad fn m) s = .next { s with nv := nv, dev := s.view.reply fn m 0x0504 ws } := by
  change execKekLoad fn m s = _
  simp only [execKekLoad, onNv_next, h, State.view_boot, hb, hz, if_true]

end

theorem kekLoad_of_low {nv : NonVol} {r : List Word} (hp : fld (reqWord r 1) 0 1 = 0) :
    kekLoad nv r = ({ nv with kekLow := some (BitVec.ofNat 128 (natLE (reqBytes r 2 4))) }, [0]) :=
  if_pos hp

theorem kekLoad_of_high {nv : NonVol} {r : List Word} {lo : BitVec 128} (hp : fld (reqWord r 1) 0 1 = 1) (hl : nv.kekLow = some lo) :
    kekLoad nv r = ({ nv with kek := some (BitVec.ofNat 128 (natLE (reqBytes r 2 4)) ++ lo), kekLow := none }, [0]) := by
  simp [kekLoad, hp, hl]

end Sys2Proof.Machine
end

section
/-! PROOFS. Requests to firmware. -/
open Sys2Proof Sys2Proof.Machine

/-- Settles O26: each row answers the request it finds with what its operation returns, by the cases of that operation;
that KEK_LOAD's part 0 is the low half and its part 1 completes the key is log 22. -/
theorem firmwareAnswersItsRequests : Obligations.FirmwareAnswersItsRequests := by
  refine ⟨fun s r h => ⟨fun hp => ?_, fun hp hf => ?_, fun hp hf => ?_⟩, fun s fn m r => ⟨fun h hp => ?_, fun h hp hm hn => ?_,
    fun h hq => ?_, fun h hq hn => ?_, fun h => ?_, fun h ha hp => ?_, fun b kek h ha hb hp hk hu d hd => ?_, fun h hu => ?_,
    fun h hu => ?_, exec_kekLoad_of_refused, fun h hb hp => ?_, fun lo h hb hp hl => ?_⟩⟩
  · rw [exec_standbyRequest, Dev.standbyReq_of_refused h (Dev.standbyAnswer_of_pads hp) (by decide)]
  · rw [exec_standbyRequest, Dev.standbyReq_of_refused h (Dev.standbyAnswer_of_flights hp hf) (by decide)]
  · exact ⟨_, exec_standbyRequest 0 0 s, Dev.standbyReq_of_accepted h (Dev.standbyAnswer_of_idle hp hf)⟩
  · exact exec_qpCreate h (Dev.qpCreate_of_noPad hp)
  · obtain ⟨q, hz, hq⟩ := Dev.qpCreate_of_room (d := s.view) hp hm hn
    exact ⟨q, exec_qpCreate h hz, hq⟩
  · exact exec_qpDestroy h (Dev.qpDestroy_of_unknown hq)
  · exact exec_qpDestroy h (Dev.qpDestroy_of_free hq hn)
  · obtain ⟨y, hz, hy⟩ := Dev.portAddr_port s.view r
    exact ⟨y, exec_portAddr h hz, hy⟩
  · exact exec_keyLoad h (Dev.keyLoad_of_first ha hp)
  · subst hd
    have hl : s.view.KeyEnds fn m r b := ⟨ha, hb, hp⟩
    cases hw : Config.keyUnwrap kek (b ++ reqBytes r 2 6) with
    | none => exact exec_keyLoad h (Dev.keyLoad_of_damaged hl hk hw)
    | some key => exact exec_keyLoad h (Dev.keyLoad_of_unwrapped hl hk hw hu)
  · exact exec_keyClear h (Dev.keyClear_of_free hu)
  · exact exec_keyClear h (Dev.keyClear_of_used hu)
  · exact exec_kekLoad_of_provisioned h hb (kekLoad_of_low hp)
  · exact exec_kekLoad_of_provisioned h hb (kekLoad_of_high hp hl)

end

section
/-! SUPPORT. Power states of sheds: how a shed goes deeper, its copy in the save area, how it wakes, the PLLs, and REST (R291, R296
to R298, R300). -/
namespace Sys2Proof.Machine
open Sys2Proof

/-! ### Byte memories of which some addresses are kept, cleared or written -/

/-- Bytes kept by their address alone. -/
theorem Memory.read_filter_key (m : Memory) (p : Nat → Bool) (a : Nat) :
    Memory.read (m.filter (fun c => p c.1)) a = if p a then m.read a else Memory.blank := by
  induction m with
  | nil => simp [Memory.read]
  | cons c m ih =>
    obtain ⟨k, v⟩ := c
    by_cases hk : k = a
    · subst hk
      cases hp : p k
      · simpa [hp] using ih
      · simp [hp, Memory.read]
    · cases hp : p k <;> simpa [hp, Memory.read, hk] using ih

theorem Memory.read_clear_outside (m : Memory) {a n c : Nat} (h : c < a ∨ a + n ≤ c) : (m.clear a n).read c = m.read c :=
  (Memory.read_filter_key m (fun k => k < a || a + n ≤ k) c).trans (if_pos (by simpa using h))

theorem Memory.read_writeAll_other (ws : List Host.Cell) : ∀ (m : Memory) {c : Nat}, (∀ w ∈ ws, w.1 ≠ c) →
    (m.writeAll ws).read c = m.read c := by
  induction ws with
  | nil => intro m c _; rfl
  | cons w ws ih =>
    intro m c h
    refine (ih (m.write w.1 w.2) fun x hx => h x (List.mem_cons_of_mem _ hx)).trans ?_
    exact Memory.read_write_other m w.2 (h w List.mem_cons_self).symm

/-! ### A shed's slot of the save area (R298) -/

/-- A crib or loft byte has its place in the first part of the slot. -/
theorem cellOffset_lt {cores : List Nat} {a o : Nat} (h : cellOffset cores a = some o) : o < contextCells := by
  rw [cellOffset] at h
  rw [contextCells]
  split at h
  · obtain ⟨k, -, hk⟩ := Option.bind_eq_some_iff.1 h
    obtain ⟨⟨hk, -⟩, ho⟩ := Option.ite_none_right_eq_some.1 hk
    have hlow := fld_lt a 0 21
    have ho := Option.some.inj ho
    omega
  · obtain ⟨hlow, ho⟩ := Option.ite_none_right_eq_some.1 h
    have ho := Option.some.inj ho
    omega

theorem Dev.length_freeBytes (d : Dev) (n : Nat) : (d.freeBytes n).2.length = n := by
  simp [Dev.freeBytes, rangeFrom]

/-- A shed's copy writes its slot and nothing else of HBM. -/
theorem Dev.storeShed_hbm_outside (d : Dev) {base a : Nat} (shed : Nat) (cores : List Nat) (h : a < base ∨ base + contextSlot ≤ a) :
    (d.storeShed base shed cores).hbm.read a = d.hbm.read a := by
  have hsize : contextCells ≤ contextSlot := by decide
  unfold Dev.storeShed
  dsimp only
  rw [Memory.read_writes_outside _ _ _ _ (by rw [Dev.length_freeBytes]; omega), Memory.read_writeAll_other, Memory.read_clear_outside _ (by omega)]
  intro w hw
  obtain ⟨c, -, hc⟩ := List.mem_filterMap.1 hw
  obtain ⟨o, ho, rfl⟩ := Option.map_eq_some_iff.1 hc
  have hlt := cellOffset_lt ho
  omega

section
variable (d : Dev) (nv : NonVol) (k : Nat)

@[simp] theorem Dev.storeShed_shed (base : Nat) (cores : List Nat) (j : Nat) : (d.storeShed base k cores).shed j = d.shed j := by
  unfold Dev.storeShed
  rfl

@[simp] theorem Dev.storeShed_sram (base : Nat) (cores : List Nat) : (d.storeShed base k cores).sram = d.sram := by
  unfold Dev.storeShed
  rfl

@[simp] theorem Dev.storeShed_acc (base : Nat) (cores : List Nat) : (d.storeShed base k cores).acc = d.acc := by
  unfold Dev.storeShed
  rfl

/-- A shed whose cells are in the save area and no longer its own. -/
def Dev.emptied (d : Dev) (k : Nat) : Dev :=
  { d with sram := d.sram.filter (fun c => !inShed k c.1) }.setShed k { d.shed k with saved := true }

theorem Dev.saveShed_eq : d.saveShed nv k = (d.storeShed (d.saveBase k) k (nv.logical k)).emptied k := rfl

theorem Dev.emptied_shed : (d.emptied k).shed k = { d.shed k with saved := true } := Dev.setShed_shed_same _ _ _
theorem Dev.emptied_acc : (d.emptied k).acc = d.acc := rfl
theorem Dev.emptied_hbm : (d.emptied k).hbm = d.hbm := rfl
theorem Dev.emptied_sram_read (a : Nat) : (d.emptied k).sram.read a = if !inShed k a then d.sram.read a else Memory.blank :=
  Memory.read_filter_key d.sram (fun a => !inShed k a) a

theorem Dev.saveShed_shed : (d.saveShed nv k).shed k = { d.shed k with saved := true } := by
  rw [Dev.saveShed_eq, Dev.emptied_shed, Dev.storeShed_shed]

theorem Dev.saveShed_acc : (d.saveShed nv k).acc = d.acc := by
  rw [Dev.saveShed_eq, Dev.emptied_acc, Dev.storeShed_acc]

theorem Dev.saveShed_sram_read (a : Nat) :
    (d.saveShed nv k).sram.read a = if !inShed k a then d.sram.read a else Memory.blank := by
  rw [Dev.saveShed_eq, Dev.emptied_sram_read, Dev.storeShed_sram]

theorem Dev.saveShed_hbm_outside {a : Nat} (h : a < d.saveBase k ∨ d.saveBase k + contextSlot ≤ a) :
    (d.saveShed nv k).hbm.read a = d.hbm.read a := by
  rw [Dev.saveShed_eq, Dev.emptied_hbm, Dev.storeShed_hbm_outside d k _ h]

@[simp] theorem Dev.unsaveShed_now : (d.unsaveShed nv k).now = d.now := by
  unfold Dev.unsaveShed
  split <;> rfl

theorem Dev.unsaveShed_sram (h : (d.shed k).saved = true) :
    (d.unsaveShed nv k).sram = (d.loadShed (d.saveBase k) k (nv.logical k)).sram := by
  rw [Dev.unsaveShed, if_pos h]
  rfl

end

/-! ### Deeper (R296, R297) -/

theorem Dev.setShed_shed_other (d : Dev) {k j : Nat} (x : Shed) (h : j ≠ k) : (d.setShed k x).shed j = d.shed j :=
  KV.getD_put_other _ _ _ h

theorem Dev.clearSheds_power (d : Dev) (ss : List Nat) (k : Nat) : ((d.clearSheds ss).shed k).power = (d.shed k).power := by
  rw [Dev.shed, Dev.clearSheds, KV.getD, KV.find_mapV, Dev.shed, KV.getD]
  cases KV.find d.sheds k with
  | none => rfl
  | some x =>
    dsimp only [Option.map_some, Option.getD_some]
    split <;> rfl

theorem Dev.clearSheds_acc (d : Dev) {ss : List Nat} {i : Nat} (h : i / 72 ∈ ss) : KV.find (d.clearSheds ss).acc i = none :=
  (KV.find_filter_key d.acc (fun i => !ss.contains (i / 72)) i).trans (if_neg (by simpa using h))

/-- A shed's domain has reached a state that stops clocks: PLLs that nothing wants stop, and REST may be nearer (R291, R300). -/
def Dev.settled (d : Dev) (now : Nat) : Dev := Dev.dropPlls { d with restSince := now }

@[simp] theorem Dev.settled_shed (d : Dev) (now k : Nat) : (d.settled now).shed k = d.shed k := rfl
@[simp] theorem Dev.settled_acc (d : Dev) (now : Nat) : (d.settled now).acc = d.acc := rfl
@[simp] theorem Dev.settled_hbm (d : Dev) (now : Nat) : (d.settled now).hbm = d.hbm := rfl
@[simp] theorem Dev.settled_sram (d : Dev) (now : Nat) : (d.settled now).sram = d.sram := rfl

section
variable (s : State) (k dt : Nat)

theorem exec_shedEnterGate : exec (.shedEnterGate k dt) s = s.gives
    (if (s.view.advance dt).mayDeepen s.nv k 2000 .gate then
      (s.view.advance dt).setShed k { s.dev.shed k with power := .gate } else s.view.advance dt) := rfl

theorem exec_shedEnterHold : exec (.shedEnterHold k dt) s = s.gives
    (if (s.view.advance dt).mayDeepen s.nv k 100000 .hold then
      (s.view.advance dt).setShed k { s.dev.shed k with power := .hold } else s.view.advance dt) := rfl

theorem exec_shedSaveStart : exec (.shedSaveStart k dt) s = s.gives
    (if (s.view.advance dt).mayDeepen s.nv k 2000000 .save && s.view.hasSaveArea && (s.dev.shed k).power == .hold &&
        (s.dev.shed k).saving == none then
      (s.view.advance dt).setShed k { s.dev.shed k with saving := some (s.dev.now + dt) } else s.view.advance dt) := rfl

theorem exec_shedSaveDone : exec (.shedSaveDone k) s = s.gives
    (if (s.dev.shed k).saving.isSome then ((s.view.saveShed s.nv k).setShed k
      { (s.view.saveShed s.nv k).shed k with power := .save, saving := none }).settled (s.view.saveShed s.nv k).now else s.view) := rfl

theorem exec_shedEnterOff : exec (.shedEnterOff k dt) s = s.gives
    (if (s.view.advance dt).mayDeepen s.nv k 20000000 .off then
      (((s.view.advance dt).setShed k { s.dev.shed k with power := .off, saving := none }).clearSheds [k]).settled (s.dev.now + dt)
      else s.view.advance dt) := rfl

end

/-- R298: a finished copy is the shed's slot of the save area, and the shed keeps its accumulators alone. -/
theorem shedSaveDone_saves {s : State} {k : Nat} (h : (s.dev.shed k).saving.isSome = true) : ∃ t, exec (.shedSaveDone k) s = s.gives t ∧
    t.shed k = { s.dev.shed k with power := .save, saving := none, saved := true } ∧ t.acc = s.dev.acc ∧
    t.hbm = (s.view.saveShed s.nv k).hbm ∧ (∀ a, inShed k a = true → t.sram.read a = Memory.blank) ∧
    (∀ a, inShed k a = false → t.sram.read a = s.dev.sram.read a) ∧
    ∀ a, a < s.view.saveBase k ∨ s.view.saveBase k + contextSlot ≤ a → t.hbm.read a = s.dev.hbm.read a := by
  refine ⟨_, (exec_shedSaveDone s k).trans (congrArg s.gives (if_pos h)), ?_, ?_, ?_, fun a ha => ?_, fun a ha => ?_, fun a ha => ?_⟩
  · rw [Dev.settled_shed, Dev.setShed_shed_same, Dev.saveShed_shed]
    rfl
  · rw [Dev.settled_acc, Dev.setShed_acc, Dev.saveShed_acc, State.view_acc]
  · rw [Dev.settled_hbm, Dev.setShed_hbm]
  · rw [Dev.settled_sram, Dev.setShed_sram, Dev.saveShed_sram_read, if_neg (by simp [ha])]
  · rw [Dev.settled_sram, Dev.setShed_sram, Dev.saveShed_sram_read, if_pos (by simp [ha]), State.view_sram]
  · rw [Dev.settled_hbm, Dev.setShed_hbm, Dev.saveShed_hbm_outside _ _ _ ha, State.view_hbm]

/-! ### Awake (R297) -/

/-- A woken shed as it runs: WAKE_PENDING of its mailbox clears where it runs (R56). -/
def Shed.awake (x : Shed) (p : ShedPower) (now : Nat) : Shed :=
  { x with power := p, wakeTo := none, saved := false, idleSince := now, mbox := if p = .run then { x.mbox with wake := false } else x.mbox }

section
variable {s : State} {k : Nat} {p : ShedPower} (h : (s.dev.shed k).wakeTo = some p)
include h

theorem exec_shedWakeDone_of_locked (hl : s.dev.pll.contains (.die (dieOfShed k)) = true) :
    exec (.shedWakeDone k) s = s.gives ((s.view.unsaveShed s.nv k).setShed k ((s.dev.shed k).awake p s.dev.now)) := by
  change s.gives (s.view.shedAwake s.nv k) = _
  simp only [Dev.shedAwake, State.view_shed, State.view_pll, h, hl, if_true, Dev.unsaveShed_now, State.view_now, Shed.awake]

theorem exec_shedWakeDone_of_unlocked (hl : s.dev.pll.contains (.die (dieOfShed k)) = false) :
    exec (.shedWakeDone k) s = s.gives s.view := by
  change s.gives (s.view.shedAwake s.nv k) = _
  simp only [Dev.shedAwake, State.view_shed, State.view_pll, h, hl, Bool.false_eq_true, if_false]

end

/-! ### PLLs and REST (R291, R300) -/

theorem exec_pllLock (p : Pll) (s : State) : exec (.pllLock p) s = s.gives
    (if s.dev.supply.ref && !s.dev.supply.off && !s.dev.supply.trip && s.view.pllWanted p && !s.dev.pll.contains p then
      { s.view with pll := s.dev.pll ++ [p] } else s.view) := rfl

theorem exec_deviceRestEnter (dt : Nat) (s : State) : exec (.deviceRestEnter dt) s = s.gives
    (if (s.view.advance dt).mayRest s.hay && (s.view.advance dt).elapsed s.dev.restSince 50000000 then
      Dev.dropPlls { s.view.advance dt with devPower := .rest } else s.view.advance dt) := rfl

end Sys2Proof.Machine
end

section
/-! PROOFS. Power states of sheds. -/
open Sys2Proof Sys2Proof.Machine

/-- Settles O47: each row where its condition holds, and unchanged where it does not; the copy of a shed is written into its slot alone. -/
theorem shedsSleepAndWake : Obligations.ShedsSleepAndWake := by
  intro s k dt
  refine ⟨fun h => ⟨_, (exec_shedEnterGate s k dt).trans (congrArg s.gives (if_pos h)), Dev.setShed_shed_same _ _ _,
      fun j hj => Dev.setShed_shed_other _ _ hj, s.view.advance_sameFlights dt⟩, fun h => ?_,
    fun h => ⟨_, (exec_shedEnterHold s k dt).trans (congrArg s.gives (if_pos h)), Dev.setShed_shed_same _ _ _⟩, fun h => ?_,
    fun h ha hp hs => ⟨_, (exec_shedSaveStart s k dt).trans (congrArg s.gives (if_pos ?_)), Dev.setShed_shed_same _ _ _⟩, fun h => ?_,
    shedSaveDone_saves, fun h => ?_,
    fun h => ⟨_, (exec_shedEnterOff s k dt).trans (congrArg s.gives (if_pos h)), ?_, fun c hc => ?_, rfl⟩, fun h => ?_,
    fun p h hl => ⟨_, exec_shedWakeDone_of_locked h hl, ?_⟩,
    fun p => exec_shedWakeDone_of_unlocked, fun p hr ho ht hw hl => ?_, fun p hw => ?_,
    fun h hr => ⟨_, (exec_deviceRestEnter dt s).trans (congrArg s.gives (if_pos ?_)), rfl, rfl, rfl⟩, fun h => ?_⟩
  · rw [exec_shedEnterGate, if_neg (by simp [h])]
  · rw [exec_shedEnterHold, if_neg (by simp [h])]
  · rw [h, ha, hp, hs]
    rfl
  · rw [exec_shedSaveStart, if_neg (by simp [h])]
  · rw [exec_shedSaveDone, if_neg (by simp [h])]
  · rw [Dev.settled_shed, Dev.clearSheds_power, Dev.setShed_shed_same]
  · exact Dev.clearSheds_acc _ (List.mem_singleton.2 (by omega))
  · rw [exec_shedEnterOff, if_neg (by simp [h])]
  · rw [Dev.setShed_shed_same]
    exact ⟨rfl, rfl, rfl, rfl, fun hs => s.view.unsaveShed_sram s.nv k hs, fun hp => by rw [Shed.awake, if_pos hp]⟩
  · rw [exec_pllLock, if_pos (by rw [hr, ho, ht, hw, hl]; rfl)]
  · rw [exec_pllLock, if_neg (by simp [hw])]
  · rw [h, Bool.true_and, Dev.elapsed_iff]
    exact hr
  · rw [exec_deviceRestEnter, if_neg (by simp [h])]

end

section
/-! SUPPORT. Cores retired and mapped: what a retirement writes, what stays of a shed's logical cores, and the cores of a run
(R66, R312 to R314). -/
namespace Sys2Proof.Machine
open Sys2Proof

/-! ### The fallow record of a core -/

@[simp] theorem State.view_core (s : State) (k : Nat) : s.view.core k = s.dev.core k := rfl

theorem Dev.core_congr {d e : Dev} (h : e.cores = d.cores) (k : Nat) : e.core k = d.core k := congrArg (KV.getD · k CoreRec.blank) h

@[simp] theorem Dev.postD_core (d : Dev) (code source : Nat) (l : List Nat) (k : Nat) : (d.postD code source l).core k = d.core k :=
  Dev.core_congr (Dev.postD_cores _ _ _ _) k

@[simp] theorem Dev.setShed_core (d : Dev) (n : Nat) (x : Shed) (k : Nat) : (d.setShed n x).core k = d.core k := rfl

@[simp] theorem Dev.setCore_core_same (d : Dev) (k : Nat) (c : CoreRec) : (d.setCore k c).core k = c := KV.getD_put_same _ _ _ _

theorem Dev.setCore_core_other (d : Dev) {k j : Nat} (c : CoreRec) (h : j ≠ k) : (d.setCore k c).core j = d.core j :=
  KV.getD_put_other _ _ _ h

/-! ### Good cores and spares (R313) -/

section
variable (nv : NonVol) (shed core : Nat) (r : Retired)

/-- The non-volatile area with one more retirement. -/
def NonVol.retire : NonVol := { nv with retired := KV.put nv.retired (coreKey shed core) r }

theorem NonVol.retire_isRetired (j : Nat) : (nv.retire shed core r).isRetired shed j = (j == core || nv.isRetired shed j) := by
  by_cases hj : j = core
  · simp [NonVol.isRetired, NonVol.retire, KV.has, KV.find_put_same, hj]
  · have hkey : coreKey shed j ≠ coreKey shed core := by simpa [coreKey] using hj
    simp [NonVol.isRetired, NonVol.retire, KV.has, KV.find_put_other _ _ hkey, hj]

theorem NonVol.retire_good : (nv.retire shed core r).good shed = (nv.good shed).filter (· != core) := by
  rw [NonVol.good, NonVol.good, List.filter_filter]
  refine List.filter_congr fun j _ => ?_
  rw [NonVol.retire_isRetired, Bool.not_or]
  rfl

theorem NonVol.spares_of_inService (h : nv.inService shed = true) : nv.spares shed = ((nv.good shed).drop 64).length := by
  rw [NonVol.spares, if_pos h, List.length_drop]

theorem NonVol.spares_of_left (h : nv.inService shed = false) : nv.spares shed = 0 := if_neg (by simp [h])

variable {shed core}

/-- A spare stands behind the 64 cores that are mapped, so they stay the first of those left. -/
theorem NonVol.retire_logical_of_spare (h : (nv.logical shed).contains core = false) (hg : 64 ≤ (nv.good shed).length) :
    (nv.retire shed core r).logical shed = nv.logical shed := by
  have hkeep : (nv.logical shed).filter (· != core) = nv.logical shed :=
    List.filter_eq_self.2 fun j hj => bne_iff_ne.2 fun he => by simp [← he, hj] at h
  have hlen : (nv.logical shed).length = 64 := List.length_take_of_le hg
  calc (nv.retire shed core r).logical shed
      = ((nv.logical shed ++ (nv.good shed).drop 64).filter (· != core)).take 64 := by
        rw [NonVol.logical, NonVol.retire_good, NonVol.logical, List.take_append_drop]
    _ = (nv.logical shed ++ ((nv.good shed).drop 64).filter (· != core)).take 64 := by rw [List.filter_append, hkeep]
    _ = nv.logical shed := List.take_left' hlen

end

/-! ### A retirement (R312) -/

section
variable {nv : NonVol} {shed core : Nat} (d : Dev) (cause : Nat)

theorem retireCore_of_retired (h : nv.isRetired shed core = true) : retireCore nv d shed core cause = (nv, d) := if_pos h

/-- R312, R315: the retirement is recorded, the core takes no further slice, and a shed of too few cores is to leave; the
commands and the queues stay. -/
theorem retireCore_of_good {nv' : NonVol} (h : nv.isRetired shed core = false)
    (hnv : nv' = nv.retire shed core { cause := cause, tick := d.gtc.val }) :
    ∃ t, retireCore nv d shed core cause = (nv', t) ∧ Dev.SameWork d t ∧
      t.core (coreKey shed core) = { d.core (coreKey shed core) with running := none, dueAt := [], failedOnce := [] } ∧
      ((nv'.good shed).length < 64 → (t.shed shed).leaving = true) := by
  subst hnv
  have hpost := fun l => Dev.postD_sameWork d evCoreRetired (shed + core * 256) l
  refine ⟨_, if_neg (by simp [h]), ?_⟩
  dsimp only
  split
  · exact ⟨(hpost _).trans ⟨rfl, rfl, rfl⟩, by simp, fun _ => by simp⟩
  · next hfew => exact ⟨(hpost _).trans ⟨rfl, rfl, rfl⟩, by simp, fun hlt => absurd hlt hfew⟩

end

/-! ### CORE_RETIRE (R314) -/

theorem exec_coreRetire {s : State} {f : Nat} {x : Flight} (h : Runs s f 0x92 x) {nv : NonVol} {d : Dev}
    (hz : retireCore s.nv s.view (fld (x.w 2) 0 5) (fld (x.w 2) 8 7) 6 = (nv, d)) :
    exec (.coreRetire f) s = .next { s with nv := nv, dev := d.finish f .ok (nv.spares (fld (x.w 2) 0 5)) 0 } := by
  obtain ⟨hf, hp, ho⟩ := h
  show execCoreRetire f s = _
  simp only [execCoreRetire, onNv_next, State.view_flights, hf, hp, ho, and_self, if_true, hz]

/-! ### The cores of a run (R66) -/

theorem KV.mem_of_find {α : Type} {t : KV α} {i : Nat} {a : α} (h : KV.find t i = some a) : (i, a) ∈ t := by
  induction t with
  | nil => cases h
  | cons e t ih =>
    obtain ⟨k, v⟩ := e
    rw [KV.find] at h
    split at h
    · next hk => cases h; exact hk ▸ List.mem_cons_self
    · exact List.mem_cons_of_mem _ (ih h)

/-- Each shed of a run that starts has the shed's good cores in their order. -/
theorem NonVol.startSheds_cores {nv : NonVol} {p : Paddock} {im : PlanImg} {k : Nat} {y : ShedRun}
    (h : KV.find (nv.startSheds p im) k = some y) : y.cores = nv.logical y.phys := by
  obtain ⟨e, -, he⟩ := List.mem_map.1 (KV.mem_of_find h)
  obtain ⟨-, rfl⟩ := Prod.mk.inj he
  rfl

/-- A run that names no sequence takes the cores of each of its sheds as it starts. -/
theorem exec_planRun_of_noSeq {s : State} {f : Nat} {x : Flight} {r : Run} {p : Paddock} {q : Plan} (h : Runs s f 0x11 x)
    (hr : KV.find s.dev.runs f = some r) (hs : r.started = false) (hz : r.zeroBound = false) (hp : s.dev.pad x.paddock = some p)
    (hq : s.view.runPlan r = some q) (hm : s.view.mayRun p r = true) (hk : r.seqKeys = [])
    (hn : (s.view.planImg q).sheds ≤ (p.serving s.nv).length) :
    ∃ d : Dev, exec (.planRun f) s = s.gives (d.stepBegin f) ∧
      (KV.find d.runs f).map (·.sheds) = some (s.nv.startSheds p (s.view.planImg q)) := by
  have hswap : s.view.swapInAll f r.seqKeys = (s.view, true) := by rw [hk]; rfl
  refine ⟨_, (exec_planRun_of_bound h hr hs hz hp hq).trans (congrArg s.gives ((if_pos hm).trans (Dev.runStart_of_swapped f hn hswap))), ?_⟩
  rw [Dev.updRun_runs, KV.find_upd_same, Dev.updPlan_runs, Dev.freshSheds, State.view_runs, hr]
  rfl

end Sys2Proof.Machine
end

section
/-! PROOFS. Cores retired and mapped. -/
open Sys2Proof Sys2Proof.Machine

/-- Settles O53: the row is a retirement and its completion; a spare stands behind the cores that are mapped, and a run takes
those of each of its sheds. -/
theorem coresAreRetiredAndMapped : Obligations.CoresAreRetiredAndMapped := by
  refine ⟨?_, fun x h => ?_, fun nv s l c r => ⟨List.getElem?_take, nv.spares_of_inService s, nv.spares_of_left s,
    fun _ hc hg => nv.retire_logical_of_spare r hc hg⟩, ?_⟩
  · rintro s f _ _ x h rfl rfl hs
    refine ⟨fun hret => ⟨_, exec_coreRetire h (retireCore_of_retired s.view 6 hret), h.completed hs, Dev.view_finish_keeps _ _ _ _ _, rfl⟩,
      fun hret => ?_⟩
    obtain ⟨t, ht, hwork, -, -⟩ := retireCore_of_good s.view 6 hret rfl
    exact ⟨_, _, exec_coreRetire h ht, h.completed hs hwork.flights (Dev.queue_congr hwork.queues _), rfl, rfl⟩
  · simp [checkCoreRetire, h]
  · intro s f x r p q h hr hs hz hp hq hm hk hn
    obtain ⟨d, hd, hsheds⟩ := exec_planRun_of_noSeq h hr hs hz hp hq hm hk hn
    refine ⟨d, hd, fun k y hy => ?_⟩
    obtain ⟨z, hz, hzk⟩ := Option.bind_eq_some_iff.1 hy
    rw [hz, Option.map_some, Option.some.injEq] at hsheds
    exact NonVol.startSheds_cores (hsheds ▸ hzk)

end

section
/-! SUPPORT. Fallow slices: sweeps, opportunities, verdicts and yields, sheds woken and leaving, and the tests that a command asks
for (R306 to R312, R315 to R318). -/
namespace Sys2Proof.Machine
open Sys2Proof

@[simp] theorem Dev.advance_now (d : Dev) (dt : Nat) : (d.advance dt).now = d.now + dt := rfl
@[simp] theorem Dev.advance_core (d : Dev) (dt k : Nat) : (d.advance dt).core k = d.core k := rfl
@[simp] theorem Dev.dropPlls_shed (d : Dev) (k : Nat) : d.dropPlls.shed k = d.shed k := rfl

/-! ### Sweeps, opportunities and yields (R306, R309) -/

/-- R306: the record of a core whose sweep starts: what is still due stays so, the other slices come due in turn. -/
def CoreRec.sweep (c : CoreRec) (now : Nat) : CoreRec :=
  { c with
    sweepAt := now, done := [],
    dueAt := c.dueAt.filter (fun x => x.2 ≤ now) ++ ((List.range 8).map (fun k => (k, now + 75000000000 * k))).filter
      (fun x => !(c.dueAt.filter (fun x => x.2 ≤ now)).any (fun y => y.1 == x.1)) }

/-- With nothing due from the sweep before, slice k comes due 75 k s after the start. -/
theorem CoreRec.sweep_of_clear {c : CoreRec} {now : Nat} (h : ∀ e ∈ c.dueAt, now < e.2) :
    c.sweep now = { c with sweepAt := now, done := [], dueAt := (List.range 8).map (fun k => (k, now + 75000000000 * k)) } := by
  have hlate : c.dueAt.filter (fun x => x.2 ≤ now) = [] := List.filter_eq_nil_iff.2 fun e he => by simpa using h e he
  simp only [CoreRec.sweep, hlate, List.any_nil, Bool.not_false, List.filter_true, List.nil_append]

theorem CoreRec.giveWay_of_running {c : CoreRec} {k t : Nat} (now : Nat) (h : c.running = some (k, t)) :
    c.giveWay now = { c with running := none, stolen := (t, now - t) :: c.stolen } := by rw [CoreRec.giveWay, h]

section
variable (s : State) (shed core k dt : Nat)

theorem exec_fallowSweepStart : exec (.fallowSweepStart shed core dt) s = s.gives
    (if !s.nv.inService shed || s.nv.isRetired shed core ||
        !(s.view.advance dt).elapsed (s.dev.core (coreKey shed core)).sweepAt 600000000000 then s.view.advance dt
      else (s.view.advance dt).setCore (coreKey shed core) ((s.dev.core (coreKey shed core)).sweep (s.dev.now + dt))) := rfl

theorem exec_fallowSliceStart : exec (.fallowSliceStart shed core k dt) s = s.gives
    (if (s.view.advance dt).mayRunSlice s.nv shed core k then
      (s.view.advance dt).setCore (coreKey shed core) { s.dev.core (coreKey shed core) with running := some (k, s.dev.now + dt) }
      else s.view.advance dt) := rfl

theorem exec_fallowSliceYield : exec (.fallowSliceYield shed core dt) s = s.gives
    ((s.view.advance dt).setCore (coreKey shed core) ((s.dev.core (coreKey shed core)).giveWay (s.dev.now + dt))) := rfl

end

/-! ### Verdicts (R310) -/

section
variable (nv : NonVol) (d : Dev) {shed core k : Nat} (cause : Nat)

/-- R310: the PASS of a slice that had not failed marks it done, and it is due no more. -/
theorem slicePass_of_clean (h : (d.core (coreKey shed core)).failedOnce.contains k = false) :
    ∃ c, slicePass nv d shed core k cause = (nv, d.setCore (coreKey shed core) c) ∧ c.running = none ∧ k ∈ c.done ∧
      c.dueAt = (d.core (coreKey shed core)).dueAt.filter (fun x => !(x.1 == k && x.2 ≤ d.now)) := by
  refine ⟨_, by simp only [slicePass, h, Bool.false_and, Bool.false_eq_true, if_false]; rfl, rfl, ?_, rfl⟩
  dsimp only
  split
  · next hk => exact List.contains_iff_mem.1 hk
  · exact List.mem_append_right _ List.mem_cons_self

theorem sliceFail_of_first (h : (d.core (coreKey shed core)).failedOnce.contains k = false) :
    sliceFail nv d shed core k cause = (nv, d.setCore (coreKey shed core)
      { d.core (coreKey shed core) with running := none, failedOnce := (d.core (coreKey shed core)).failedOnce ++ [k] }) :=
  if_neg (by simpa using h)

theorem sliceFail_of_second (h : (d.core (coreKey shed core)).failedOnce.contains k = true) :
    sliceFail nv d shed core k cause =
      retireCore nv (d.setCore (coreKey shed core) { d.core (coreKey shed core) with running := none }) shed core cause :=
  if_pos h

end

/-- R307: a shed that returns to its state leaves every core's record. -/
@[simp] theorem Dev.fallowDone_core (d : Dev) (shed k : Nat) : (d.fallowDone shed).core k = d.core k := by
  unfold Dev.fallowDone
  dsimp only
  split <;> rfl

theorem Dev.fallowDone_leaving (d : Dev) (shed : Nat) : ((d.fallowDone shed).shed shed).leaving = (d.shed shed).leaving := by
  unfold Dev.fallowDone
  dsimp only
  split
  · rw [Dev.dropPlls_shed, Dev.setShed_shed_same]
  · rfl

/-- R308: the slice that core `key` began at `t` has ended, and its time counts as stolen. -/
def Dev.sliceEnded (d : Dev) (key t : Nat) : Dev :=
  d.setCore key { d.core key with
    stolen := (t, d.now - t) :: (d.core key).stolen.filter (fun x => d.now < x.1 + x.2 + 10000000) }

@[simp] theorem Dev.sliceEnded_core (d : Dev) (key t : Nat) : (d.sliceEnded key t).core key = { d.core key with
    stolen := (t, d.now - t) :: (d.core key).stolen.filter (fun x => d.now < x.1 + x.2 + 10000000) } := Dev.setCore_core_same _ _ _

@[simp] theorem Dev.sliceEnded_now (d : Dev) (key t : Nat) : (d.sliceEnded key t).now = d.now := rfl

theorem Dev.sliceEnded_core_other (d : Dev) {key j : Nat} (t : Nat) (h : j ≠ key) : (d.sliceEnded key t).core j = d.core j :=
  Dev.setCore_core_other _ _ h

section
variable {s : State} {shed core : Nat} (dt : Nat)

theorem exec_fallowSliceVerdict_of_idle (pass : Bool) (h : (s.dev.core (coreKey shed core)).running = none) :
    exec (.fallowSliceVerdict shed core pass dt) s = s.gives (s.view.advance dt) := by
  show execFallowSliceVerdict shed core pass dt s = _
  simp only [execFallowSliceVerdict, onNv_next, Dev.advance_core, State.view_core, h]
  rfl

variable {k t : Nat} (h : (s.dev.core (coreKey shed core)).running = some (k, t)) {nv : NonVol} {d : Dev}
include h

theorem exec_fallowSliceVerdict_of_pass
    (hz : slicePass s.nv ((s.view.advance dt).sliceEnded (coreKey shed core) t) shed core k 5 = (nv, d)) :
    exec (.fallowSliceVerdict shed core true dt) s = .next { s with nv := nv, dev := d.fallowDone shed } := by
  simp only [Dev.sliceEnded, Dev.advance_core, State.view_core, h] at hz
  show execFallowSliceVerdict shed core true dt s = _
  simp only [execFallowSliceVerdict, onNv_next, Dev.advance_core, State.view_core, h, if_true, hz]

theorem exec_fallowSliceVerdict_of_fail
    (hz : sliceFail s.nv ((s.view.advance dt).sliceEnded (coreKey shed core) t) shed core k (sliceCause k) = (nv, d)) :
    exec (.fallowSliceVerdict shed core false dt) s = .next { s with nv := nv, dev := d.fallowDone shed } := by
  simp only [Dev.sliceEnded, Dev.advance_core, State.view_core, h] at hz
  show execFallowSliceVerdict shed core false dt s = _
  simp only [execFallowSliceVerdict, onNv_next, Dev.advance_core, State.view_core, h, Bool.false_eq_true, if_false, hz]

/-- R310: a PASS of a slice that had not failed. -/
theorem fallowSliceVerdict_passes (hk : (s.dev.core (coreKey shed core)).failedOnce.contains k = false) :
    ∃ u, exec (.fallowSliceVerdict shed core true dt) s = s.gives u ∧ (u.core (coreKey shed core)).running = none ∧
      k ∈ (u.core (coreKey shed core)).done ∧
      (∀ e ∈ (u.core (coreKey shed core)).dueAt, e ∈ (s.dev.core (coreKey shed core)).dueAt ∧ ¬(e.1 = k ∧ e.2 ≤ s.dev.now + dt)) ∧
      ∀ j, j ≠ coreKey shed core → u.core j = s.dev.core j := by
  obtain ⟨c, hz, hrun, hdone, hdue⟩ :=
    slicePass_of_clean s.nv ((s.view.advance dt).sliceEnded (coreKey shed core) t) 5 (by rw [Dev.sliceEnded_core]; exact hk)
  refine ⟨_, exec_fallowSliceVerdict_of_pass dt h hz, ?_, ?_, fun e he => ?_, fun j hj => ?_⟩
  · rw [Dev.fallowDone_core, Dev.setCore_core_same, hrun]
  · rw [Dev.fallowDone_core, Dev.setCore_core_same]
    exact hdone
  · rw [Dev.fallowDone_core, Dev.setCore_core_same, hdue, Dev.sliceEnded_core] at he
    obtain ⟨hmem, hnot⟩ := List.mem_filter.1 he
    exact ⟨hmem, fun ⟨hek, hle⟩ => by simp [hek, hle] at hnot⟩
  · rw [Dev.fallowDone_core, Dev.setCore_core_other _ _ hj, Dev.sliceEnded_core_other _ _ hj, Dev.advance_core, State.view_core]

/-- R310: a first FAIL, which leaves the slice due. -/
theorem fallowSliceVerdict_failsOnce (hk : (s.dev.core (coreKey shed core)).failedOnce.contains k = false) :
    ∃ u, exec (.fallowSliceVerdict shed core false dt) s = s.gives u ∧ (u.core (coreKey shed core)).running = none ∧
      (u.core (coreKey shed core)).failedOnce = (s.dev.core (coreKey shed core)).failedOnce ++ [k] ∧
      (u.core (coreKey shed core)).dueAt = (s.dev.core (coreKey shed core)).dueAt := by
  have hz := sliceFail_of_first s.nv ((s.view.advance dt).sliceEnded (coreKey shed core) t) (sliceCause k)
    (by rw [Dev.sliceEnded_core]; exact hk)
  refine ⟨_, exec_fallowSliceVerdict_of_fail dt h hz, ?_⟩
  rw [Dev.fallowDone_core, Dev.setCore_core_same, Dev.sliceEnded_core]
  exact ⟨rfl, rfl, rfl⟩

/-- R310, R312, R315: a second FAIL retires the core. -/
theorem fallowSliceVerdict_retires (hk : (s.dev.core (coreKey shed core)).failedOnce.contains k = true)
    (hr : s.nv.isRetired shed core = false) (hnv : nv = s.nv.retire shed core { cause := sliceCause k, tick := (s.view.advance dt).gtc.val }) :
    ∃ u, exec (.fallowSliceVerdict shed core false dt) s = .next { s with nv := nv, dev := u } ∧
      (u.core (coreKey shed core)).running = none ∧ (u.core (coreKey shed core)).failedOnce = [] ∧
      (u.core (coreKey shed core)).dueAt = [] ∧ ((nv.good shed).length < 64 → (u.shed shed).leaving = true) := by
  have hz := sliceFail_of_second s.nv ((s.view.advance dt).sliceEnded (coreKey shed core) t) (sliceCause k)
    (by rw [Dev.sliceEnded_core]; exact hk)
  obtain ⟨d, hd, -, hcore, hleave⟩ := retireCore_of_good (((s.view.advance dt).sliceEnded (coreKey shed core) t).setCore _ _) (sliceCause k) hr hnv
  refine ⟨_, exec_fallowSliceVerdict_of_fail dt h (hz.trans hd), ?_⟩
  rw [Dev.fallowDone_core, Dev.fallowDone_leaving, hcore]
  exact ⟨rfl, rfl, rfl, hleave⟩

end

/-! ### Sheds woken for their slices, and sheds that leave (R307, R315) -/

theorem exec_fallowShedWake (s : State) (shed dt : Nat) : exec (.fallowShedWake shed dt) s = s.gives
    (if s.nv.inService shed && s.dev.fallow.enable &&
        ((s.dev.shed shed).power == .hold || (s.dev.shed shed).power == .save || (s.dev.shed shed).power == .off) &&
        (s.nv.good shed).any (fun c => (s.dev.core (coreKey shed c)).dueAt.any (fun y => y.2 + 10000000000 ≤ s.dev.now + dt)) then
      (s.view.advance dt).setShed shed { s.dev.shed shed with fallowRun := true, saving := none } else s.view.advance dt) := rfl

theorem exec_shedLeaveService (s : State) (shed : Nat) : exec (.shedLeaveService shed) s =
    .next { s with nv := (leaveService s.nv s.view shed).1, dev := (leaveService s.nv s.view shed).2 } := rfl

section
variable {nv : NonVol} {d : Dev} {shed : Nat}

/-- R315: what waited for the shed's last run is done; the commands and the paddocks stay. -/
theorem leaveService_of_idle (hl : (nv.good shed).length < 64 ∨ (d.shed shed).leaving = true) (hs : nv.inService shed = true)
    (hb : d.busyShed shed = false) : ∃ t, leaveService nv d shed = ({ nv with shedsOut := shed :: nv.shedsOut }, t) ∧
      (t.shed shed).leaving = false ∧ t.flights = d.flights ∧ t.pads = d.pads := by
  refine ⟨_, if_pos (by simpa [hs, hb] using hl), ?_, ?_, ?_⟩
  · rw [Dev.setShed_shed_same]
  · exact (Dev.SameWork.foldl _ (fun d p => Dev.postP_sameWork d _ _ _ _) _ d).flights
  · exact List.foldlRecOn _ _ (motive := fun t : Dev => t.pads = d.pads) rfl (fun t ht p _ => (Dev.postP_pads t _ _ _ _).trans ht)

theorem leaveService_of_barred (h : nv.inService shed = false ∨ d.busyShed shed = true) : leaveService nv d shed = (nv, d) :=
  if_neg (by rcases h with h | h <;> simp [h])

end

/-! ### FALLOW_POLICY (R316) -/

/-- The cap that the command sets. -/
def Flight.fallowCap (x : Flight) : Nat := if fld (x.w 4) 0 16 = 0 then 100 else fld (x.w 4) 0 16

/-- The policy that the command sets. -/
def Flight.fallowPolicy (x : Flight) : FallowPolicy :=
  { enable := bitOf (x.w 2) 0, minIdle := if x.w 3 = 0 then 50 else x.w 3, cap := x.fallowCap }

theorem exec_fallowPolicy {s : State} {f : Nat} {x : Flight} (h : Runs s f 0x90 x) :
    exec (.fallowPolicy f) s = s.gives (Dev.finish { s.view with fallow := x.fallowPolicy } f .ok x.fallowCap 0) := by
  show execFallowPolicy f s = _
  rw [execFallowPolicy, h.onDev]
  rfl

/-! ### TEST_RUN (R318) -/

theorem Dev.SameWork.ite {d₀ : Dev} {y z : NonVol × Dev} {p : Prop} [Decidable p] (hy : Dev.SameWork d₀ y.2) (hz : Dev.SameWork d₀ z.2) :
    Dev.SameWork d₀ (if p then y else z).2 := by
  split
  · exact hy
  · exact hz

section
variable {d₀ : Dev} (nv : NonVol) {d : Dev} (h : Dev.SameWork d₀ d) (shed core k cause : Nat)
include h

theorem retireCore_sameWork : Dev.SameWork d₀ (retireCore nv d shed core cause).2 := by
  cases hr : nv.isRetired shed core with
  | true => rw [retireCore_of_retired d cause hr]; exact h
  | false =>
    obtain ⟨t, ht, hwork, -⟩ := retireCore_of_good d cause hr rfl
    rw [ht]
    exact h.trans hwork

theorem Dev.SameWork.setCore (c : CoreRec) : Dev.SameWork d₀ (d.setCore k c) := h.trans ⟨rfl, rfl, rfl⟩

theorem slicePass_sameWork : Dev.SameWork d₀ (slicePass nv d shed core k cause).2 :=
  (retireCore_sameWork nv (h.setCore _ _) shed core cause).ite (h.setCore _ _)

theorem sliceFail_sameWork : Dev.SameWork d₀ (sliceFail nv d shed core k cause).2 :=
  (retireCore_sameWork nv (h.setCore _ _) shed core cause).ite (h.setCore _ _)

theorem testSlice_sameWork (n : Nat) : Dev.SameWork d₀ (testSlice nv d shed core k n cause).2 :=
  have hf := sliceFail_sameWork nv h shed core k cause
  (slicePass_sameWork nv h shed core k 5).ite ((slicePass_sameWork _ hf shed core k 5).ite (sliceFail_sameWork _ hf shed core k cause))

end

/-- Tests touch the cores' records, the retirements and the events, and no command. -/
theorem runSlices_sameWork {d₀ : Dev} (slices : List Nat) (fails : List (Nat × Nat × Nat)) (cause : Nat → Nat) :
    ∀ (cores : List (Nat × Nat)) (nv : NonVol) (d : Dev), Dev.SameWork d₀ d → Dev.SameWork d₀ (runSlices slices fails cause cores nv d).2.1
  | [], _, _, h => h
  | (s, c) :: t, nv, d, h => by
    refine runSlices_sameWork slices fails cause t _ _ ?_
    refine List.foldlRecOn slices _ (motive := fun z : NonVol × Dev × Nat => Dev.SameWork d₀ z.2.1) h (fun z hz k _ => ?_)
    dsimp only
    split
    · exact hz
    · exact testSlice_sameWork _ hz _ _ _ _ _

/-- Where no slice fails, none is counted. -/
theorem runSlices_count_of_pass (slices : List Nat) (cause : Nat → Nat) :
    ∀ (cores : List (Nat × Nat)) (nv : NonVol) (d : Dev), (runSlices slices [] cause cores nv d).2.2 = 0
  | [], _, _ => rfl
  | _ :: t, _, _ => by
    refine (congrArg₂ (· + ·) ?_ (runSlices_count_of_pass slices cause t _ _)).trans (Nat.add_zero 0)
    refine List.foldlRecOn slices _ (motive := fun z : NonVol × Dev × Nat => z.2.2 = 0) rfl (fun z hz k _ => ?_)
    dsimp only
    split
    · exact hz
    · simpa [b2n] using hz

theorem exec_testRun {s : State} {f : Nat} {x : Flight} (h : Runs s f 0x91 x) (fails : List (Nat × Nat × Nat)) :
    exec (.testRun f fails) s =
      .next { s with nv := (testRun s.nv s.view f x fails).1, dev := (testRun s.nv s.view f x fails).2 } := by
  obtain ⟨hf, hp, ho⟩ := h
  show execTestRun f fails s = _
  simp only [execTestRun, onNv_next, State.view_flights, hf, hp, ho, and_self, if_true]

/-- R318: a test ends with its two counts, and no failure is counted where none occurs. -/
theorem testRun_completes {s : State} {f : Nat} {x : Flight} (h : Runs s f 0x91 x) (hs : SlotFree s.dev x)
    (fails : List (Nat × Nat × Nat)) : ∃ n, (fails = [] → n = 0) ∧ Completed s.dev (testRun s.nv s.view f x fails).2 f x .ok n
      ((testCores s.nv (x.w 3)).length * (testSlices (fld (x.w 2) 0 8)).length) := by
  have hwork := runSlices_sameWork (testSlices (fld (x.w 2) 0 8)) fails (fun _ => 7) (testCores s.nv (x.w 3)) s.nv s.view (.refl _)
  refine ⟨_, ?_, h.completed hs hwork.flights (Dev.queue_congr hwork.queues _)⟩
  rintro rfl
  exact runSlices_count_of_pass _ _ _ _ _

end Sys2Proof.Machine
end

section
/-! PROOFS. Fallow slices. -/
open Sys2Proof Sys2Proof.Machine

/-- Settles O52: each row where its condition holds, and unchanged where it does not; a verdict is the end of its slice and then
a PASS, a first FAIL or a retirement, and a test ends with what its slices count. -/
theorem fallowSlicesFindFailingCores : Obligations.FallowSlicesFindFailingCores := by
  rintro s shed core k dt t0 f x _ _ _ rfl rfl rfl
  refine ⟨fun hs hr hold hlate => ?_, fun hnew => ?_, fun hm => ?_, fun hm => ?_, fun hidle b => exec_fallowSliceVerdict_of_idle dt b hidle,
    fun h hk => ⟨fallowSliceVerdict_passes dt h hk, fallowSliceVerdict_failsOnce dt h hk⟩, fun h hk hr => ?_, fun h => ?_,
    fun hp hs he hdue => ?_, fun hno => ?_, fun hl hs hb => ?_, fun hno => ?_, ?_, fun h hs fails => ?_⟩
  · have hdue : (s.view.advance dt).elapsed (s.dev.core (coreKey shed core)).sweepAt 600000000000 = true := Dev.elapsed_iff.2 hold
    rw [exec_fallowSweepStart, if_neg (by simp [hs, hr, hdue]), CoreRec.sweep_of_clear hlate]
  · have hsoon : (s.view.advance dt).elapsed (s.dev.core (coreKey shed core)).sweepAt 600000000000 = false :=
      decide_eq_false (Nat.not_le.2 hnew)
    rw [exec_fallowSweepStart, if_pos (by simp [hsoon])]
  · rw [exec_fallowSliceStart, if_pos hm]
  · rw [exec_fallowSliceStart, if_neg (by simp [hm])]
  · obtain ⟨u, hu, hrun, honce, hdue, hleave⟩ := fallowSliceVerdict_retires dt h hk hr rfl
    exact ⟨_, u, hu, rfl, hrun, honce, hdue, hleave⟩
  · rw [exec_fallowSliceYield, CoreRec.giveWay_of_running _ h]
  · obtain ⟨j, hj, e, hej, hlate⟩ := hdue
    have hasleep : ((s.dev.shed shed).power == .hold || (s.dev.shed shed).power == .save || (s.dev.shed shed).power == .off) = true := by
      simpa [or_assoc] using hp
    have hover : (s.nv.good shed).any
        (fun c => (s.dev.core (coreKey shed c)).dueAt.any (fun y => y.2 + 10000000000 ≤ s.dev.now + dt)) = true :=
      List.any_eq_true.2 ⟨j, hj, List.any_eq_true.2 ⟨e, hej, decide_eq_true hlate⟩⟩
    rw [exec_fallowShedWake, hs, he, hasleep, hover]
    rfl
  · rw [exec_fallowShedWake, if_neg]
    rcases hno with h | h | h | h <;> simp [h]
  · obtain ⟨t, ht, hleave, hflights, hpads⟩ := leaveService_of_idle (d := s.view) hl hs hb
    exact ⟨t, by rw [exec_shedLeaveService, ht], hleave, hflights, hpads⟩
  · rw [exec_shedLeaveService, leaveService_of_barred hno]
    rfl
  · rintro _ rfl h hs
    exact ⟨_, exec_fallowPolicy h, h.completed hs, Dev.finish_fallow _ _ _ _ _, Dev.finish_cores _ _ _ _ _⟩
  · obtain ⟨n, hn, hdone⟩ := testRun_completes h hs fails
    exact ⟨_, _, n, exec_testRun h fails, hdone, hn⟩

end

section
/-! SUPPORT. The TAP's instructions and the one row that may not answer (R346; logs 2, 5, 24 and 58). -/
namespace Sys2Proof.Machine
open Sys2Proof

section
variable {s : State}

/-- What the debug unit does, the spec does not say (log 58). -/
theorem exec_jtagDebug_of_permitted (h : bitOf s.dev.boot.policy 1 = true) :
    exec (.jtagTapInstruction .debug) s = .refused .debugUnit := if_pos h

theorem exec_jtagDebug_of_barred (h : bitOf s.dev.boot.policy 1 = false) :
    exec (.jtagTapInstruction .debug) s = s.gives { s.view with jtag := .bypass } := if_neg (by simp [h])

/-- The debug instruction answers where the policy bars it, and the others wherever they come. -/
theorem exec_jtagTapInstruction_next {ti : TapInstr} (h : ¬ DebugPermitted (.jtagTapInstruction ti) s) :
    ∃ t, exec (.jtagTapInstruction ti) s = .next t := by
  cases ti
  case debug => exact ⟨_, exec_jtagDebug_of_barred (Bool.eq_false_iff.2 fun hp => h ⟨rfl, hp⟩)⟩
  all_goals exact ⟨_, rfl⟩

/-- A row whose event cannot happen answers too: it changes nothing (log 2). -/
theorem exec_next_of_not_debugPermitted {c : Instr} (h : ¬ DebugPermitted c s) : ∃ t, exec c s = .next t := by
  cases c
  case jtagTapInstruction ti => exact exec_jtagTapInstruction_next h
  all_goals exact ⟨_, rfl⟩

end

end Sys2Proof.Machine
end

section
/-! PROOFS. Every command answers, and the TAP selects its instructions. -/
open Sys2Proof Sys2Proof.Machine

/-- Settles O3: a row that answers leaves the queue of waiting commands, and no row but a permitted debug instruction fails to
answer. -/
theorem everyCommandAnswers : Obligations.EveryCommandAnswers := by
  intro c s hdebug
  obtain ⟨t, ht⟩ := exec_next_of_not_debugPermitted hdebug
  obtain ⟨-, -, hpending⟩ := exec_leaves c s t ht
  exact ⟨t, ht, hpending⟩

/-- Settles O8: the debug instruction by the policy's bit 1; the others select themselves under every policy. -/
theorem jtagInstructionsSelect : Obligations.JtagInstructionsSelect := by
  intro s
  refine ⟨exec_jtagDebug_of_permitted, exec_jtagDebug_of_barred, ?bypass, ?sample, ?extest, ?highz, ?idcode⟩
  case idcode => exact ⟨{ s.view with jtag := .idcode, out := { s.view.out with value := idcode } }, rfl, rfl, rfl⟩
  all_goals rfl

end
